-- ==== Sys2Proof/Word.lean ====
section
/-! DEFINITION. The bit-vector types of what the manual carries as bits: the bytes of the desk line and of the
desk port (R207), and the sixteen-bit check of a notice (R25). Every quantity the manual gives as a number in a unit
is a Nat or an Int. -/

namespace Sys2Proof

/-- One byte on the desk line or at the desk port (R19, R209). -/
abbrev Byte := BitVec 8

/-- The sixteen-bit remainder of the notice check (R25). -/
abbrev Check := BitVec 16

end Sys2Proof
end

