-- ==== Sys2Proof/Config.lean ====
section
/-! DEFINITION. The fixed numbers of the manual, and the free values it leaves open.

Elapsed time is counted in quanta of 3.125 µs, the greatest unit in which every interval of the manual is whole:
320 quanta are a millisecond and 5 quanta a symbol time of 15.625 µs (R19). -/

namespace Sys2Proof.Config

/-- Quanta of elapsed time in one millisecond. -/
abbrev msQuanta : Nat := 320

/-- One symbol time of the desk line, 15.625 µs (R19). -/
abbrev symbolQuanta : Nat := 5

/-- The quiet line: 16 symbol times high in a row (R19). -/
abbrev quietQuanta : Nat := 16 * symbolQuanta

/-- A whole notice: 100 symbol times (R19). -/
abbrev noticeQuanta : Nat := 100 * symbolQuanta

/-- The clock stops at 4,294,967,295,000 ms (R194). -/
abbrev clockMax : Nat := 4294967295000

/-- The most a four-byte time field holds (R131). -/
abbrev fieldMax : Nat := 4294967295

/-- Desk orders in the order queue (R111). -/
abbrev orderCap : Nat := 8
/-- Completion records in the completion queue (R133). -/
abbrev completionCap : Nat := 16
/-- Notices in the transmit queue (R27). -/
abbrev transmitCap : Nat := 16
/-- Reports in the report queue (R195). -/
abbrev reportCap : Nat := 64
/-- Tickets in the ticket table (R155). -/
abbrev ticketCap : Nat := 128
/-- Entries of the foreign ticket cache (R169). -/
abbrev cacheCap : Nat := 32
/-- Unit numbers of the access network (R9). -/
abbrev unitCount : Nat := 64
/-- Line positions of one access unit (Chapter 1). -/
abbrev unitLines : Nat := 256

/-- The greatest reported or clamped conductance, in pS (R91). -/
abbrev conductanceMax : Int := 100000000000
/-- The greatest capacitance, in pF (R95). -/
abbrev capacitanceMax : Int := 10000000
/-- The end of the current sense range, in nA (R70). -/
abbrev currentMax : Int := 60000000
/-- The end of the voltage sense range, in mV (R70). -/
abbrev voltageMax : Int := 250000
/-- The fixed DC hazard limit, in mV (R73, R76). -/
abbrev hazardDc : Int := 60000
/-- The fixed AC hazard limit, in mV RMS (R73). -/
abbrev hazardAc : Nat := 50000

/-- FREE VALUE (DESIGN CHOICE, safe, logs 7, 8 and 35). The n-th choice that the manual leaves open: which of two blocks that hold notices back
is offered a free place first (R30), and whether a request whose exchange ended without its answer was acted on (R5, R6, R18, R202).
It has no body: nothing can be proved of it, so a claim holds for every value. -/
opaque freeChoice : Nat → Bool

/-- FREE VALUE (DESIGN CHOICE, safe, log 37). What the four bytes of a ticket record show for a retest due that they cannot hold (R162, R171):
the manual states no value there. It has no body. -/
opaque retestDuePastField : Nat → BitVec 32

end Sys2Proof.Config
end

