-- ==== Sys2Proof/Syntax.lean ====
section
/-! DEFINITION. The commands of the 412T: one constructor of Instr for each row of spec/opcode_table.json.

The rows are of two kinds. An event is something that happens to the part: an answer on the chain, a notice on the
desk line, a timer that runs out, a run of samples that is complete. A desk command is a complete command record at
the desk port (R190); its operands are the numbers its body carries (R209). -/

namespace Sys2Proof

/-- The fitted positions of the four strap groups, one bit each (R201). -/
structure StrapMasks where
  station : BitVec 16
  buses : BitVec 4
  baseUnit : BitVec 64
  units : BitVec 16
  deriving DecidableEq, Repr

/-- The content of an answer on the back pair (R2, R4). A READ LINE answer carries the bus set, bit b for bus b; a POLL
answer carries supply and alarm; an acknowledgement carries nothing, and the fields the exchange does not carry
are not looked at. What the other agents do comes to the station as operands like these (DESIGN CHOICE, safe, log 22). -/
structure ChainAnswer where
  buses : BitVec 4
  supplyGood : Bool
  alarm : Bool
  deriving DecidableEq, Repr

/-- One of the twelve step entries of an order record, as its bytes give it (section 12.4). -/
structure StepEntry where
  kind : Nat
  mark : Nat
  seconds : Nat
  deriving DecidableEq, Repr

/-- The order record of SUBMIT ORDER (section 12.4). -/
structure OrderRecord where
  tag : Nat
  line : Nat
  urgency : Nat
  busPref : Nat
  volts : Nat
  count : Nat
  entries : List StepEntry
  deriving DecidableEq, Repr

/-- The body of SWEEP START (R209): 65,535 stands for an absent start line and an absent interval. -/
structure SweepStartRecord where
  start : Nat
  onComplete : Nat
  onError : Nat
  once : Nat
  interval : Nat
  deriving DecidableEq, Repr

/-- The body of LOAD SETTINGS (R209), before any clamping. -/
structure SettingsRecord where
  foreign : Nat
  loop : Nat
  ground : Nat
  insulation : Nat
  imbalance : Nat
  gauge : List Nat
  gaugeIndex : List Nat
  accessWait : Nat
  suspend : Nat
  decay : Nat
  openLevel : Nat
  clearLevel : Nat
  clearHold : Nat
  retest : Nat
  guard : Nat
  deriving DecidableEq, Repr

/-- The commands, in the order of spec/opcode_table.json. Each docstring names the row's rule. -/
inductive Instr where
  /-- POWER_ON (R202). -/
  | powerOn (straps : StrapMasks)
  /-- EXCHANGE_ANSWERED (R4). -/
  | exchangeAnswered (answer : ChainAnswer)
  /-- ANSWER_START_TIMEOUT (R5). -/
  | answerStartTimeout
  /-- ANSWER_END_TIMEOUT (R6). -/
  | answerEndTimeout
  /-- POLLING_POINT (R10). -/
  | pollingPoint
  /-- CONNECT_SETTLE_END (R14): at most one job is in the access stage, so one connect at most settles. -/
  | connectSettleEnd
  /-- RELEASE_SETTLE_END (R16), for the release or retry on this bus. -/
  | releaseSettleEnd (bus : Nat)
  /-- RELEASE_RETRY (R17), for the STUCK claim on this bus. -/
  | releaseRetry (bus : Nat)
  /-- QUIET_WAIT_END (R21). -/
  | quietWaitEnd
  /-- BACKOFF_END (R23). -/
  | backoffEnd
  /-- COLLISION (R22). -/
  | collision
  /-- NOTICE_SENT (R22). -/
  | noticeSent
  /-- RECEPTION_ABANDONED (R20). -/
  | receptionAbandoned
  /-- NOTICE_RECEIVED (R33): the ten bytes of a complete notice from another station. -/
  | noticeReceived (bytes : List Byte)
  /-- CONTEST_WINDOW_END (R43). -/
  | contestWindowEnd
  /-- AWAIT_YIELD_LIMIT (R44). -/
  | awaitYieldLimit
  /-- AWAITED_ENTRY_EXPIRY (R44): the earliest awaited entry of the claim on this bus. -/
  | awaitedEntryExpiry (bus : Nat)
  /-- HOLD_INTERVAL (R47), for the claim on this bus. -/
  | holdInterval (bus : Nat)
  /-- DISTURBANCE_DEADLINE (R52): the earliest disturbance record of the claim on this bus. -/
  | disturbanceDeadline (bus : Nat)
  /-- PEER_ENTRY_EXPIRY (R60), for the peer entry of this bus. -/
  | peerEntryExpiry (bus : Nat)
  /-- JOIN_PERIOD_END (R61). -/
  | joinPeriodEnd
  /-- HEAD_CONNECTED (R66). -/
  | headConnected
  /-- FOREIGN_STAGE_END (R72): the 80 voltages met at the sample instants of each pair, in mV. -/
  | foreignStageEnd (tg rg tr : List Int)
  /-- RESIST_OFF_PHASE_END (R76): the 16 currents (nA) and 16 lead voltages (mV) of the OFF phase. -/
  | resistOffPhaseEnd (current voltage : List Int)
  /-- RESIST_SETTLE_END (R75). -/
  | resistSettleEnd
  /-- RESIST_ON_READING_END (R75): the 16 currents of the ON reading, in nA. -/
  | resistOnReadingEnd (current : List Int)
  /-- CAPACITY_RECORD_END (R77): the 256 currents of the record, in nA. -/
  | capacityRecordEnd (current : List Int)
  /-- CAPACITY_DRAIN_END (R77). -/
  | capacityDrainEnd
  /-- DISCHARGE_END (R79). -/
  | dischargeEnd
  /-- BUS_RELAY_OPEN (R67). -/
  | busRelayOpen
  /-- ACCESS_START (R113). -/
  | accessStart
  /-- ACCESS_WAIT_LIMIT (R115), of the order with this tag. -/
  | accessWaitLimit (tag : Nat)
  /-- HOLD_STEP_END (R121). -/
  | holdStepEnd
  /-- SUSPEND_LIMIT (R127). -/
  | suspendLimit
  /-- CLEAR_HOLD_DEADLINE (R161), of the ticket with this ident. -/
  | clearHoldDeadline (ident : Nat)
  /-- CLEAR_UNIT_STEP (R150). -/
  | clearUnitStep
  /-- SWEEP_DUE (R176). -/
  | sweepDue
  /-- SWEEP_GUARD (R176). -/
  | sweepGuard
  /-- RESET_END (R206). -/
  | resetEnd
  /-- SELECT_RELEASED (R190). -/
  | selectReleased
  /-- RESPONSE_COMPLETED (R191). -/
  | responseCompleted
  /-- BAD_COMMAND (R192): a complete command whose code or length byte is wrong. -/
  | badCommand (code length : Nat)
  /-- SUBMIT_ORDER (R109). -/
  | submitOrder (order : OrderRecord)
  /-- CANCEL_ORDER (R128). -/
  | cancelOrder (tag : Nat)
  /-- RESUME_ORDER (R127). -/
  | resumeOrder (tag : Nat)
  /-- READ_COMPLETION (R191). -/
  | readCompletion
  /-- READ_REPORT (R195). -/
  | readReport
  /-- READ_STATUS (R193). -/
  | readStatus
  /-- SWEEP_START (R175). -/
  | sweepStart (start : SweepStartRecord)
  /-- SWEEP_STOP (R185). -/
  | sweepStop
  /-- SWEEP_CONTINUE (R186). -/
  | sweepContinue
  /-- READ_LINE_RECORD (R148). -/
  | readLineRecord (line : Nat)
  /-- SET_LINE_CLASS (R147). -/
  | setLineClass (first count repetition offset : Nat)
  /-- CLEAR_RECORDS (R149). -/
  | clearRecords
  /-- READ_TICKET_BY_IDENT (R171). -/
  | readTicketByIdent (ident : Nat)
  /-- READ_TICKET_BY_PLACE (R171). -/
  | readTicketByPlace (place : Nat)
  /-- ASSIGN_TICKET (R163). -/
  | assignTicket (ident : Nat)
  /-- CLOSE_TICKET (R164). -/
  | closeTicket (ident : Nat)
  /-- READ_FOREIGN_TICKETS (R171). -/
  | readForeignTickets
  /-- SET_TIME (R194). -/
  | setTime (seconds : Nat)
  /-- LOAD_SETTINGS (R203). -/
  | loadSettings (settings : SettingsRecord)
  /-- JOIN (R204). -/
  | join
  /-- STATION_RESET (R205). -/
  | stationReset
  /-- SET_FILTER (R197): the six accept marks as sent, the line value and the line mask. -/
  | setFilter (marks : List Nat) (value mask : Nat)
  /-- SET_CRITICAL_LEVEL (R196). -/
  | setCriticalLevel (level : Nat)
  /-- CLEAR_ERRORS (R199). -/
  | clearErrors
  /-- POLL_RESTART (R199). -/
  | pollRestart
  /-- ANSWER_BEGINS (R4). -/
  | answerBegins
  /-- START_SYMBOL_TAKEN (R20). -/
  | startSymbolTaken
  deriving DecidableEq, Repr

end Sys2Proof
end

