-- ==== Sys2Proof/Machine/State.lean ====
section
/-! DEFINITION. Every piece of state the manual gives the 412T, as plain data, the reasons a step can stop, and the
state right after reset. INVENTORY.md lists each field with its rule and its reset value. -/

namespace Sys2Proof.Machine

/-! ## Names of kinds and states -/

/-- The urgency of a claim (R38, R39); its order is ROUTINE, DEMAND, PRIORITY. -/
inductive Urgency where
  | routine | demand | priority
  deriving DecidableEq, Repr

/-- The eight verdict classes (section 5.8). -/
inductive Verdict where
  | hazard | foreign | loop | ground | lowInsulation | openLead | marginal | clear
  deriving DecidableEq, Repr

/-- The six notice kinds (section 2.5). -/
inductive NoticeKind where
  | announce | claim | hold | release | verdict | ticket
  deriving DecidableEq, Repr

/-- The four states of a ticket (section 8.2). -/
inductive TicketState where
  | opened | held | cleared | closed
  deriving DecidableEq, Repr

/-- The six causes of a ticket change (R166). -/
inductive TicketCause where
  | threshold | hazard | clear | assign | desk | auto
  deriving DecidableEq, Repr

/-- The four states of a unit table entry (section 1.3). -/
inductive UnitState where
  | absent | ok | alarm | down
  deriving DecidableEq, Repr

/-- The five kinds of chain exchange (section 12.1). -/
inductive ExchangeKind where
  | operate | release | readLine | poll | chainClear
  deriving DecidableEq, Repr

/-- The station state (section 3.6); `discovering` is the discovery mark that stands in place of a state until unit
discovery ends (R193, R202), from power-on (DESIGN CHOICE, unsafe, log 40). -/
inductive StationState where
  | discovering | starting | joining | active | isolated | resetting
  deriving DecidableEq, Repr

/-- The own-claim states that occupy an entry of the claim table (section 3.2). -/
inductive ClaimState where
  | sending | contest | awaitYield | held | releasing | stuck
  deriving DecidableEq, Repr

/-- The head states (R65). -/
inductive HeadState where
  | offBus | connecting | onBus | foreign | resist | capacity | discharge
  deriving DecidableEq, Repr

/-- The source states (R65). -/
inductive SourceState where
  | disconnected | zero | on
  deriving DecidableEq, Repr

/-- The three configurations of the head (section 4.5). -/
inductive HeadConfig where
  | a | b | c
  deriving DecidableEq, Repr

/-- The seven step kinds of an order (R108). -/
inductive StepKind where
  | connect | foreign | resist | capacity | verdict | hold | release
  deriving DecidableEq, Repr

/-- The phases of a job in a slot (R112). -/
inductive Phase where
  | access | connecting | ready | running | suspended | releasing
  deriving DecidableEq, Repr

/-- The end statuses of a desk order (R132). The last, YIELD, is the outcome of a yielded sweep job only (R116). -/
inductive EndStatus where
  | done | cancelled | lineBusy | noBus | unitDown | accessFault | accessLost | hazardAbort | suspendExpired
  | releaseFault | stationIsolated | yielded
  deriving DecidableEq, Repr

/-- The sweep states (section 9.1). -/
inductive SweepState where
  | stopped | interval | seeking | testing | haltedError | haltedComplete
  deriving DecidableEq, Repr

/-- The causes of a SWEEP_STATE report (R188). -/
inductive SweepCause where
  | start | continued | stop | onceDone | errorHalt | completeHalt | passEnd
  deriving DecidableEq, Repr

/-- The responses of the desk port (section 10.2). -/
inductive Response where
  | accepted | busy | full | state | badArgument | badOrder | badLine | tagInUse | unknownTag | notHome | notSuspended
  | empty
  deriving DecidableEq, Repr

/-- The two sequencer slots (R112). -/
inductive SlotId where
  | active | staged
  deriving DecidableEq, Repr

/-! ## Pairs and notices -/

/-- A bus and a line taken together (R38). -/
structure Pair where
  bus : Nat
  line : Nat
  deriving DecidableEq, Repr

/-- A notice of this station, before its bytes (section 2.5); the source is always this station. -/
inductive Notice where
  | announce
  | claim (urgency : Urgency) (pair : Pair)
  | hold (urgency : Urgency) (pair : Pair) (asserting : Bool)
  | release (pair : Pair)
  | verdict (line : Nat) (verdict : Verdict) (kohm : Nat)
  | ticket (ident line : Nat) (state : TicketState) (verdict : Verdict)
  deriving DecidableEq, Repr

/-- Why a notice matters to a block beyond its kind: a RELEASE of the reset, and a CLAIM that the reset withdrew too late, count
for its end (R206), and the ANNOUNCE of the join in hand starts the join period (R61). -/
inductive TxTag where
  | plain | ofReset | joining
  deriving DecidableEq, Repr

/-- A notice offered to the transmit queue. -/
structure Tx where
  notice : Notice
  tag : TxTag
  deriving DecidableEq, Repr

/-- What the notice in flight is doing (section 2.2): waiting for a quiet line, waiting out a backoff, or on the line
in a try that began at the elapsed time given. -/
inductive TryPhase where
  | waitQuiet
  | backoff
  | trying (since : Nat)
  deriving DecidableEq, Repr

/-- The notice in flight, its collision count (R23), and a withdrawal that came TOO_LATE and is kept with it (R31). -/
structure Flight where
  tx : Tx
  collisions : Nat
  phase : TryPhase
  withdrawn : Bool
  deriving DecidableEq, Repr

/-- The Desk Line Interface: the line as the receiver has it (R20, R21), the notice in flight, the transmit queue (R27),
and the notices that the Claim Manager, the Test Sequencer and the Ticket Table hold back (R30), oldest first. -/
structure DeskLine where
  busy : Bool
  startedAt : Nat
  endedAt : Nat
  flight : Option Flight
  queue : List Tx
  heldClaims : List Tx
  heldVerdicts : List Tx
  heldTickets : List Tx
  deriving DecidableEq, Repr

/-! ## Errors and reports -/

/-- The seven kinds of error (section 10.7). -/
inductive ErrorKind where
  | noticeCheck | lineJam | chainNoAnswer | chainStuck | stationClash | releaseFault | ticketTableFull
  deriving DecidableEq, Repr

/-- A captured error with its detail (section 10.7). A NOTICE_CHECK with no kind code is of form CHECK; a chain error
with no unit is of "chain clear". -/
inductive ErrorDetail where
  | noticeCheck (content : Option Nat)
  | lineJam (kind : NoticeKind)
  | chainNoAnswer (kind : ExchangeKind) (unit : Option Nat)
  | chainStuck (kind : ExchangeKind) (unit : Option Nat)
  | stationClash (kind : NoticeKind)
  | releaseFault (unit position : Nat)
  | ticketTableFull (line : Nat)
  deriving DecidableEq, Repr

/-- The first-error record (R198). -/
structure ErrorRecord where
  detail : ErrorDetail
  time : Nat
  deriving DecidableEq, Repr

/-- The seven kinds of report with what each carries (R195). -/
inductive ReportContent where
  | ticketChange (ident line : Nat) (before : Option TicketState) (after : TicketState) (latest : Verdict)
      (cause : TicketCause)
  | sweepResult (line : Nat) (verdict : Verdict) (retest : Bool) (pass : Nat) (ident : Option Nat)
  | sweepState (cause : SweepCause) (state : SweepState) (pointer pass skip : Nat)
  | unitChange (unit : Nat) (state : UnitState)
  | peerLapsed (station bus line : Nat)
  | heard (bytes : List Byte)
  | error (detail : ErrorDetail) (first : Bool)
  deriving DecidableEq, Repr

/-- A report in the queue, stamped with the station clock in milliseconds (R195). -/
structure Report where
  time : Nat
  content : ReportContent
  deriving DecidableEq, Repr

/-- The heard-notice filter (R197): the accept set in the order of the kinds 1 to 6, the line value and line mask. -/
structure HeardFilter where
  accept : List Bool
  value : BitVec 14
  mask : BitVec 14
  deriving DecidableEq, Repr

/-- The Report Unit: report queue oldest first, overrun flag, critical level (R195, R196), filter (R197) and error
capture (R198). The critical flag and the desk interrupt are levels computed from these (`criticalFlag`,
`deskInterrupt`). -/
structure ReportUnit where
  queue : List Report
  overrun : Bool
  critical : Nat
  filter : HeardFilter
  first : Option ErrorRecord
  more : Bool
  kinds : List ErrorKind
  deriving DecidableEq, Repr

/-! ## The drive chain -/

/-- A request on the chain (R2, R3). A pair names unit, position and bus. -/
inductive ChainRequest where
  | operate (pair : Pair)
  | release (pair : Pair)
  | readLine (pair : Pair)
  | poll (unit : Nat)
  | chainClear
  deriving DecidableEq, Repr

/-- The exchange on the chain: whether its answer has begun, and the elapsed time at which its present limit passes,
5 ms for a start and 30 ms for an end (R4). -/
structure Exchange where
  request : ChainRequest
  begun : Bool
  limit : Nat
  deriving DecidableEq, Repr

/-- Where power-on stands before discovery has ended (R202): at the first or second CHAIN CLEAR, or polling a unit. -/
inductive Discovery where
  | clearing (second : Bool)
  | polling (unit : Nat)
  deriving DecidableEq, Repr

/-- One entry of the unit table (section 1.3). -/
structure UnitEntry where
  state : UnitState
  gauge : Nat
  faults : Nat
  lastPoll : Nat
  deriving DecidableEq, Repr

/-- What a chain operation on a pair is for: a connect (R14), a release (R16) or a release retry (R17). -/
inductive OpKind where
  | connect | release | retry
  deriving DecidableEq, Repr

/-- Where the attempt in hand stands: its OPERATE or RELEASE asked for, its settle running to the elapsed time given, or
its READ LINE asked for. -/
inductive OpStage where
  | acting
  | settling (until_ : Nat)
  | reading
  deriving DecidableEq, Repr

/-- A connect, release or retry in progress at the chain. `attempt` is 1 or 2; `abandoned` marks a connect whose job has
begun its release sequence (R123). -/
structure ChainOp where
  pair : Pair
  kind : OpKind
  attempt : Nat
  stage : OpStage
  abandoned : Bool
  deriving DecidableEq, Repr

/-- The Chain Controller: unit table, the exchange on the chain, the arbiter's two groups (R7), discovery, the polling
state (R10, R12), the operations in progress, and the drive set of this station's inputs on the units (R1). -/
structure Chain where
  units : List UnitEntry
  exchange : Option Exchange
  jobGroup : List ChainRequest
  pollGroup : List Nat
  discovery : Option Discovery
  pollPointer : Nat
  polling : Bool
  nextPoll : Nat
  ops : List ChainOp
  driveSet : List Pair
  deriving DecidableEq, Repr

/-! ## Claims -/

/-- An entry of a claim's awaited list (R41): a ROUTINE holder asked to give way. -/
structure Awaited where
  station : Nat
  pair : Pair
  expiry : Nat
  deriving DecidableEq, Repr

/-- A disturbance record (R52). -/
structure Disturbance where
  station : Nat
  pair : Pair
  deadline : Nat
  deriving DecidableEq, Repr

/-- An OWN entry (R38) with the times its rules count from: when its CLAIM was SENT (R43), the AWAIT_YIELD limit (R44),
the next renewal (R47) and the next release retry (R17). `withdrawn` marks an entry whose claim has ended while its CLAIM
could no longer be stopped (R46). The owning job is found by `ownerOf`. -/
structure OwnClaim where
  line : Nat
  urgency : Urgency
  state : ClaimState
  withdrawn : Bool
  sentAt : Nat
  limit : Nat
  renewAt : Nat
  retryAt : Nat
  awaited : List Awaited
  disturbances : List Disturbance
  deriving DecidableEq, Repr

/-- A PEER entry (R38). -/
structure PeerClaim where
  station : Nat
  line : Nat
  urgency : Urgency
  firm : Bool
  expiry : Nat
  deriving DecidableEq, Repr

/-- An entry of the claim table (R38). -/
inductive Entry where
  | free
  | own (claim : OwnClaim)
  | peer (claim : PeerClaim)
  deriving DecidableEq, Repr

/-- The claim in the making (R40): what its request named, and the bus of its OWN entry, absent while WAITING. It ends
when the claim becomes HELD or ends. `pref` absent is ANY. -/
structure Opening where
  line : Nat
  urgency : Urgency
  pref : Option Nat
  placed : Option Nat
  deriving DecidableEq, Repr

/-- The Claim Manager: station state, claim table (one entry for each strapped bus), the claim in the making, the clash
mark (R37, R202), and the end of the join period once its ANNOUNCE is SENT or DROPPED (R61). -/
structure Claims where
  station : StationState
  entries : List Entry
  opening : Option Opening
  clashMark : Option NoticeKind
  joinUntil : Option Nat
  deriving DecidableEq, Repr

/-! ## The measurement head -/

/-- Reported resistance marks (R93). -/
inductive ResistanceMark where
  | none | openLine | atOrBelow
  deriving DecidableEq, Repr

/-- A reported resistance: its number in ohms and its mark (R93). -/
structure Resistance where
  ohms : Nat
  mark : ResistanceMark
  deriving DecidableEq, Repr

/-- The six foreign values (R88, R89). -/
structure ForeignValues where
  dcTG : Int
  dcRG : Int
  dcTR : Int
  acTG : Nat
  acRG : Nat
  acTR : Nat
  deriving DecidableEq, Repr

/-- The pairs that tripped the hazard test (R73). -/
structure Tripped where
  tg : Bool
  rg : Bool
  tr : Bool
  deriving DecidableEq, Repr

/-- The FOREIGN readings: the six values, the 240 samples, the pairs that tripped, and the OVERRANGE flag (R72, R73). -/
structure ForeignReadings where
  values : ForeignValues
  samplesTG : List Int
  samplesRG : List Int
  samplesTR : List Int
  tripped : Tripped
  overrange : Bool
  deriving DecidableEq, Repr

/-- One configuration's RESIST readings (R75). -/
structure ResistReading where
  iOff : Int
  vOff : Int
  iOn : Int
  deriving DecidableEq, Repr

/-- The RESIST readings of configurations A, B and C (R75). -/
structure ResistReadings where
  a : ResistReading
  b : ResistReading
  c : ResistReading
  overrange : Bool
  deriving DecidableEq, Repr

/-- The CAPACITY readings: three runs of samples (R77). -/
structure CapacityReadings where
  a : List Int
  b : List Int
  c : List Int
  overrange : Bool
  deriving DecidableEq, Repr

/-- What the head is in the middle of. The visible head state is kept beside it (R65). `discharging` says whether the
bus relay release follows (R79) or the head returns to ON_BUS (R81); `opening` counts the relay contacts open (R67). -/
inductive HeadActivity where
  | idle
  | connecting
  | sampling
  | resistOff
  | resistSettle
  | resistOn
  | capacityRecord
  | capacityDrain
  | discharging (leave : Bool)
  | opening
  deriving DecidableEq, Repr

/-- The readings gathered so far by the stage in hand, its OVERRANGE flag, and whether the source has been ON in it
(R70, R71, R81). -/
structure StageWork where
  off : Option (Int × Int)
  resist : List ResistReading
  runs : List (List Int)
  overrange : Bool
  wasOn : Bool
  deriving DecidableEq, Repr

/-- The measurement head (R65), with the energised bus relay set (R66), the activity in hand and the elapsed time at
which it ends. -/
structure Head where
  state : HeadState
  bus : Option Nat
  relay : Option Nat
  source : SourceState
  setting : Option Nat
  config : Option HeadConfig
  shunt : Bool
  foreignClear : Bool
  hazardFound : Bool
  heldForeign : Option ForeignReadings
  heldResist : Option ResistReadings
  heldCapacity : Option CapacityReadings
  activity : HeadActivity
  until_ : Nat
  work : StageWork
  deriving DecidableEq, Repr

/-! ## Results, orders and jobs -/

/-- The resistances of a results record (R98). -/
structure ResistResults where
  tr : Resistance
  tg : Resistance
  rg : Resistance
  worst : Resistance
  deriving DecidableEq, Repr

/-- The capacitances of a results record (R98). -/
structure CapacityResults where
  tr : Nat
  tg : Nat
  rg : Nat
  imbalance : Nat
  length : Option Nat
  deriving DecidableEq, Repr

/-- The results record (R98). -/
structure Results where
  foreign : Option ForeignValues
  resist : Option ResistResults
  capacity : Option CapacityResults
  overrange : Bool
  deriving DecidableEq, Repr

/-- The detail handed with HAZARD (R73, R76). -/
inductive HazardDetail where
  | foreign (tripped : Tripped)
  | resist (config : HeadConfig) (mv : Int)
  deriving DecidableEq, Repr

/-- One step of an order (R108). -/
structure Step where
  kind : StepKind
  marked : Bool
  seconds : Nat
  deriving DecidableEq, Repr

/-- An accepted order (R108, R110); `pref` absent is ANY. A sweep job carries one of the same form (R116). -/
structure Order where
  tag : Nat
  line : Nat
  urgency : Urgency
  pref : Option Nat
  volts : Nat
  steps : List Step
  submitted : Nat
  deriving DecidableEq, Repr

/-- A completion record (R132). -/
structure Completion where
  tag : Nat
  status : EndStatus
  step : Nat
  failing : Option Nat
  bus : Option Nat
  verdict : Option Verdict
  results : Option Results
  disturbed : Bool
  hazard : Option HazardDetail
  ident : Option Nat
  accessWait : Nat
  connected : Nat
  suspended : Nat
  deriving DecidableEq, Repr

/-- A record waiting where its order ended, with the place of that moment among the order ends (R133). -/
structure Waiting where
  record : Completion
  ended : Nat
  deriving DecidableEq, Repr

/-- An order in the order queue, or the record of one that ended there (R111). -/
structure QueuedOrder where
  order : Order
  waiting : Option Waiting
  deriving DecidableEq, Repr

/-- What a sweep job is: a pointer test or a retest, and the pass counter at its take (R178, R188). -/
structure SweepInfo where
  retest : Bool
  pass : Nat
  deriving DecidableEq, Repr

/-- A job in a slot (R112). `sweep` is absent for a desk order. `step` is the number of the last step begun, or of the
marked step while SUSPENDED. `bus` is the bus of the claim once HELD (R132), and READ STATUS
shows it so (DESIGN CHOICE, unsafe, log 41). `inserted` marks an inserted FOREIGN (R78), `headFreed` that HEAD_FREE has been handed in its
release sequence (R112), `nothingOperated` that its connect ended UNIT_DOWN (R54). The three times of R131 are kept with it. -/
structure Job where
  sweep : Option SweepInfo
  order : Order
  phase : Phase
  step : Nat
  status : Option EndStatus
  failing : Option Nat
  bus : Option Nat
  verdict : Option Verdict
  results : Option Results
  disturbed : Bool
  hazard : Option HazardDetail
  inserted : Bool
  headFreed : Bool
  nothingOperated : Bool
  holdUntil : Nat
  accessWait : Option Nat
  connectedAt : Option Nat
  suspendedAt : Nat
  suspended : Nat
  deriving DecidableEq, Repr

/-- A slot (R112): empty, DONE_PENDING with its record, or holding a job. -/
inductive Slot where
  | empty
  | donePending (waiting : Waiting)
  | job (job : Job)
  deriving DecidableEq, Repr

/-- The Test Sequencer: order queue (R111), slots (R112), completion queue (R133), and the count of order ends. -/
structure Sequencer where
  queue : List QueuedOrder
  active : Slot
  staged : Slot
  completions : List Completion
  ends : Nat
  deriving DecidableEq, Repr

/-! ## Records, tickets, sweep -/

/-- A line record (R138). -/
structure LineRecord where
  tested : Bool
  verdict : Option Verdict
  time : Option Nat
  tester : Option Nat
  worst : Option Resistance
  length : Option Nat
  level : Nat
  stamp : Nat
  ticket : Option Nat
  pending : Bool
  hazard : Bool
  repetition : Nat
  offset : Nat
  deriving DecidableEq, Repr

/-- The Line Record Store: the line records that differ from their power-on value, by rising line number, the progress
of a clear (R150), absent when idle, and the elapsed time at which its next unit is due. -/
structure Records where
  table : List (Nat × LineRecord)
  clear : Option Nat
  clearAt : Nat
  deriving DecidableEq, Repr

/-- A ticket record (R154), with the clear-hold deadline of a CLEARED ticket in station-clock seconds (R161). -/
structure Ticket where
  ident : Nat
  line : Nat
  state : TicketState
  opening : Verdict
  latest : Verdict
  openedAt : Nat
  changedAt : Nat
  tests : Nat
  retestDue : Option Nat
  cause : Option TicketCause
  deadline : Option Nat
  deriving DecidableEq, Repr

/-- An entry of the foreign ticket cache (R169); its home station is the station part of the ident. -/
structure ForeignTicket where
  ident : Nat
  line : Nat
  state : TicketState
  heardAt : Nat
  deriving DecidableEq, Repr

/-- The Ticket Table: tickets oldest first (R155), the serial counter (R153), and the foreign ticket cache, least recently
heard first (R169). -/
structure Tickets where
  table : List Ticket
  serial : Nat
  cache : List ForeignTicket
  deriving DecidableEq, Repr

/-- The Sweep Engine (R174), with whether an offer stands with the sequencer (R176). -/
structure Sweep where
  state : SweepState
  pointer : Nat
  pass : Nat
  skip : Nat
  onComplete : Bool
  onError : Bool
  once : Bool
  interval : Nat
  due : Option Nat
  offer : Bool
  guardPassed : Bool
  pointerOwed : Bool
  stopPending : Bool
  deriving DecidableEq, Repr

/-! ## Straps, settings, port, clock -/

/-- The strap values in force (R201, R137): the unit count is taken after the shortening at unit 63. -/
structure Straps where
  station : Nat
  buses : Nat
  base : Nat
  units : Nat
  deriving DecidableEq, Repr

/-- The settings but for the gauge index of each unit, which stands in the unit table (R105, R203). Times keep the units
the settings give: seconds for the access wait and suspend limits and the guard time, minutes for the others. -/
structure Settings where
  foreign : Nat
  loop : Nat
  ground : Nat
  insulation : Nat
  imbalance : Nat
  gauge : List Nat
  accessWait : Nat
  suspend : Nat
  decay : Nat
  openLevel : Nat
  clearLevel : Nat
  clearHold : Nat
  retest : Nat
  guard : Nat
  deriving DecidableEq, Repr

/-- What a finished response removes (R191): nothing, the oldest completion, or the oldest report; for a report, whether a
discard has already removed the very entry the response carries. -/
inductive Reading where
  | nothing
  | completion
  | report (gone : Bool)
  | reportEmpty
  deriving DecidableEq, Repr

/-- The transaction in hand at the desk port once its command is complete (R190): the response record (R209), what its
completion removes, and whether a report was discarded while it was being clocked out (R195). -/
structure Transaction where
  response : List Byte
  reading : Reading
  discarded : Bool
  deriving DecidableEq, Repr

/-- Elapsed time since power-on in quanta of 3.125 µs, the station clock in milliseconds, and the quanta run of its present
millisecond (R194). -/
structure Time where
  now : Nat
  clock : Nat
  part : Nat
  deriving DecidableEq, Repr

/-- The whole state of the 412T. `free` counts the free values taken (the model's own field); `pending` is the queue of
commands that wait, first in, first out. -/
structure State where
  straps : Straps
  settings : Settings
  time : Time
  chain : Chain
  line : DeskLine
  claims : Claims
  head : Head
  seq : Sequencer
  records : Records
  tickets : Tickets
  sweep : Sweep
  reports : ReportUnit
  port : Option Transaction
  free : Nat
  pending : List Instr
  deriving DecidableEq, Repr

/-- Reasons a step stops with a fault. -/
inductive Fault where
  /-- Raised by a command whose operands have not the form its row gives them (`Instr.wellFormed`): a run of samples of
  the wrong length, a notice that is not ten bytes, an operand wider than its field. No such command can reach the part.
  Safe: the model stops where the hardware has no behaviour at all. -/
  | illFormed (mnemonic : String)
  deriving DecidableEq, Repr

/-- Reasons a step refuses a command. -/
inductive Refusal where
  /-- Raised by an arm of exec whose command has no meaning yet. Safe: the model says nothing of the command. No arm
  raises it now. -/
  | notModelled (mnemonic : String)
  deriving DecidableEq, Repr

/-! ## Power-on values -/

/-- The power-on straps of a board with no position fitted (R201): station 0, one bus, base unit 0, one unit. -/
def Straps.unfitted : Straps where
  station := 0
  buses := 1
  base := 0
  units := 1

/-- The power-on settings (R105, R115, R126, R172, R174; section 7.4). -/
def Settings.powerOn : Settings where
  foreign := 5000
  loop := 2000
  ground := 20000
  insulation := 1000000
  imbalance := 70
  gauge := [52000, 50000, 48000, 45000]
  accessWait := 30
  suspend := 120
  decay := 60
  openLevel := 8
  clearLevel := 2
  clearHold := 240
  retest := 15
  guard := 60

/-- A unit table entry at power-on (R9). -/
def UnitEntry.powerOn : UnitEntry where
  state := .absent
  gauge := 0
  faults := 0
  lastPoll := 0

/-- A stage with nothing gathered. -/
def StageWork.none : StageWork where
  off := Option.none
  resist := []
  runs := []
  overrange := false
  wasOn := false

/-- The head at power-on, and in OFF_BUS between connections (R65, R67). -/
def Head.offBus : Head where
  state := .offBus
  bus := none
  relay := none
  source := .disconnected
  setting := none
  config := none
  shunt := false
  foreignClear := false
  hazardFound := false
  heldForeign := none
  heldResist := none
  heldCapacity := none
  activity := .idle
  until_ := 0
  work := StageWork.none

/-- The desk line interface at power-on (R32, R21): the line has been high since power-on. -/
def DeskLine.powerOn : DeskLine where
  busy := false
  startedAt := 0
  endedAt := 0
  flight := none
  queue := []
  heldClaims := []
  heldVerdicts := []
  heldTickets := []

/-- The Chain Controller at power-on (R9, R202): the first CHAIN CLEAR is on the chain. Until discovery ends the poll pointer is 0 and polling is
halted (DESIGN CHOICE, unsafe, log 34). -/
def Chain.powerOn : Chain where
  units := List.replicate Config.unitCount UnitEntry.powerOn
  exchange := some { request := .chainClear, begun := false, limit := 5 * Config.msQuanta }
  jobGroup := []
  pollGroup := []
  discovery := some (.clearing false)
  pollPointer := 0
  polling := false
  nextPoll := 0
  ops := []
  driveSet := []

/-- A line record at power-on (R138). -/
def LineRecord.powerOn : LineRecord where
  tested := false
  verdict := none
  time := none
  tester := none
  worst := none
  length := none
  level := 0
  stamp := 0
  ticket := none
  pending := false
  hazard := false
  repetition := 1
  offset := 0

/-- The Sweep Engine at power-on with its pointer on the first home line (R174). -/
def Sweep.powerOn (first : Nat) : Sweep where
  state := .stopped
  pointer := first
  pass := 0
  skip := 0
  onComplete := false
  onError := false
  once := false
  interval := 10
  due := none
  offer := false
  guardPassed := false
  pointerOwed := false
  stopPending := false

/-- The Report Unit at power-on (R195 to R198). -/
def ReportUnit.powerOn : ReportUnit where
  queue := []
  overrun := false
  critical := 0
  filter := { accept := List.replicate 6 false, value := 0, mask := 0 }
  first := none
  more := false
  kinds := []

/-- The machine right after reset: the power-on values of R202 on a board with no strap position fitted (DESIGN CHOICE, unsafe, log 4), at the
moment the first CHAIN CLEAR has been sent, with no command waiting. -/
def State.reset : State where
  straps := Straps.unfitted
  settings := Settings.powerOn
  time := { now := 0, clock := 0, part := 0 }
  chain := Chain.powerOn
  line := DeskLine.powerOn
  claims := { station := .discovering, entries := [.free], opening := none, clashMark := none, joinUntil := none }
  head := Head.offBus
  seq := { queue := [], active := .empty, staged := .empty, completions := [], ends := 0 }
  records := { table := [], clear := none, clearAt := 0 }
  tickets := { table := [], serial := 0, cache := [] }
  sweep := Sweep.powerOn 0
  reports := ReportUnit.powerOn
  port := none
  free := 0
  pending := []

end Sys2Proof.Machine
end

