-- ==== Sys2Proof/Machine/Bytes.lean ====
section
/-! DEFINITION. Numbers as bytes (R207), the codes of section 12.1, the notice check (R25), and the layout and the sense
test of a notice (section 12.2, R26, R208). -/

namespace Sys2Proof.Machine

/-- The low eight bits of a number as a byte. -/
def byte (n : Nat) : Byte := BitVec.ofNat 8 n

/-- A number in the given count of bytes, most significant first (R207). -/
def bytesOf : Nat → Nat → List Byte
  | 0, _ => []
  | k + 1, n => byte (n / 256 ^ k) :: bytesOf k n

/-- The number that bytes carry, most significant first (R207). -/
def numberOf (bytes : List Byte) : Nat :=
  bytes.foldl (fun acc b => acc * 256 + b.toNat) 0

/-- A signed number in four bytes of two's complement (R207). -/
def signedBytes (x : Int) : List Byte :=
  bytesOf 4 (BitVec.ofInt 32 x).toNat

/-- A flag or a presence byte: 0 or 1 (R207). -/
def flagByte (b : Bool) : Byte := byte b.toNat

/-- The byte of a list at a place; 0 past its end. -/
def byteAt (bytes : List Byte) (i : Nat) : Byte := bytes.getD i 0

/-- The number in two bytes of a list from a place on. -/
def wordAt (bytes : List Byte) (i : Nat) : Nat :=
  (byteAt bytes i).toNat * 256 + (byteAt bytes (i + 1)).toNat

/-! ## Codes (section 12.1) -/

/-- Notice kind codes. -/
def NoticeKind.code : NoticeKind → Nat
  | .announce => 1
  | .claim => 2
  | .hold => 3
  | .release => 4
  | .verdict => 5
  | .ticket => 6

/-- Urgency codes. -/
def Urgency.code : Urgency → Nat
  | .routine => 0
  | .demand => 1
  | .priority => 2

/-- Verdict class codes. -/
def Verdict.code : Verdict → Nat
  | .hazard => 1
  | .foreign => 2
  | .loop => 3
  | .ground => 4
  | .lowInsulation => 5
  | .openLead => 6
  | .marginal => 7
  | .clear => 8

/-- Ticket state codes. -/
def TicketState.code : TicketState → Nat
  | .opened => 1
  | .held => 2
  | .cleared => 3
  | .closed => 4

/-- Resistance mark codes. -/
def ResistanceMark.code : ResistanceMark → Nat
  | .none => 0
  | .openLine => 1
  | .atOrBelow => 2

/-- End status codes; YIELD is no end status of a completion record and has none. -/
def EndStatus.code : EndStatus → Nat
  | .done => 1
  | .cancelled => 2
  | .lineBusy => 3
  | .noBus => 4
  | .unitDown => 5
  | .accessFault => 6
  | .accessLost => 7
  | .hazardAbort => 8
  | .suspendExpired => 9
  | .releaseFault => 10
  | .stationIsolated => 11
  | .yielded => 0

/-- Response codes. -/
def Response.code : Response → Nat
  | .accepted => 1
  | .busy => 2
  | .full => 3
  | .state => 4
  | .badArgument => 5
  | .badOrder => 6
  | .badLine => 7
  | .tagInUse => 8
  | .unknownTag => 9
  | .notHome => 10
  | .notSuspended => 11
  | .empty => 12

/-- Error kind codes. -/
def ErrorKind.code : ErrorKind → Nat
  | .noticeCheck => 1
  | .lineJam => 2
  | .chainNoAnswer => 3
  | .chainStuck => 4
  | .stationClash => 5
  | .releaseFault => 6
  | .ticketTableFull => 7

/-- Unit state codes. -/
def UnitState.code : UnitState → Nat
  | .absent => 0
  | .ok => 1
  | .alarm => 2
  | .down => 3

/-- Sweep state codes. -/
def SweepState.code : SweepState → Nat
  | .stopped => 0
  | .interval => 1
  | .seeking => 2
  | .testing => 3
  | .haltedError => 4
  | .haltedComplete => 5

/-- Sweep report cause codes. -/
def SweepCause.code : SweepCause → Nat
  | .start => 1
  | .continued => 2
  | .stop => 3
  | .onceDone => 4
  | .errorHalt => 5
  | .completeHalt => 6
  | .passEnd => 7

/-- Ticket change cause codes. -/
def TicketCause.code : TicketCause → Nat
  | .threshold => 1
  | .hazard => 2
  | .clear => 3
  | .assign => 4
  | .desk => 5
  | .auto => 6

/-- Exchange kind codes. -/
def ExchangeKind.code : ExchangeKind → Nat
  | .operate => 1
  | .release => 2
  | .readLine => 3
  | .poll => 4
  | .chainClear => 5

/-- Station state codes of the status snapshot (section 12.8). -/
def StationState.code : StationState → Nat
  | .discovering => 0
  | .starting => 1
  | .joining => 2
  | .active => 3
  | .isolated => 4
  | .resetting => 5

/-- Own-claim state codes of the status snapshot (section 12.8). -/
def ClaimState.code : ClaimState → Nat
  | .sending => 1
  | .contest => 2
  | .awaitYield => 3
  | .held => 4
  | .releasing => 5
  | .stuck => 6

/-- Head state codes of the status snapshot (section 12.8). -/
def HeadState.code : HeadState → Nat
  | .offBus => 0
  | .connecting => 1
  | .onBus => 2
  | .foreign => 3
  | .resist => 4
  | .capacity => 5
  | .discharge => 6

/-- Source state codes of the status snapshot (section 12.8). -/
def SourceState.code : SourceState → Nat
  | .disconnected => 0
  | .zero => 1
  | .on => 2

/-- Configuration codes of the completion record (section 12.5). -/
def HeadConfig.code : HeadConfig → Nat
  | .a => 1
  | .b => 2
  | .c => 3

/-- Phase codes of the status snapshot (section 12.8). -/
def Phase.code : Phase → Nat
  | .access => 1
  | .connecting => 2
  | .ready => 3
  | .running => 4
  | .suspended => 5
  | .releasing => 6

/-! ## The notice check (R25) -/

/-- One bit of the check: combine with the top bit, shift, and combine with x^12 + x^5 + 1 when that bit was 1. -/
def checkBit (r : Check) (bit : Bool) : Check :=
  if (r.msb ^^ bit) then (r <<< 1) ^^^ 0x1021#16 else r <<< 1

/-- One byte of the check, most significant bit first. -/
def checkByte (r : Check) (b : Byte) : Check :=
  [7, 6, 5, 4, 3, 2, 1, 0].foldl (fun acc i => checkBit acc (b.getLsbD i)) r

/-- The check of a run of bytes, from a remainder of all ones, with no final inversion. -/
def noticeCheck (bytes : List Byte) : Check :=
  bytes.foldl checkByte 0xFFFF#16

/-! ## The notice (section 12.2) -/

/-- The kind of a notice. -/
def Notice.kind : Notice → NoticeKind
  | .announce => .announce
  | .claim _ _ => .claim
  | .hold _ _ _ => .hold
  | .release _ => .release
  | .verdict _ _ _ => .verdict
  | .ticket _ _ _ _ => .ticket

/-- Bytes 0 to 7 of a notice of the given station, 0 in every unused byte (R208). -/
def noticeBody (station : Nat) (n : Notice) : List Byte :=
  byte (n.kind.code * 16 + station) ::
    match n with
    | .announce => [0, 0, 0, 0, 0, 0, 0]
    | .claim u p => [byte u.code, byte p.bus] ++ bytesOf 2 p.line ++ [0, 0, 0]
    | .hold u p m => [byte u.code, byte p.bus] ++ bytesOf 2 p.line ++ [flagByte m, 0, 0]
    | .release p => [0, byte p.bus] ++ bytesOf 2 p.line ++ [0, 0, 0]
    | .verdict l v k => [0, 0] ++ bytesOf 2 l ++ [byte v.code] ++ bytesOf 2 k
    | .ticket i l st v => bytesOf 2 i ++ bytesOf 2 l ++ [byte v.code, byte st.code, 0]

/-- The ten bytes of a notice as it is sent: bytes 0 to 7 and the check, high half first (R25). -/
def noticeBytes (station : Nat) (n : Notice) : List Byte :=
  noticeBody station n ++ bytesOf 2 (noticeCheck (noticeBody station n)).toNat

/-- A receiver's check of ten bytes: the check over bytes 0 to 7 agrees with bytes 8 and 9 (R25). -/
def checkAgrees (bytes : List Byte) : Bool :=
  (noticeCheck (bytes.take 8)).toNat == wordAt bytes 8

/-- The kind code a notice carries: the high half of byte 0 (R208). -/
def kindCode (bytes : List Byte) : Nat := (byteAt bytes 0).toNat / 16

/-- The source station a notice carries: the low half of byte 0 (R208). -/
def sourceOf (bytes : List Byte) : Nat := (byteAt bytes 0).toNat % 16

/-- The urgency a code names. -/
def urgencyOf : Nat → Option Urgency
  | 0 => some .routine
  | 1 => some .demand
  | 2 => some .priority
  | _ => none

/-- The verdict class a code names. -/
def verdictOf : Nat → Option Verdict
  | 1 => some .hazard
  | 2 => some .foreign
  | 3 => some .loop
  | 4 => some .ground
  | 5 => some .lowInsulation
  | 6 => some .openLead
  | 7 => some .marginal
  | 8 => some .clear
  | _ => none

/-- The ticket state a code names. -/
def ticketStateOf : Nat → Option TicketState
  | 1 => some .opened
  | 2 => some .held
  | 3 => some .cleared
  | 4 => some .closed
  | _ => none

/-- The line of a notice, if it is in range (R26). -/
def lineField (bytes : List Byte) : Option Nat :=
  if wordAt bytes 3 ≤ 16383 then some (wordAt bytes 3) else none

/-- The pair of a notice, if bus and line are in range (R26). -/
def pairField (bytes : List Byte) : Option Pair :=
  match lineField bytes with
  | some l => if (byteAt bytes 2).toNat ≤ 3 then some { bus := (byteAt bytes 2).toNat, line := l } else none
  | none => none

/-- The sense test (R26, R208): the notice that bytes with a good check carry, or none where the kind or a field its kind
carries is out of range. Unused bytes are not examined; any mark but 0 is asserting. -/
def readNotice (bytes : List Byte) : Option Notice :=
  match kindCode bytes with
  | 1 => some .announce
  | 2 =>
    match urgencyOf (byteAt bytes 1).toNat, pairField bytes with
    | some u, some p => some (.claim u p)
    | _, _ => none
  | 3 =>
    match urgencyOf (byteAt bytes 1).toNat, pairField bytes with
    | some u, some p => some (.hold u p (byteAt bytes 5 != 0))
    | _, _ => none
  | 4 => (pairField bytes).map .release
  | 5 =>
    match lineField bytes, verdictOf (byteAt bytes 5).toNat with
    | some l, some v => some (.verdict l v (wordAt bytes 6))
    | _, _ => none
  | 6 =>
    match lineField bytes, verdictOf (byteAt bytes 5).toNat, ticketStateOf (byteAt bytes 6).toNat with
    | some l, some v, some st =>
      if wordAt bytes 1 / 4096 = sourceOf bytes ∧ 1 ≤ wordAt bytes 1 % 4096 then
        some (.ticket (wordAt bytes 1) l st v)
      else none
    | _, _, _ => none
  | _ => none

/-- The line a notice carries, if it carries one (R33, R197). -/
def Notice.line : Notice → Option Nat
  | .announce => none
  | .claim _ p => some p.line
  | .hold _ p _ => some p.line
  | .release p => some p.line
  | .verdict l _ _ => some l
  | .ticket _ l _ _ => some l

end Sys2Proof.Machine
end

