-- ==== Sys2Proof/WellFormed.lean ====
section
/-! DEFINITION. The form of a command's operands, as its row gives it: the lengths of sample runs and notices (R19, R72, R75, R77), and
the widths of the fields of a desk command's body (R209, section 12.4). -/

namespace Sys2Proof

/-- The whole length of a command record of each code (R209); none for a code outside 1 to 25. -/
def commandLength : Nat → Option Nat
  | 1 => some 58
  | 2 => some 4
  | 3 => some 4
  | 4 => some 2
  | 5 => some 2
  | 6 => some 2
  | 7 => some 9
  | 8 => some 2
  | 9 => some 2
  | 10 => some 4
  | 11 => some 8
  | 12 => some 2
  | 13 => some 4
  | 14 => some 3
  | 15 => some 4
  | 16 => some 4
  | 17 => some 2
  | 18 => some 6
  | 19 => some 109
  | 20 => some 2
  | 21 => some 2
  | 22 => some 12
  | 23 => some 3
  | 24 => some 2
  | 25 => some 2
  | _ => none

/-- A length byte of 0 or 1 is taken as 2 (R210). -/
def takenLength (n : Nat) : Nat := max 2 n

/-- A number fits one byte. -/
def fits1 (n : Nat) : Bool := decide (n < 256)

/-- A number fits two bytes. -/
def fits2 (n : Nat) : Bool := decide (n < 65536)

/-- A number fits four bytes. -/
def fits4 (n : Nat) : Bool := decide (n < 4294967296)

/-- The fields of a step entry fit their bytes. -/
def StepEntry.wellFormed (e : StepEntry) : Bool := fits1 e.kind && fits1 e.mark && fits2 e.seconds

/-- The fields of an order record fit their bytes, and it holds twelve step entries (section 12.4). -/
def OrderRecord.wellFormed (o : OrderRecord) : Bool :=
  fits2 o.tag && fits2 o.line && fits1 o.urgency && fits1 o.busPref && fits1 o.volts && fits1 o.count
    && decide (o.entries.length = 12) && o.entries.all StepEntry.wellFormed

/-- The fields of SWEEP START fit their bytes. -/
def SweepStartRecord.wellFormed (r : SweepStartRecord) : Bool :=
  fits2 r.start && fits1 r.onComplete && fits1 r.onError && fits1 r.once && fits2 r.interval

/-- The fields of LOAD SETTINGS fit their bytes, with four gauge entries and 64 gauge indexes. -/
def SettingsRecord.wellFormed (r : SettingsRecord) : Bool :=
  fits2 r.foreign && fits2 r.loop && fits4 r.ground && fits4 r.insulation && fits1 r.imbalance
    && decide (r.gauge.length = 4) && r.gauge.all fits4
    && decide (r.gaugeIndex.length = 64) && r.gaugeIndex.all fits1
    && fits2 r.accessWait && fits2 r.suspend && fits2 r.decay && fits1 r.openLevel && fits1 r.clearLevel
    && fits2 r.clearHold && fits2 r.retest && fits2 r.guard

/-- A bus number (R38). -/
def busFits (b : Nat) : Bool := decide (b < 4)

/-- A run holds the number of samples its stage takes. -/
def runFits (n : Nat) (xs : List Int) : Bool := decide (xs.length = n)

/-- The operands of a command have the form its row gives them. -/
def Instr.wellFormed : Instr → Bool
  | .powerOn _ => true
  | .exchangeAnswered _ => true
  | .answerStartTimeout => true
  | .answerEndTimeout => true
  | .pollingPoint => true
  | .connectSettleEnd => true
  | .releaseSettleEnd b => busFits b
  | .releaseRetry b => busFits b
  | .quietWaitEnd => true
  | .backoffEnd => true
  | .collision => true
  | .noticeSent => true
  | .receptionAbandoned => true
  | .noticeReceived bytes => decide (bytes.length = 10)
  | .contestWindowEnd => true
  | .awaitYieldLimit => true
  | .awaitedEntryExpiry b => busFits b
  | .holdInterval b => busFits b
  | .disturbanceDeadline b => busFits b
  | .peerEntryExpiry b => busFits b
  | .joinPeriodEnd => true
  | .headConnected => true
  | .foreignStageEnd tg rg tr => runFits 80 tg && runFits 80 rg && runFits 80 tr
  | .resistOffPhaseEnd current voltage => runFits 16 current && runFits 16 voltage
  | .resistSettleEnd => true
  | .resistOnReadingEnd current => runFits 16 current
  | .capacityRecordEnd current => runFits 256 current
  | .capacityDrainEnd => true
  | .dischargeEnd => true
  | .busRelayOpen => true
  | .accessStart => true
  | .accessWaitLimit tag => fits2 tag
  | .holdStepEnd => true
  | .suspendLimit => true
  | .clearHoldDeadline ident => fits2 ident
  | .clearUnitStep => true
  | .sweepDue => true
  | .sweepGuard => true
  | .resetEnd => true
  | .selectReleased => true
  | .responseCompleted => true
  | .badCommand code length => fits1 code && fits1 length && commandLength code != some (takenLength length)
  | .submitOrder order => order.wellFormed
  | .cancelOrder tag => fits2 tag
  | .resumeOrder tag => fits2 tag
  | .readCompletion => true
  | .readReport => true
  | .readStatus => true
  | .sweepStart start => start.wellFormed
  | .sweepStop => true
  | .sweepContinue => true
  | .readLineRecord line => fits2 line
  | .setLineClass first count repetition offset => fits2 first && fits2 count && fits1 repetition && fits1 offset
  | .clearRecords => true
  | .readTicketByIdent ident => fits2 ident
  | .readTicketByPlace place => fits1 place
  | .assignTicket ident => fits2 ident
  | .closeTicket ident => fits2 ident
  | .readForeignTickets => true
  | .setTime seconds => fits4 seconds
  | .loadSettings settings => settings.wellFormed
  | .join => true
  | .stationReset => true
  | .setFilter marks value mask => decide (marks.length = 6) && marks.all fits1 && fits2 value && fits2 mask
  | .setCriticalLevel level => fits1 level
  | .clearErrors => true
  | .pollRestart => true
  | .answerBegins => true
  | .startSymbolTaken => true

end Sys2Proof
end

