-- ==== Sys2Proof/Decode.lean ====
section
/-! DEFINITION. From words and bytes to commands. The opcode table gives its rows no bits, so no word spells a command (DESIGN CHOICE, safe, log 28);
what the manual does spell is the command record of the desk port (R207, R209, R210), read and written here. -/

namespace Sys2Proof

open Sys2Proof.Machine

/-- The command a word spells by the table's bits: the table gives bits to no row, so none (DESIGN CHOICE, safe, log 28). -/
def decodeTableWord (_nbits _w : Nat) : Option Instr := none

/-- The number in `k` bytes of a body from place `i` on, most significant byte first (R207). -/
def field (body : List Byte) (i k : Nat) : Nat := numberOf ((body.drop i).take k)

/-- Consecutive numbers of `k` bytes each from place `i` on. -/
def fields (body : List Byte) (i k count : Nat) : List Nat := (List.range count).map (fun n => field body (i + n * k) k)

/-- A step entry of four bytes (section 12.4). -/
def readStep (body : List Byte) (i : Nat) : StepEntry where
  kind := field body i 1
  mark := field body (i + 1) 1
  seconds := field body (i + 2) 2

/-- The order record of 56 bytes (section 12.4). -/
def readOrder (body : List Byte) : OrderRecord where
  tag := field body 0 2
  line := field body 2 2
  urgency := field body 4 1
  busPref := field body 5 1
  volts := field body 6 1
  count := field body 7 1
  entries := (List.range 12).map (fun n => readStep body (8 + n * 4))

/-- The body of SWEEP START (R209). -/
def readSweepStart (body : List Byte) : SweepStartRecord where
  start := field body 0 2
  onComplete := field body 2 1
  onError := field body 3 1
  once := field body 4 1
  interval := field body 5 2

/-- The body of LOAD SETTINGS, 107 bytes (R209). -/
def readSettings (body : List Byte) : SettingsRecord where
  foreign := field body 0 2
  loop := field body 2 2
  ground := field body 4 4
  insulation := field body 8 4
  imbalance := field body 12 1
  gauge := fields body 13 4 4
  gaugeIndex := fields body 29 1 64
  accessWait := field body 93 2
  suspend := field body 95 2
  decay := field body 97 2
  openLevel := field body 99 1
  clearLevel := field body 100 1
  clearHold := field body 101 2
  retest := field body 103 2
  guard := field body 105 2

/-- The command of a code and a body of its length (R209); none for a code outside 1 to 25. -/
def readBody (code : Nat) (body : List Byte) : Option Instr :=
  match code with
  | 1 => some (.submitOrder (readOrder body))
  | 2 => some (.cancelOrder (field body 0 2))
  | 3 => some (.resumeOrder (field body 0 2))
  | 4 => some .readCompletion
  | 5 => some .readReport
  | 6 => some .readStatus
  | 7 => some (.sweepStart (readSweepStart body))
  | 8 => some .sweepStop
  | 9 => some .sweepContinue
  | 10 => some (.readLineRecord (field body 0 2))
  | 11 => some (.setLineClass (field body 0 2) (field body 2 2) (field body 4 1) (field body 5 1))
  | 12 => some .clearRecords
  | 13 => some (.readTicketByIdent (field body 0 2))
  | 14 => some (.readTicketByPlace (field body 0 1))
  | 15 => some (.assignTicket (field body 0 2))
  | 16 => some (.closeTicket (field body 0 2))
  | 17 => some .readForeignTickets
  | 18 => some (.setTime (field body 0 4))
  | 19 => some (.loadSettings (readSettings body))
  | 20 => some .join
  | 21 => some .stationReset
  | 22 => some (.setFilter (fields body 0 1 6) (field body 6 2) (field body 8 2))
  | 23 => some (.setCriticalLevel (field body 0 1))
  | 24 => some .clearErrors
  | 25 => some .pollRestart
  | _ => none

/-- The command that a run of bytes at the desk port completes (R209, R210): none while fewer bytes than the declared length have come, or
when more stand there; a wrong code or length is BAD_COMMAND. -/
def decodeCommand (bytes : List Byte) : Option Instr :=
  match bytes with
  | code :: length :: body =>
    if body.length + 2 ≠ takenLength length.toNat then none
    else if commandLength code.toNat = some (takenLength length.toNat) then readBody code.toNat body
    else some (.badCommand code.toNat length.toNat)
  | _ => none

/-! ## The bytes of a command -/

/-- Consecutive numbers in `k` bytes each. -/
def fieldBytes (k : Nat) (xs : List Nat) : List Byte := xs.flatMap (bytesOf k)

/-- A step entry's four bytes. -/
def stepBytes (e : StepEntry) : List Byte := [byte e.kind, byte e.mark] ++ bytesOf 2 e.seconds

/-- An order record's 56 bytes (section 12.4). -/
def orderBytes (o : OrderRecord) : List Byte :=
  bytesOf 2 o.tag ++ bytesOf 2 o.line ++ [byte o.urgency, byte o.busPref, byte o.volts, byte o.count]
    ++ o.entries.flatMap stepBytes

/-- The body of SWEEP START. -/
def sweepStartBytes (r : SweepStartRecord) : List Byte :=
  bytesOf 2 r.start ++ [byte r.onComplete, byte r.onError, byte r.once] ++ bytesOf 2 r.interval

/-- The body of LOAD SETTINGS. -/
def settingsRecordBytes (r : SettingsRecord) : List Byte :=
  bytesOf 2 r.foreign ++ bytesOf 2 r.loop ++ bytesOf 4 r.ground ++ bytesOf 4 r.insulation ++ [byte r.imbalance]
    ++ fieldBytes 4 r.gauge ++ fieldBytes 1 r.gaugeIndex
    ++ bytesOf 2 r.accessWait ++ bytesOf 2 r.suspend ++ bytesOf 2 r.decay ++ [byte r.openLevel, byte r.clearLevel]
    ++ bytesOf 2 r.clearHold ++ bytesOf 2 r.retest ++ bytesOf 2 r.guard

/-- A record of a code: the code, its whole length, and its body (R209). -/
def commandRecord (code : Nat) (body : List Byte) : List Byte := byte code :: byte (body.length + 2) :: body

/-- The record of a desk command as the desk sends it (R209); for a BAD_COMMAND its code, its length byte and a body of zeros; none for an event,
which no desk sends. -/
def encodeCommand (c : Instr) : Option (List Byte) :=
  match c with
  | .submitOrder o => some (commandRecord 1 (orderBytes o))
  | .cancelOrder t => some (commandRecord 2 (bytesOf 2 t))
  | .resumeOrder t => some (commandRecord 3 (bytesOf 2 t))
  | .readCompletion => some (commandRecord 4 [])
  | .readReport => some (commandRecord 5 [])
  | .readStatus => some (commandRecord 6 [])
  | .sweepStart r => some (commandRecord 7 (sweepStartBytes r))
  | .sweepStop => some (commandRecord 8 [])
  | .sweepContinue => some (commandRecord 9 [])
  | .readLineRecord l => some (commandRecord 10 (bytesOf 2 l))
  | .setLineClass f n r o => some (commandRecord 11 (bytesOf 2 f ++ bytesOf 2 n ++ [byte r, byte o]))
  | .clearRecords => some (commandRecord 12 [])
  | .readTicketByIdent i => some (commandRecord 13 (bytesOf 2 i))
  | .readTicketByPlace p => some (commandRecord 14 [byte p])
  | .assignTicket i => some (commandRecord 15 (bytesOf 2 i))
  | .closeTicket i => some (commandRecord 16 (bytesOf 2 i))
  | .readForeignTickets => some (commandRecord 17 [])
  | .setTime n => some (commandRecord 18 (bytesOf 4 n))
  | .loadSettings r => some (commandRecord 19 (settingsRecordBytes r))
  | .join => some (commandRecord 20 [])
  | .stationReset => some (commandRecord 21 [])
  | .setFilter marks v m => some (commandRecord 22 (fieldBytes 1 marks ++ bytesOf 2 v ++ bytesOf 2 m))
  | .setCriticalLevel n => some (commandRecord 23 [byte n])
  | .clearErrors => some (commandRecord 24 [])
  | .pollRestart => some (commandRecord 25 [])
  | .badCommand code length => some (byte code :: byte length :: List.replicate (takenLength length - 2) 0)
  | _ => none

end Sys2Proof
end

