-- ==== Sys2Proof/Machine/Ops.lean ====
section
/-! DEFINITION. The named operations every block uses: updates of State by field, the passing of time, the unit table, the
line records, the slots, the claim table's entries, reports and the error capture. -/

namespace Sys2Proof.Machine

/-- What a meaning answers. -/
abbrev Out := Host.Outcome State Fault Refusal

/-! ## Updates by field -/

/-- The state with `straps` replaced. -/
def State.setStraps (s : State) (x : Straps) : State := { s with straps := x }

/-- The state with `settings` replaced. -/
def State.setSettings (s : State) (x : Settings) : State := { s with settings := x }

/-- The state with `time` replaced. -/
def State.setTime (s : State) (x : Time) : State := { s with time := x }

/-- The state with `chain` replaced. -/
def State.setChain (s : State) (x : Chain) : State := { s with chain := x }

/-- The state with `line` replaced. -/
def State.setLine (s : State) (x : DeskLine) : State := { s with line := x }

/-- The state with `claims` replaced. -/
def State.setClaims (s : State) (x : Claims) : State := { s with claims := x }

/-- The state with `head` replaced. -/
def State.setHead (s : State) (x : Head) : State := { s with head := x }

/-- The state with `seq` replaced. -/
def State.setSeq (s : State) (x : Sequencer) : State := { s with seq := x }

/-- The state with `records` replaced. -/
def State.setRecords (s : State) (x : Records) : State := { s with records := x }

/-- The state with `tickets` replaced. -/
def State.setTickets (s : State) (x : Tickets) : State := { s with tickets := x }

/-- The state with `sweep` replaced. -/
def State.setSweep (s : State) (x : Sweep) : State := { s with sweep := x }

/-- The state with `reports` replaced. -/
def State.setReports (s : State) (x : ReportUnit) : State := { s with reports := x }

/-- The state with `port` replaced. -/
def State.setPort (s : State) (x : Option Transaction) : State := { s with port := x }

/-- The state with `free` replaced. -/
def State.setFree (s : State) (x : Nat) : State := { s with free := x }

/-! ## Time (R194)

An event command moves time on to the moment its rule gives it, unless that moment has passed (DESIGN CHOICE, safe, log 2). -/

/-- `q` quanta of elapsed time pass; the clock rises by 1 every millisecond and stops at its end (R194). -/
def State.pass (s : State) (q : Nat) : State :=
  s.setTime
    { now := s.time.now + q
      clock := min (s.time.clock + (s.time.part + q) / Config.msQuanta) Config.clockMax
      part := (s.time.part + q) % Config.msQuanta }

/-- Time passes up to an elapsed moment, and not at all if it has been reached. -/
def State.passTo (s : State) (moment : Nat) : State := s.pass (moment - s.time.now)

/-- Time passes until the station clock reads the given milliseconds, and not at all if it does already. -/
def State.passClockTo (s : State) (ms : Nat) : State :=
  s.pass ((ms - s.time.clock) * Config.msQuanta - s.time.part)

/-- Milliseconds as elapsed quanta. -/
def ms (n : Nat) : Nat := n * Config.msQuanta

/-- The station clock in seconds, rounded down (R194). -/
def State.clockSec (s : State) : Nat := s.time.clock / 1000

/-- Minute time (R194, section 7.4). -/
def State.clockMin (s : State) : Nat := s.clockSec / 60

/-! ## Reports and errors (R195, R198) -/

/-- The kind of an error. -/
def ErrorDetail.kind : ErrorDetail → ErrorKind
  | .noticeCheck _ => .noticeCheck
  | .lineJam _ => .lineJam
  | .chainNoAnswer _ _ => .chainNoAnswer
  | .chainStuck _ _ => .chainStuck
  | .stationClash _ => .stationClash
  | .releaseFault _ _ => .releaseFault
  | .ticketTableFull _ => .ticketTableFull

/-- A discard from the report queue, as the response being clocked out sees it (R191, R195). -/
def discardUnder (port : Option Transaction) : Option Transaction :=
  match port with
  | some t =>
    match t.reading with
    | .report _ => some { t with reading := .report true, discarded := true }
    | .reportEmpty => some { t with discarded := true }
    | _ => some t
  | none => none

/-- A report is posted: stamped and queued at the back; on a full queue the oldest is discarded and the overrun flag set
(R195). -/
def State.post (s : State) (c : ReportContent) : State :=
  let r : Report := { time := s.time.clock, content := c }
  if s.reports.queue.length < Config.reportCap then
    s.setReports { s.reports with queue := s.reports.queue ++ [r] }
  else
    (s.setReports { s.reports with queue := s.reports.queue.drop 1 ++ [r], overrun := true }).setPort
      (discardUnder s.port)

/-- The kind set after a capture: each kind at most once (R198). -/
def joinKind (ks : List ErrorKind) (k : ErrorKind) : List ErrorKind :=
  if ks.contains k then ks else ks ++ [k]

/-- An error is captured (R198): it becomes the first-error record or sets the more-errors flag, its kind joins the kind set,
and an ERROR report is posted. -/
def State.capture (s : State) (d : ErrorDetail) : State :=
  let r := s.reports
  let r' : ReportUnit :=
    match r.first with
    | none => { r with first := some { detail := d, time := s.time.clock } }
    | some _ => { r with more := true }
  (s.setReports { r' with kinds := joinKind r.kinds d.kind }).post (.error d r.first.isNone)

/-! ## Lines, units and the home range (Chapter 1, R137) -/

/-- The access unit of a line. -/
def unitOf (line : Nat) : Nat := line / Config.unitLines

/-- The position of a line on its unit. -/
def positionOf (line : Nat) : Nat := line % Config.unitLines

/-- The entry of the unit table for a unit. -/
def State.unitAt (s : State) (u : Nat) : UnitEntry := s.chain.units.getD u UnitEntry.powerOn

/-- The unit table with one entry changed. -/
def State.setUnit (s : State) (u : Nat) (e : UnitEntry) : State :=
  s.setChain { s.chain with units := s.chain.units.set u e }

/-- A unit's state becomes the given one; UNIT_CHANGE is posted if it was another (R5, R11). -/
def State.changeUnit (s : State) (u : Nat) (st : UnitState) : State :=
  if (s.unitAt u).state = st then s
  else (s.setUnit u { s.unitAt u with state := st }).post (.unitChange u st)

/-- The first home line. -/
def Straps.firstLine (p : Straps) : Nat := p.base * Config.unitLines

/-- The last home line. -/
def Straps.lastLine (p : Straps) : Nat := (p.base + p.units) * Config.unitLines - 1

/-- How many home lines there are. -/
def Straps.lineCount (p : Straps) : Nat := p.units * Config.unitLines

/-- A line lies in the home range (R137). -/
def State.isHome (s : State) (line : Nat) : Bool :=
  decide (s.straps.firstLine ≤ line) && decide (line < (s.straps.base + s.straps.units) * Config.unitLines)

/-! ## Line records (R138)

A record equal to its power-on value is not listed; the listed ones stand by rising line number (DESIGN CHOICE, safe, log 26). -/

/-- The record of a line in the table. -/
def lookRecord : List (Nat × LineRecord) → Nat → LineRecord
  | [], _ => LineRecord.powerOn
  | (k, r) :: t, n => if k = n then r else lookRecord t n

/-- The table with one line's record replaced, in its canonical form. -/
def putRecord : List (Nat × LineRecord) → Nat → LineRecord → List (Nat × LineRecord)
  | [], n, r => if r = LineRecord.powerOn then [] else [(n, r)]
  | (k, x) :: t, n, r =>
    if n < k then (if r = LineRecord.powerOn then (k, x) :: t else (n, r) :: (k, x) :: t)
    else if n = k then (if r = LineRecord.powerOn then t else (n, r) :: t)
    else (k, x) :: putRecord t n r

/-- The record of a line. -/
def State.recordOf (s : State) (line : Nat) : LineRecord := lookRecord s.records.table line

/-- The state with a line's record replaced. -/
def State.setRecord (s : State) (line : Nat) (r : LineRecord) : State :=
  s.setRecords { s.records with table := putRecord s.records.table line r }

/-- The canonical form: line numbers strictly rising, and no record at its power-on value. -/
def recordsWf : List (Nat × LineRecord) → Bool
  | [] => true
  | (k, r) :: t => decide (r ≠ LineRecord.powerOn) && t.all (fun e => decide (k < e.1)) && recordsWf t

/-- A whole table put through a change of each listed record, records back at their power-on value unlisted. -/
def mapRecords (f : Nat → LineRecord → LineRecord) (t : List (Nat × LineRecord)) : List (Nat × LineRecord) :=
  (t.map (fun e => (e.1, f e.1 e.2))).filter (fun e => decide (e.2 ≠ LineRecord.powerOn))

/-! ## Slots and jobs (R112) -/

/-- The content of a slot. -/
def State.slot (s : State) : SlotId → Slot
  | .active => s.seq.active
  | .staged => s.seq.staged

/-- The state with a slot's content replaced. -/
def State.setSlot (s : State) (id : SlotId) (x : Slot) : State :=
  match id with
  | .active => s.setSeq { s.seq with active := x }
  | .staged => s.setSeq { s.seq with staged := x }

/-- The job in a slot. -/
def Slot.job? : Slot → Option Job
  | .job j => some j
  | _ => none

/-- The job in a slot, changed; a slot without a job is left as it is. -/
def State.updateJob (s : State) (id : SlotId) (f : Job → Job) : State :=
  match s.slot id with
  | .job j => s.setSlot id (.job (f j))
  | _ => s

/-- The slot whose job meets a test, the active slot first. -/
def State.findSlot (s : State) (p : Job → Bool) : Option SlotId :=
  if (s.seq.active.job?).any p then some .active
  else if (s.seq.staged.job?).any p then some .staged
  else none

/-- The slot of the job in phase ACCESS. -/
def State.accessSlot (s : State) : Option SlotId := s.findSlot (fun j => j.phase == .access)

/-- The slot of the job that holds the claim of a pair. -/
def State.slotOf (s : State) (p : Pair) : Option SlotId :=
  s.findSlot (fun j => j.bus == some p.bus && j.order.line == p.line)

/-- A sweep job is in a slot. -/
def State.sweepInSlot (s : State) : Bool := (s.findSlot (fun j => j.sweep.isSome)).isSome

/-- A desk order's job is in a slot. -/
def State.deskInSlot (s : State) : Bool := (s.findSlot (fun j => j.sweep.isNone)).isSome

/-! ## Entries of the claim table (R38) -/

/-- The entry for a bus; FREE beyond the strapped buses. -/
def State.entryAt (s : State) (bus : Nat) : Entry := s.claims.entries.getD bus .free

/-- The claim table with one entry replaced. -/
def State.setEntry (s : State) (bus : Nat) (e : Entry) : State :=
  s.setClaims { s.claims with entries := s.claims.entries.set bus e }

/-- The OWN entry for a bus. -/
def State.ownAt (s : State) (bus : Nat) : Option OwnClaim :=
  match s.entryAt bus with
  | .own c => some c
  | _ => none

/-- The OWN entry for a bus, changed; another entry is left as it is. -/
def State.updateOwn (s : State) (bus : Nat) (f : OwnClaim → OwnClaim) : State :=
  match s.entryAt bus with
  | .own c => s.setEntry bus (.own (f c))
  | _ => s

/-- The line an entry carries. -/
def Entry.line : Entry → Option Nat
  | .free => none
  | .own c => some c.line
  | .peer c => some c.line

/-- A pair conflicts with the entry of a bus: the entry is not FREE, and the pair names its bus or its line (R38). -/
def conflicts (p : Pair) (bus : Nat) (e : Entry) : Bool :=
  match e.line with
  | some l => decide (p.bus = bus) || decide (p.line = l)
  | none => false

/-- Precedence (R39): the higher urgency, and between equal urgencies the lower station. -/
def precedes (u : Urgency) (station : Nat) (u' : Urgency) (station' : Nat) : Bool :=
  decide (u'.code < u.code) || (decide (u.code = u'.code) && decide (station < station'))

/-- A line is carried by some entry of the claim table, OWN or PEER (R113, R115). -/
def State.lineInTable (s : State) (line : Nat) : Bool :=
  s.claims.entries.any (fun e => e.line == some line)

/-- The owning job of the claim on a bus (R38): which slot it stands in, its phase, and whether it is a sweep job. Absent for
a STUCK claim whose job has ended. -/
def ownerOf (s : State) (bus : Nat) : Option (SlotId × Phase × Bool) :=
  match s.ownAt bus with
  | none => none
  | some c =>
    let mine (j : Job) : Bool :=
      j.order.line == c.line && (j.bus == some bus || (j.phase == .access && !c.withdrawn))
    match s.findSlot mine with
    | none => none
    | some id => (s.slot id).job?.map (fun j => (id, j.phase, j.sweep.isSome))

/-- A free value is taken, and the next one will be another (DESIGN CHOICE, safe, logs 7, 8 and 35). -/
def State.takeFree (s : State) : State × Bool := (s.setFree (s.free + 1), Config.freeChoice s.free)

end Sys2Proof.Machine
end

