-- ==== Sys2Proof/Machine/Arith.lean ====
section
/-! DEFINITION. The Loop Arithmetic Unit (Chapter 5): whole numbers throughout, every quotient rounded once. -/

namespace Sys2Proof.Machine

/-! ## Rounding and samples (R70, R71, R87) -/

/-- The quotient of `n` by a positive `d`, rounded half away from zero (R87). -/
def roundDiv (n d : Int) : Int :=
  if 0 ≤ n then (2 * n + d) / (2 * d) else -((2 * -n + d) / (2 * d))

/-- The mean of a run of samples, rounded (R71, R87). -/
def meanOf (xs : List Int) : Int := roundDiv xs.sum xs.length

/-- A quantity as it is recorded: at the end of the range, with its own sign, when it lies beyond (R70). -/
def saturate (limit x : Int) : Int := max (-limit) (min limit x)

/-- A sample is recorded at the end of its range, which flags the stage OVERRANGE (R70). -/
def atEnd (limit x : Int) : Bool := decide (limit ≤ x) || decide (x ≤ -limit)

/-- A run as it is recorded. -/
def recordRun (limit : Int) (xs : List Int) : List Int := xs.map (saturate limit)

/-- Some sample of a run is recorded at the end of its range. -/
def runOver (limit : Int) (xs : List Int) : Bool := xs.any (atEnd limit)

/-! ## Foreign reduction (R88, R89) -/

/-- The integer square root, bit by bit from bit 31 down: the largest whole number whose square does not exceed `n`, for
every `n` below 2 ^ 64 (R89; a mean square deviation is at most 250,000,000,000). -/
def isqrt (n : Nat) : Nat :=
  (List.range 32).foldl (fun r i => if (r + 2 ^ (31 - i)) * (r + 2 ^ (31 - i)) ≤ n then r + 2 ^ (31 - i) else r) 0

/-- The mean square deviation from the rounded DC value, rounded down (R89). -/
def meanSquare (dc : Int) (xs : List Int) : Nat :=
  ((xs.map (fun x => (x - dc) * (x - dc))).sum / xs.length).toNat

/-- The AC value of a pair (R89). -/
def acOf (xs : List Int) : Nat := isqrt (meanSquare (meanOf xs) xs)

/-- The foreign reduction of the three runs (R86, R88, R89). -/
def reduceForeign (tg rg tr : List Int) : ForeignValues where
  dcTG := meanOf tg
  dcRG := meanOf rg
  dcTR := meanOf tr
  acTG := acOf tg
  acRG := acOf rg
  acTR := acOf tr

/-- A pair is beyond a hazard limit: DC magnitude, AC value, or a sample at the end of the range (R73). -/
def pairTrips (dc : Int) (ac : Nat) (xs : List Int) : Bool :=
  decide (Config.hazardDc < |dc|) || decide (Config.hazardAc < ac) || runOver Config.voltageMax xs

/-- The pairs beyond a hazard limit (R73). -/
def trippedPairs (v : ForeignValues) (tg rg tr : List Int) : Tripped where
  tg := pairTrips v.dcTG v.acTG tg
  rg := pairTrips v.dcRG v.acRG rg
  tr := pairTrips v.dcTR v.acTR tr

/-- Any pair tripped. -/
def Tripped.any (t : Tripped) : Bool := t.tg || t.rg || t.tr

/-! ## Conductance and resistance (R90 to R94) -/

/-- The line voltage of a configuration: the source setting less the rounded drop of the net current over 2,000 Ω (R90). -/
def lineVoltage (setting net : Int) : Int := setting - roundDiv net 500

/-- The conductance of a configuration in pS, and whether it flags the stage OVERRANGE (R91). -/
def conductance (setting net : Int) : Int × Bool :=
  let v := lineVoltage setting net
  if v < 100 then (Config.conductanceMax, true)
  else if net ≤ 0 then (0, false)
  else
    let g := roundDiv (net * 1000000) v
    if Config.conductanceMax < g then (Config.conductanceMax, true) else (g, false)

/-- The three pair values of a delta solve. -/
structure PairValues where
  tr : Int
  tg : Int
  rg : Int
  deriving DecidableEq, Repr

/-- Half of a sum, rounded, from 0 to the limit (R92). -/
def halfWithin (limit sum : Int) : Int := min limit (max 0 (roundDiv sum 2))

/-- The delta solve (R92). -/
def deltaSolve (limit a b c : Int) : PairValues where
  tr := halfWithin limit (a + b - c)
  tg := halfWithin limit (a + c - b)
  rg := halfWithin limit (b + c - a)

/-- The resistance reported for a conductance (R93). -/
def resistanceOf (g : Int) : Resistance :=
  if g < 1000 then { ohms := 999999999, mark := .openLine }
  else if Config.conductanceMax ≤ g then { ohms := 10, mark := .atOrBelow }
  else { ohms := (min 999999999 (roundDiv 1000000000000 g)).toNat, mark := .none }

/-- A resistance is at or below a threshold; OPEN is greater than every threshold (R93). -/
def Resistance.atMost (r : Resistance) (threshold : Nat) : Bool :=
  r.mark != .openLine && decide (r.ohms ≤ threshold)

/-- The lesser of two resistances: OPEN counts as greater than any value, and of two equal ones the one with the
at-or-below mark is kept (R94). -/
def lesserResistance (r s : Resistance) : Resistance :=
  if r.mark = .openLine then s
  else if s.mark = .openLine then r
  else if r.ohms < s.ohms then r
  else if s.ohms < r.ohms then s
  else if r.mark = .atOrBelow then r
  else s

/-- The worst resistance (R94). -/
def worstOf (tr tg rg : Resistance) : Resistance := lesserResistance tr (lesserResistance tg rg)

/-- The worst resistance in kilohms as a VERDICT notice carries it (R94). -/
def kohmOf : Option Resistance → Nat
  | none => 65535
  | some r =>
    match r.mark with
    | .openLine => 65535
    | .atOrBelow => 0
    | .none => if 65535000 ≤ r.ohms then 65535 else r.ohms / 1000

/-- The resistances of held RESIST readings, and whether the arithmetic flags the stage OVERRANGE (R91 to R94). -/
def solveResist (setting : Int) (r : ResistReadings) : ResistResults × Bool :=
  let ga := conductance setting (r.a.iOn - r.a.iOff)
  let gb := conductance setting (r.b.iOn - r.b.iOff)
  let gc := conductance setting (r.c.iOn - r.c.iOff)
  let g := deltaSolve Config.conductanceMax ga.1 gb.1 gc.1
  let tr := resistanceOf g.tr
  let tg := resistanceOf g.tg
  let rg := resistanceOf g.rg
  ({ tr := tr, tg := tg, rg := rg, worst := worstOf tr tg rg }, ga.2 || gb.2 || gc.2)

/-! ## Capacitance, imbalance, length (R95 to R97) -/

/-- The final current: the mean of the last 16 samples, rounded (R95). -/
def finalCurrent (run : List Int) : Int := roundDiv (run.drop (run.length - 16)).sum 16

/-- The charge in fC: 100 for each nanoampere above the final current in each sample (R95). -/
def chargeOf (run : List Int) : Int := (run.map (fun x => (x - finalCurrent run) * 100)).sum

/-- The capacitance of a configuration in pF, and whether the clamp flags the stage OVERRANGE (R95). -/
def capacitanceOf (setting : Int) (run : List Int) : Int × Bool :=
  let c := roundDiv (chargeOf run) setting
  if c < 0 then (0, false)
  else if Config.capacitanceMax < c then (Config.capacitanceMax, true)
  else (c, false)

/-- The imbalance in per cent (R96). -/
def imbalanceOf (tg rg : Nat) : Nat :=
  if tg = 0 ∧ rg = 0 then 100 else min tg rg * 100 / max tg rg

/-- The length in metres, absent below 1,000 pF (R97). -/
def lengthOf (tr perKm : Nat) : Option Nat :=
  if tr < 1000 then none else some (min 65535 (tr * 1000 / perKm))

/-- The capacitances of held CAPACITY readings, and whether the arithmetic flags the stage OVERRANGE (R95 to R97). -/
def solveCapacity (setting : Int) (perKm : Nat) (r : CapacityReadings) : CapacityResults × Bool :=
  let ca := capacitanceOf setting r.a
  let cb := capacitanceOf setting r.b
  let cc := capacitanceOf setting r.c
  let c := deltaSolve Config.capacitanceMax ca.1 cb.1 cc.1
  ({ tr := c.tr.toNat
     tg := c.tg.toNat
     rg := c.rg.toNat
     imbalance := imbalanceOf c.tg.toNat c.rg.toNat
     length := lengthOf c.tr.toNat perKm },
    ca.2 || cb.2 || cc.2)

/-! ## Verdicts (R98 to R106) -/

/-- The inputs of an evaluation (R86). -/
structure EvalInput where
  foreign : Option ForeignReadings
  resist : Option ResistReadings
  capacity : Option CapacityReadings
  setting : Int
  hazardFound : Bool
  perKm : Nat
  settings : Settings
  deriving DecidableEq, Repr

/-- The results record (R98). -/
def resultsOf (i : EvalInput) : Results :=
  let r := i.resist.map (solveResist i.setting)
  let c := i.capacity.map (solveCapacity i.setting i.perKm)
  { foreign := i.foreign.map (·.values)
    resist := r.map (·.1)
    capacity := c.map (·.1)
    overrange :=
      i.foreign.any (·.overrange) || i.resist.any (·.overrange) || i.capacity.any (·.overrange)
        || r.any (·.2) || c.any (·.2) }

/-- The FOREIGN class applies: a DC magnitude or an AC value above the foreign threshold (R101). -/
def foreignClass (v : ForeignValues) (threshold : Nat) : Bool :=
  decide ((threshold : Int) < |v.dcTG|) || decide ((threshold : Int) < |v.dcRG|)
    || decide ((threshold : Int) < |v.dcTR|)
    || decide (threshold < v.acTG) || decide (threshold < v.acRG) || decide (threshold < v.acTR)

/-- Some resistance of the three is at or below a threshold. -/
def anyAtMost (r : ResistResults) (threshold : Nat) : Bool :=
  r.tr.atMost threshold || r.tg.atMost threshold || r.rg.atMost threshold

/-- The OPEN_LEAD class applies (R104). -/
def openLeadClass (c : CapacityResults) (threshold : Nat) : Bool :=
  decide (1000 ≤ c.tr) && decide (c.imbalance < threshold)

/-- The verdict on a results record: the first class of the ranking whose test succeeds; CLEAR when every test fails and
some readings are held; none when nothing is held (R99 to R104). -/
def verdictFor (hazardFound : Bool) (r : Results) (st : Settings) : Option Verdict :=
  if hazardFound then some .hazard
  else if r.foreign.any (fun v => foreignClass v st.foreign) then some .foreign
  else if r.resist.any (fun x => x.tr.atMost st.loop) then some .loop
  else if r.resist.any (fun x => x.tg.atMost st.ground || x.rg.atMost st.ground) then some .ground
  else if r.resist.any (fun x => anyAtMost x st.insulation) then some .lowInsulation
  else if r.capacity.any (fun c => openLeadClass c st.imbalance) then some .openLead
  else if r.resist.any (fun x => anyAtMost x (2 * st.insulation)) then some .marginal
  else if r.foreign.isSome || r.resist.isSome || r.capacity.isSome then some .clear
  else none

/-- The evaluation (R86, R107). -/
def evaluate (i : EvalInput) : Results × Option Verdict :=
  (resultsOf i, verdictFor i.hazardFound (resultsOf i) i.settings)

/-- The bucket weight of a class (R106). -/
def Verdict.weight : Verdict → Nat
  | .hazard => 8
  | .foreign => 6
  | .loop => 2
  | .ground => 6
  | .lowInsulation => 3
  | .openLead => 4
  | .marginal => 1
  | .clear => 0

end Sys2Proof.Machine
end

