-- ==== Sys2Proof/Machine/DeskLine.lean ====
section
/-! DEFINITION. The Desk Line Interface without what the Claim Manager does with it: the quiet line, beginning a try, the
transmit queue, and holding back (sections 2.1, 2.2, 2.4). -/

namespace Sys2Proof.Machine

/-- The line is quiet: 16 symbol times high since the last activity, or since power-on (R19, R21). -/
def State.lineQuiet (s : State) : Bool :=
  !s.line.busy && decide (s.line.endedAt + Config.quietQuanta ≤ s.time.now)

/-- The transmitter sends nothing before the station leaves STARTING (R21, R32). -/
def State.transmitterSilent (s : State) : Bool :=
  s.claims.station == .discovering || s.claims.station == .starting

/-- The notice in flight begins a try; the line is active from its first start symbol (R19, R22). -/
def State.beginTry (s : State) : State :=
  match s.line.flight with
  | some f =>
    s.setLine
      { s.line with
        flight := some { f with phase := .trying s.time.now }
        busy := true
        startedAt := if s.line.busy then s.line.startedAt else s.time.now }
  | none => s

/-- A first try that waits begins at once if the line is quiet and the transmitter may send (R21). -/
def State.tryNow (s : State) : State :=
  match s.line.flight with
  | some f => if f.phase = .waitQuiet ∧ s.lineQuiet ∧ !s.transmitterSilent then s.beginTry else s
  | none => s

/-- With no notice in flight, the head of the queue comes into flight with a collision count of 0 (R27). -/
def State.loadFlight (s : State) : State :=
  match s.line.flight, s.line.queue with
  | none, tx :: rest =>
    (s.setLine
      { s.line with
        flight := some { tx := tx, collisions := 0, phase := .waitQuiet, withdrawn := false }
        queue := rest }).tryNow
  | _, _ => s

/-- A HOLD for a pair, renewal or asserting. -/
def Tx.holdsPair (p : Pair) (tx : Tx) : Bool :=
  match tx.notice with
  | .hold _ q _ => q == p
  | _ => false

/-- An asserting HOLD. -/
def Tx.asserts (tx : Tx) : Bool :=
  match tx.notice with
  | .hold _ _ m => m
  | _ => false

/-- A CLAIM. -/
def Tx.isClaim (tx : Tx) : Bool :=
  match tx.notice with
  | .claim _ _ => true
  | _ => false

/-- A renewal HOLD that finds a HOLD for its pair among the given notices (R29, R30). -/
def foldsInto (tx : Tx) (among : List Tx) : Bool :=
  match tx.notice with
  | .hold _ p false => among.any (Tx.holdsPair p)
  | _ => false

/-- A notice other than an asserting HOLD is put to the queue: a renewal whose pair has a HOLD there is folded into it (R29), a
queue with room takes the notice at the back (R27), and a full queue refuses it (R30). The flag says it was queued. -/
def State.enqueue (s : State) (tx : Tx) : State × Bool :=
  if foldsInto tx s.line.queue then (s, true)
  else if s.line.queue.length < Config.transmitCap then
    (s.setLine { s.line with queue := s.line.queue ++ [tx] }, true)
  else (s, false)

/-- A refused notice is kept by its source block, behind those it already holds back; a renewal whose pair's HOLD is held back
is not kept again (R30). -/
def State.holdBack (s : State) (tx : Tx) : State :=
  match tx.notice with
  | .verdict _ _ _ => s.setLine { s.line with heldVerdicts := s.line.heldVerdicts ++ [tx] }
  | .ticket _ _ _ _ => s.setLine { s.line with heldTickets := s.line.heldTickets ++ [tx] }
  | _ =>
    if foldsInto tx s.line.heldClaims then s
    else s.setLine { s.line with heldClaims := s.line.heldClaims ++ [tx] }

/-- A pushed-out notice is handed back to its source block, ahead of those it already holds back (R28). -/
def State.handBack (s : State) (tx : Tx) : State :=
  match tx.notice with
  | .verdict _ _ _ => s.setLine { s.line with heldVerdicts := tx :: s.line.heldVerdicts }
  | .ticket _ _ _ _ => s.setLine { s.line with heldTickets := tx :: s.line.heldTickets }
  | _ => s.setLine { s.line with heldClaims := tx :: s.line.heldClaims }

/-- A block offers a notice other than a CLAIM or an asserting HOLD: queued, and in flight at once if nothing is, or held back
(R27, R30). -/
def State.offer (s : State) (tx : Tx) : State :=
  match s.enqueue tx with
  | (s', true) => s'.loadFlight
  | (_, false) => s.holdBack tx

/-- A RELEASE is offered; while RESETTING it counts for the end of the reset (R206). -/
def State.offerRelease (s : State) (p : Pair) : State :=
  s.offer { notice := .release p, tag := if s.claims.station = .resetting then .ofReset else .plain }

/-- A renewal HOLD is offered (R47). -/
def State.offerRenewal (s : State) (u : Urgency) (p : Pair) : State :=
  s.offer { notice := .hold u p false, tag := .plain }

/-- A notice with no further standing is offered (VERDICT, TICKET). -/
def State.offerPlain (s : State) (n : Notice) : State := s.offer { notice := n, tag := .plain }

end Sys2Proof.Machine
end

