-- ==== Sys2Proof/Machine/Tickets.lean ====
section
/-! DEFINITION. The Line Record Store and the Ticket Table as shared operations: the fault bucket, applying a verdict, the
life of a ticket, the full table, the foreign ticket cache (Chapters 7 and 8). -/

namespace Sys2Proof.Machine

/-! ## Tickets (Chapter 8) -/

/-- The serial after the given one, with 4,096 taken as 1 (R153). -/
def stepSerial (n : Nat) : Nat := if 4095 ≤ n then 1 else n + 1

/-- A serial is held by a ticket in the table, in any state (R153). -/
def serialHeld (ts : List Ticket) (n : Nat) : Bool := ts.any (fun t => t.ident % 4096 == n)

/-- The first serial not held after the given one; the fuel is the number of serials (R153). -/
def freeSerial (ts : List Ticket) : Nat → Nat → Nat
  | 0, n => n
  | k + 1, n => if serialHeld ts (stepSerial n) then freeSerial ts k (stepSerial n) else stepSerial n

/-- The ticket with an ident. -/
def State.ticket? (s : State) (ident : Nat) : Option Ticket := s.tickets.table.find? (fun t => t.ident == ident)

/-- The table with the ticket of an ident changed in its place (R155). -/
def State.updateTicket (s : State) (ident : Nat) (f : Ticket → Ticket) : State :=
  s.setTickets { s.tickets with table := s.tickets.table.map (fun t => if t.ident = ident then f t else t) }

/-- A change of a ticket's state offers one TICKET notice and posts one TICKET_CHANGE report (R165, R166). -/
def State.announceTicket (s : State) (before : Option TicketState) (t : Ticket) (cause : TicketCause) : State :=
  (s.offerPlain (.ticket t.ident t.line t.state t.latest)).post
    (.ticketChange t.ident t.line before t.state t.latest cause)

/-- A ticket moves to a state at a test time or clock time, and the change is announced. -/
def State.moveTicket (s : State) (t : Ticket) (f : Ticket → Ticket) (cause : TicketCause) : State :=
  (s.updateTicket t.ident f).announceTicket (some t.state) (f t) cause

/-- The table with room made for a new ticket: as it stands below 128, without its oldest CLOSED ticket at 128, and none when
no ticket is CLOSED (R158, R167). -/
def roomFor (ts : List Ticket) : Option (List Ticket) :=
  if ts.length < Config.ticketCap then some ts
  else if ts.any (fun t => t.state == .closed) then some (ts.eraseP (fun t => t.state == .closed))
  else none

/-- A new ticket (R158). -/
def newTicket (ident line : Nat) (v : Verdict) (time retest : Nat) : Ticket where
  ident := ident
  line := line
  state := .opened
  opening := v
  latest := v
  openedAt := time
  changedAt := time
  tests := 1
  retestDue := some (time + retest * 60)
  cause := none
  deadline := none

/-- A ticket is to be opened for a line: it opens at the back of the table, its record names it and the pending mark is
cleared; or the table is full of live tickets, the pending mark is set and TICKET_TABLE_FULL is captured (R158, R167,
R168). -/
def State.openTicket (s : State) (line : Nat) (v : Verdict) (time : Nat) (cause : TicketCause) : State :=
  match roomFor s.tickets.table with
  | some ts =>
    let serial := freeSerial ts 4095 s.tickets.serial
    let t := newTicket (s.straps.station * 4096 + serial) line v time s.settings.retest
    ((s.setTickets { s.tickets with table := ts ++ [t], serial := serial }).setRecord line
        { s.recordOf line with ticket := some t.ident, pending := false }).announceTicket none t cause
  | none =>
    (s.setRecord line { s.recordOf line with pending := true }).capture (.ticketTableFull line)

/-- HAZARD gives cause HAZARD, anything else THRESHOLD (R166, R168). -/
def openingCause (v : Verdict) : TicketCause := if v = .hazard then .hazard else .threshold

/-- The quiet update of a live ticket by a verdict (R157). -/
def Ticket.tested (t : Ticket) (v : Verdict) (time retest : Nat) : Ticket :=
  { t with latest := v, tests := min 65535 (t.tests + 1), retestDue := some (time + retest * 60) }

/-- A live ticket's change of state on a verdict, after its update (R159, R160). -/
def State.ticketMove (s : State) (t : Ticket) (v : Verdict) (time level : Nat) : State :=
  match t.state with
  | .cleared =>
    if v = .hazard ∨ s.settings.openLevel ≤ level then
      s.moveTicket t (fun t => { t with state := .opened, changedAt := time, deadline := none }) (openingCause v)
    else s
  | .closed => s
  | _ =>
    if v = .clear ∧ level ≤ s.settings.clearLevel then
      s.moveTicket t
        (fun t => { t with state := .cleared, changedAt := time, deadline := some (time + s.settings.clearHold * 60) })
        .clear
    else s

/-- What the Ticket Table does with a verdict the store hands it (R157, R158, R168). -/
def State.ticketVerdict (s : State) (line : Nat) (v : Verdict) (time level : Nat) : State :=
  let r := s.recordOf line
  match r.ticket with
  | some ident =>
    match s.ticket? ident with
    | some t =>
      (s.updateTicket ident (fun t => t.tested v time s.settings.retest)).ticketMove
        (t.tested v time s.settings.retest) v time level
    | none => s
  | none =>
    if r.pending then
      if v = .clear ∧ level ≤ s.settings.clearLevel then s.setRecord line { r with pending := false }
      else s.openTicket line v time (openingCause v)
    else if v = .hazard ∨ s.settings.openLevel ≤ level then s.openTicket line v time (openingCause v)
    else s

/-- A live ticket becomes CLOSED at the present clock; its line's record no longer names one (R161, R164). -/
def State.shutTicket (s : State) (t : Ticket) (cause : TicketCause) : State :=
  (s.setRecord t.line { s.recordOf t.line with ticket := none }).moveTicket t
    (fun t =>
      { t with state := .closed, changedAt := s.clockSec, retestDue := none, cause := some cause, deadline := none })
    cause

/-- The clear-hold deadline of a CLEARED ticket has been reached (R161). -/
def State.clearHoldRunOut (s : State) (t : Ticket) : Bool :=
  t.state == .cleared && t.deadline.any (fun d => decide (d ≤ s.clockSec))

/-- A ticket is overdue (R162). -/
def State.overdue (s : State) (t : Ticket) : Bool := t.retestDue.any (fun d => decide (d ≤ s.clockSec))

/-- The overdue ticket whose retest due is earliest, the first in the table among equals (R162). -/
def State.overdueTicket (s : State) : Option Ticket :=
  s.tickets.table.foldl
    (fun best t =>
      if s.overdue t then
        match best with
        | none => some t
        | some b => if t.retestDue.getD 0 < b.retestDue.getD 0 then some t else some b
      else best)
    none

/-- The foreign ticket cache after a TICKET notice (R170). -/
def cacheHear (cache : List ForeignTicket) (e : ForeignTicket) : List ForeignTicket :=
  if cache.any (fun x => x.ident == e.ident) then
    if e.state = .closed then cache.filter (fun x => x.ident != e.ident)
    else cache.filter (fun x => x.ident != e.ident && x.line != e.line) ++ [e]
  else if e.state = .closed then cache
  else
    let kept := cache.filter (fun x => x.line != e.line)
    (if Config.cacheCap ≤ kept.length then kept.drop 1 else kept) ++ [e]

/-! ## Line records (Chapter 7) -/

/-- The fault bucket decayed to minute `t`: level and stamp (R142). -/
def decayBucket (level stamp t period : Nat) : Nat × Nat :=
  if t < stamp then (level, t)
  else if 0 < level - (t - stamp) / period then
    (level - (t - stamp) / period, stamp + (t - stamp) / period * period)
  else (0, t)

/-- A verdict as it reaches the store (R139). -/
structure Delivery where
  line : Nat
  verdict : Verdict
  tester : Nat
  worst : Option Resistance
  length : Option Nat
  deriving DecidableEq, Repr

/-- A line record after a verdict (R140, R142, R143, R145). -/
def LineRecord.judged (r : LineRecord) (d : Delivery) (seconds minute period : Nat) : LineRecord :=
  let b := decayBucket r.level r.stamp minute period
  { r with
    tested := true
    verdict := some d.verdict
    time := some seconds
    tester := some d.tester
    worst := d.worst
    length := d.length
    level := min 255 (b.1 + d.verdict.weight)
    stamp := b.2
    hazard := d.verdict == .hazard }

/-- A verdict for a home line is applied and handed to the Ticket Table, as one event (R139, R140, R144); while a clear runs
it is not applied (R151). -/
def State.applyVerdict (s : State) (d : Delivery) : State :=
  if s.records.clear.isSome then s
  else
    let r := (s.recordOf d.line).judged d s.clockSec s.clockMin s.settings.decay
    (s.setRecord d.line r).ticketVerdict d.line d.verdict s.clockSec r.level

/-- The worst resistance recorded for the kilohms of a peer verdict (R141). -/
def worstOfKohm (w : Nat) : Resistance :=
  if w = 0 then { ohms := 10, mark := .atOrBelow }
  else if 65535 ≤ w then { ohms := 999999999, mark := .openLine }
  else { ohms := w * 1000, mark := .none }

/-- A line record after a clear: as at power-on but for its sweep class (R150). -/
def LineRecord.wiped (r : LineRecord) : LineRecord :=
  { LineRecord.powerOn with repetition := r.repetition, offset := r.offset }

/-- A line record at the beginning of a clear: no ticket ident and no pending mark (R150). -/
def LineRecord.ticketless (r : LineRecord) : LineRecord := { r with ticket := none, pending := false }

end Sys2Proof.Machine
end

