-- ==== Sys2Proof/Machine/SweepEngine.lean ====
section
/-! DEFINITION. The Sweep Engine as shared operations (Chapter 9): the wrap, the walk, the take of an offer, a job's outcome,
falling due, stopping. -/

namespace Sys2Proof.Machine

/-- A SWEEP_STATE report with the values as they stand (R188). -/
def State.postSweep (s : State) (cause : SweepCause) : State :=
  s.post (.sweepState cause s.sweep.state s.sweep.pointer s.sweep.pass s.sweep.skip)

/-- A wrap (R180): the pointer moves to the first home line, PASS_END is posted with the pass just ended and its skip count, and
the pass is counted. -/
def State.wrapPass (s : State) : State :=
  let sw := s.sweep
  ((s.setSweep { sw with pointer := s.straps.firstLine }).post
      (.sweepState .passEnd sw.state s.straps.firstLine sw.pass sw.skip)).setSweep
    { sw with pointer := s.straps.firstLine, pass := (sw.pass + 1) % 65536, skip := 0 }

/-- The halt of stop-on-complete after a wrap (R180), with the due time of R184. -/
def State.haltIfComplete (s : State) : State :=
  if s.sweep.onComplete ∧ !s.sweep.once ∧ !s.sweep.stopPending then
    (s.setSweep
      { s.sweep with
        state := .haltedComplete
        due := some (s.time.clock + s.sweep.interval * 1000)
        offer := false
        guardPassed := false }).postSweep .completeHalt
  else s

/-- The pointer steps to the next home line, with a wrap past the last (R179, R181). -/
def State.stepPointer (s : State) : State :=
  if s.straps.lastLine ≤ s.sweep.pointer then s.wrapPass.haltIfComplete
  else s.setSweep { s.sweep with pointer := s.sweep.pointer + 1 }

/-- A line is counted as a skip (R174). -/
def State.countSkip (s : State) : State := s.setSweep { s.sweep with skip := s.sweep.skip + 1 }

/-- What the walk decides about the line at the pointer (R179). -/
inductive WalkChoice where
  | test | over | skip
  deriving DecidableEq, Repr

/-- The tests of the walk, in order; with the once option the first two are passed over (R179, R187). -/
def State.consider (s : State) : WalkChoice :=
  let r := s.recordOf s.sweep.pointer
  if !s.sweep.once ∧ r.repetition = 0 then .over
  else if !s.sweep.once ∧ s.sweep.pass % r.repetition ≠ r.offset then .over
  else if r.hazard then .skip
  else if (s.unitAt (unitOf s.sweep.pointer)).state ≠ .ok then .skip
  else .test

/-- The pointer steps over the line it stands on (R179). -/
def State.stepOver (s : State) (c : WalkChoice) : State :=
  match c with
  | .skip => s.countSkip.stepPointer
  | _ => s.stepPointer

/-- The walk of the pointer over at most the given number of lines (R179): the line it stops on, if any. A halt at a wrap stops
it with no line (R180). -/
def State.walk : Nat → State → State × Option Nat
  | 0, s => (s, none)
  | k + 1, s =>
    match s.consider with
    | .test => (s, some s.sweep.pointer)
    | c =>
      let s' := s.stepOver c
      if s'.sweep.state = .haltedComplete then (s', none) else State.walk k s'

/-- The sweep enters STOPPED with the given report cause (R185, R187). -/
def State.stopSweep (s : State) (cause : SweepCause) : State :=
  (s.setSweep
    { s.sweep with
      state := .stopped
      due := none
      offer := false
      guardPassed := false
      stopPending := false }).postSweep cause

/-- A fresh offer stands with the sequencer (R176). -/
def State.seek (s : State) : State :=
  s.setSweep { s.sweep with state := .seeking, offer := true, guardPassed := false }

/-- The sweep goes on from a moment with no job: SEEKING if its due time has been reached, otherwise INTERVAL (R177). -/
def State.seekOrWait (s : State) : State :=
  if s.sweep.due.any (fun d => decide (d ≤ s.time.clock)) then s.seek
  else s.setSweep { s.sweep with state := .interval, offer := false, guardPassed := false }

/-- A job is made at the take: the due time is one interval on (R177), and the sweep enters TESTING but in HALTED_COMPLETE
(R184). -/
def State.makeSweepJob (s : State) (pointerTest : Bool) : State :=
  s.setSweep
    { s.sweep with
      state := if s.sweep.state = .haltedComplete then .haltedComplete else .testing
      due := some (s.time.clock + s.sweep.interval * 1000)
      offer := false
      guardPassed := false
      pointerOwed := if pointerTest then false else s.sweep.pointerOwed }

/-- A take that makes no job (R177, R178, R184, R187). In HALTED_COMPLETE the due time becomes the present moment plus the interval, as R177 has it of
a running state (DESIGN CHOICE, unsafe, log 38). -/
def State.takeNothing (s : State) : State :=
  if s.sweep.state = .haltedComplete then
    s.setSweep
      { s.sweep with
        due := some (s.time.clock + s.sweep.interval * 1000)
        offer := false
        guardPassed := false
        pointerOwed := false }
  else if s.sweep.once then
    (s.setSweep { s.sweep with pointerOwed := false }).stopSweep .onceDone
  else
    s.setSweep
      { s.sweep with
        state := .interval
        due := some (s.time.clock + s.sweep.interval * 1000)
        offer := false
        guardPassed := false
        pointerOwed := false }

/-- A retest is asked for at this take: always in HALTED_COMPLETE, and in a running state unless the once option is on or the
pointer is owed a turn (R178, R184). -/
def State.retestAtTake (s : State) : Option Ticket :=
  if s.sweep.state = .haltedComplete ∨ (!s.sweep.once ∧ !s.sweep.pointerOwed) then s.overdueTicket else none

/-- The sequencer takes the offer: the line of the job made and whether it is a retest, or no job (R178, R184, R187). -/
def State.takeSweep (s : State) : State × Option (Nat × Bool) :=
  match s.retestAtTake with
  | some t => (s.makeSweepJob false, some (t.line, true))
  | none =>
    if s.sweep.state = .haltedComplete then (s.takeNothing, none)
    else
      match State.walk (if s.sweep.once then 1 else s.straps.lineCount) s with
      | (s', some line) => (s'.makeSweepJob true, some (line, false))
      | (s', none) => (s'.takeNothing, none)

/-- The sweep goes on after a job's outcome (R177, R185, R187); a halt stands. -/
def State.sweepGoOn (s : State) : State :=
  if s.sweep.stopPending then s.stopSweep .stop
  else if s.sweep.state = .haltedComplete ∨ s.sweep.state = .haltedError then s
  else if s.sweep.once then s.stopSweep .onceDone
  else s.seekOrWait

/-- A SWEEP_RESULT report for a verdict other than CLEAR; a retest's carries the ident its line's record names (R188), read when the outcome is handed
over (DESIGN CHOICE, unsafe, log 39). -/
def State.postSweepResult (s : State) (info : SweepInfo) (line : Nat) (v : Option Verdict) : State :=
  match v with
  | none => s
  | some .clear => s
  | some x =>
    s.post (.sweepResult line x info.retest info.pass (if info.retest then (s.recordOf line).ticket else none))

/-- The verdict halts a pointer test under stop-on-error (R182); once and a pending stop take its place (R185, R187). -/
def State.errorHalts (s : State) (v : Option Verdict) : Bool :=
  s.sweep.onError && !s.sweep.once && !s.sweep.stopPending
    && v.any (fun x => x != .clear && x != .marginal)

/-- The pointer after a pointer test's outcome (R181). -/
def State.pointerOutcome (s : State) (v : Option Verdict) (status : EndStatus) : State :=
  if v.isSome then s.stepPointer
  else
    match status with
    | .lineBusy | .unitDown | .accessFault | .releaseFault => s.countSkip.stepPointer
    | _ => s

/-- A sweep job's outcome is handed over: its verdict if one was delivered, and its end status (R181, R182, R183). -/
def State.sweepOutcome (s : State) (info : SweepInfo) (line : Nat) (v : Option Verdict) (status : EndStatus) : State :=
  let s := s.postSweepResult info line v
  if info.retest then
    (if v.isNone ∧ s.sweep.state ≠ .haltedComplete then s.setSweep { s.sweep with pointerOwed := true }
     else s).sweepGoOn
  else if s.errorHalts v then
    (s.setSweep { s.sweep with state := .haltedError, due := none, offer := false, guardPassed := false }).postSweep
      .errorHalt
  else (s.pointerOutcome v status).sweepGoOn

/-- A test falls due (R176): INTERVAL becomes SEEKING; in HALTED_COMPLETE an offer stands if a retest is overdue, and otherwise
the due time moves on by one interval (R184). -/
def State.sweepFallsDue (s : State) : State :=
  match s.sweep.state, s.sweep.due with
  | .interval, some _ => s.seek
  | .haltedComplete, some d =>
    if s.sweep.offer ∨ s.sweepInSlot then s
    else if s.overdueTicket.isSome then s.setSweep { s.sweep with offer := true, guardPassed := false }
    else s.setSweep { s.sweep with due := some (d + s.sweep.interval * 1000) }
  | _, _ => s

end Sys2Proof.Machine
end

