-- ==== Sys2Proof/Machine/Slots.lean ====
section
/-! DEFINITION. The two slots and the head connect (R66, R112, R118). -/

namespace Sys2Proof.Machine

/-- The source setting of a job in mV, clamped to its range (R68). -/
def settingOf (o : Order) : Nat := max 10000 (min 100000 (o.volts * 1000))

/-- The head takes a head connect (R66). -/
def State.headConnect (s : State) (bus setting : Nat) : State :=
  s.setHead
    { Head.offBus with
      state := .connecting
      bus := some bus
      relay := some bus
      setting := some setting
      activity := .connecting
      until_ := s.time.now + ms 25 }

/-- The head connect of the active slot's READY job is offered; the head takes it in OFF_BUS and otherwise answers BUSY, the job
staying READY (R66, R118). -/
def State.offerHead (s : State) : State :=
  match s.seq.active with
  | .job j =>
    if j.phase = .ready ∧ s.head.state = .offBus then
      match j.bus with
      | some b => s.headConnect b (settingOf j.order)
      | none => s
    else s
  | _ => s

/-- The moves of R112: a staged job moves into an empty active slot; a staged job that has not begun its release sequence changes
places with an active job that has handed HEAD_FREE in its own. -/
def State.slotMove (s : State) : State :=
  match s.seq.active, s.seq.staged with
  | .empty, .job j => s.setSeq { s.seq with active := .job j, staged := .empty }
  | .job a, .job b =>
    if a.phase = .releasing ∧ a.headFreed ∧ b.phase ≠ .releasing then
      s.setSeq { s.seq with active := .job b, staged := .job a }
    else s
  | _, _ => s

/-- After a change of the slots: the moves, and the head connect of a job that has come into the active slot in READY. -/
def State.settleSlots (s : State) : State := s.slotMove.offerHead

/-- A sweep job in a slot ends with an outcome: its slot empties and the outcome is handed to the Sweep Engine (R116). -/
def State.endSweepJob (s : State) (id : SlotId) (status : EndStatus) : State :=
  match s.slot id with
  | .job j =>
    match j.sweep with
    | some info => ((s.setSlot id .empty).sweepOutcome info j.order.line j.verdict status).settleSlots
    | none => s
  | _ => s

end Sys2Proof.Machine
end

