-- ==== Sys2Proof/Machine/ClaimTable.lean ====
section
/-! DEFINITION. The Claim Manager with the transmit queue: free pairs, taking a pair, losing and withdrawing a claim, assertions
and the push-out of a full queue, held-back notices, and the bookkeeping of peers' claims (Chapter 3, sections 2.4 and 3.5). -/

namespace Sys2Proof.Machine

/-! ## Free pairs (R41) -/

/-- One entry of the table leaves a pair free for a claim (R41): OWN conflicts do not; a FIRM conflict does only when it carries
ROUTINE and the claim does not; a TENTATIVE conflict does unless it has precedence. -/
def entryAllows (station : Nat) (u : Urgency) (p : Pair) (bus : Nat) (e : Entry) : Bool :=
  !conflicts p bus e ||
    match e with
    | .free => true
    | .own _ => false
    | .peer c =>
      if c.firm then u != .routine && c.urgency == .routine
      else !precedes c.urgency c.station u station

/-- A FIRM conflict of a pair, which a free pair has only in ROUTINE (R41). -/
def firmConflict (p : Pair) (bus : Nat) (e : Entry) : Bool :=
  conflicts p bus e &&
    match e with
    | .peer c => c.firm
    | _ => false

/-- A test of every entry with its bus. -/
def allEntries (f : Nat → Entry → Bool) (es : List Entry) : Bool := (List.range es.length).all (fun b => f b (es.getD b .free))

/-- A pair is free for a claim of this station (R41). -/
def State.pairFree (s : State) (u : Urgency) (p : Pair) : Bool :=
  allEntries (entryAllows s.straps.station u p) s.claims.entries

/-- A free pair without any ROUTINE conflict to be asked to yield (R41, DEDUCED, unsafe, log 9). -/
def State.pairClean (s : State) (u : Urgency) (p : Pair) : Bool :=
  s.pairFree u p && allEntries (fun b e => !firmConflict p b e) s.claims.entries

/-- The bus a claim would take (R41): its preferred bus, or with ANY the lowest clean bus, or else the lowest free bus. -/
def State.candidate (s : State) (line : Nat) (u : Urgency) (pref : Option Nat) : Option Nat :=
  match pref with
  | some b => if b < s.claims.entries.length ∧ s.pairFree u { bus := b, line := line } then some b else none
  | none =>
    let buses := List.range s.claims.entries.length
    match buses.find? (fun b => s.pairClean u { bus := b, line := line }) with
    | some b => some b
    | none => buses.find? (fun b => s.pairFree u { bus := b, line := line })

/-! ## Taking a pair (R41) -/

/-- The awaited list of a claim that takes a pair: its FIRM conflicts, each with its station, pair and expiry. -/
def awaitedOf (p : Pair) (es : List Entry) : List Awaited :=
  (List.range es.length).filterMap (fun b =>
    match es.getD b .free with
    | .peer c =>
      if firmConflict p b (.peer c) then
        some { station := c.station, pair := { bus := b, line := c.line }, expiry := c.expiry }
      else none
    | _ => none)

/-- The table without the PEER entries that conflict with a pair. -/
def withoutConflicts (p : Pair) (es : List Entry) : List Entry :=
  (List.range es.length).map (fun b =>
    match es.getD b .free with
    | .peer c => if conflicts p b (.peer c) then .free else .peer c
    | e => e)

/-- A new OWN entry in SENDING. -/
def newOwn (line : Nat) (u : Urgency) (awaited : List Awaited) : OwnClaim where
  line := line
  urgency := u
  state := .sending
  withdrawn := false
  sentAt := 0
  limit := 0
  renewAt := 0
  retryAt := 0
  awaited := awaited
  disturbances := []

/-- The claim takes a pair and becomes SENDING: FIRM conflicts go to its awaited list and TENTATIVE ones are removed (R41). -/
def State.takePair (s : State) (o : Opening) (bus : Nat) : State :=
  let p : Pair := { bus := bus, line := o.line }
  s.setClaims
    { s.claims with
      entries :=
        (withoutConflicts p s.claims.entries).set bus (.own (newOwn o.line o.urgency (awaitedOf p s.claims.entries)))
      opening := some { o with placed := some bus } }

/-- The CLAIM for a free pair is offered: taken into the queue it takes the pair; refused it is held back and the claim stays
WAITING (R41). -/
def State.offerClaim (s : State) (o : Opening) (bus : Nat) : State :=
  let tx : Tx := { notice := .claim o.urgency { bus := bus, line := o.line }, tag := .plain }
  if s.line.queue.length < Config.transmitCap then
    ((s.setLine { s.line with queue := s.line.queue ++ [tx] }).takePair o bus).loadFlight
  else s.holdBack tx

/-- A WAITING claim is tested while the station is ACTIVE and no CLAIM is held back (R41). -/
def State.claimTest (s : State) : State :=
  match s.claims.opening with
  | some o =>
    if o.placed = none ∧ s.claims.station = .active ∧ !s.line.heldClaims.any Tx.isClaim then
      match s.candidate o.line o.urgency o.pref with
      | some b => s.offerClaim o b
      | none => s
    else s
  | none => s

/-! ## Held-back notices at a free place (R30) -/

/-- How a claim for a line is refused NOT_FREE (R114): LINE_BUSY if an entry of the table carries the line, otherwise NO_BUS. -/
def State.notFreeStatus (s : State) (line : Nat) : EndStatus := if s.lineInTable line then .lineBusy else .noBus

/-- A sweep job's claim in the making is NOT_FREE: the claim ends, and with it its job in ACCESS (R114, R116). -/
def State.refuseClaim (s : State) (line : Nat) : State :=
  let s := s.setClaims { s.claims with opening := none }
  match s.accessSlot with
  | some id => s.endSweepJob id (s.notFreeStatus line)
  | none => s

/-- A claim whose held-back CLAIM has been discarded is tested again at once and waits on if no pair is free (R41). A sweep job never waits
for a pair: its ROUTINE claim is then NOT_FREE (R116, DEDUCED, unsafe, log 45). -/
def State.claimAgain (s : State) (o : Opening) : State :=
  if o.placed = none ∧ o.urgency = .routine ∧ (s.candidate o.line o.urgency o.pref).isNone then s.refuseClaim o.line
  else s.claimTest

/-- A held-back notice of the Claim Manager is offered again. A CLAIM takes its pair if it is still free; otherwise it is
discarded and its claim is tested again (R41, R116). -/
def State.reofferClaims (s : State) (tx : Tx) (rest : List Tx) : State :=
  let s := s.setLine { s.line with heldClaims := rest }
  match tx.notice with
  | .claim _ p =>
    match s.claims.opening with
    | some o =>
      if o.placed = none ∧ s.pairFree o.urgency { bus := p.bus, line := o.line } then
        (s.setLine { s.line with queue := s.line.queue ++ [tx] }).takePair o p.bus
      else s.claimAgain o
    | none => s
  | _ => (s.enqueue tx).1

/-- The three blocks that hold notices back. -/
inductive Holder where
  | claims | verdicts | tickets
  deriving DecidableEq, Repr

/-- One of two by a free value when both are there: the manual lets either be taken first (R30, DESIGN CHOICE, safe, log 7). -/
def State.chooseHolder (s : State) (hs : List Holder) : State × Option Holder :=
  match hs with
  | [] => (s, none)
  | [h] => (s, some h)
  | h :: rest =>
    let (s, b) := s.takeFree
    if b then (s, some h)
    else
      match rest with
      | [h'] => (s, some h')
      | h' :: h'' :: _ =>
        let (s, b') := s.takeFree
        (s, some (if b' then h' else h''))
      | [] => (s, some h)

/-- The blocks that hold a notice back now. -/
def State.holders (s : State) : List Holder :=
  (if s.line.heldClaims.isEmpty then [] else [.claims])
    ++ (if s.line.heldVerdicts.isEmpty then [] else [.verdicts])
    ++ (if s.line.heldTickets.isEmpty then [] else [.tickets])

/-- A block's oldest held-back notice is offered. -/
def State.reoffer (s : State) (h : Holder) : State :=
  match h with
  | .claims =>
    match s.line.heldClaims with
    | tx :: rest => s.reofferClaims tx rest
    | [] => s
  | .verdicts =>
    match s.line.heldVerdicts with
    | tx :: rest => ((s.setLine { s.line with heldVerdicts := rest }).enqueue tx).1
    | [] => s
  | .tickets =>
    match s.line.heldTickets with
    | tx :: rest => ((s.setLine { s.line with heldTickets := rest }).enqueue tx).1
    | [] => s

/-- Free places are offered to the blocks that hold notices back, one notice at a time (R30). A place that a re-offered notice leaves free, as
a folded renewal (R29) or a discarded CLAIM (R41) does, is offered again at once (DESIGN CHOICE, unsafe, log 48). The fuel bounds the offers by
the notices held back. -/
def State.refill : Nat → State → State
  | 0, s => s
  | k + 1, s =>
    if s.line.queue.length < Config.transmitCap then
      match s.chooseHolder s.holders with
      | (s', some h) => State.refill k (s'.reoffer h)
      | (s', none) => s'
    else s

/-- How many notices are held back. -/
def State.heldCount (s : State) : Nat :=
  s.line.heldClaims.length + s.line.heldVerdicts.length + s.line.heldTickets.length

/-- A place has freed, in flight or in the queue: the head of the queue comes into flight if none is, and held-back notices are
offered (R27, R30). -/
def State.lineMoves (s : State) : State :=
  (State.refill (s.loadFlight.heldCount + 1) s.loadFlight).loadFlight

/-! ## Leaving the table (R45) -/

/-- An awaited entry goes back into the table as a FIRM ROUTINE PEER entry (R45). Where its bus has no entry here nothing is
placed; where the entry is taken meanwhile it gives way only if it is TENTATIVE (DESIGN CHOICE, unsafe, log 11). -/
def putBack (es : List Entry) (a : Awaited) : List Entry :=
  let e : Entry :=
    .peer { station := a.station, line := a.pair.line, urgency := .routine, firm := true, expiry := a.expiry }
  match es.getD a.pair.bus .free with
  | .free => es.set a.pair.bus e
  | .peer c => if c.firm then es else es.set a.pair.bus e
  | .own _ => es

/-- An OWN entry leaves the table and its awaited list goes back (R45, R46, DEDUCED, unsafe, log 12). -/
def State.leaveEntry (s : State) (bus : Nat) : State :=
  match s.ownAt bus with
  | some c => s.setClaims { s.claims with entries := c.awaited.foldl putBack (s.claims.entries.set bus .free) }
  | none => s

/-- The claim in the making is lost (R45): its entry leaves; a ROUTINE claim ends and its sweep job is handed LOST, ending NO_BUS
(R114); a DEMAND or PRIORITY claim returns to WAITING. -/
def State.loseClaim (s : State) : State :=
  match s.claims.opening with
  | some o =>
    match o.placed with
    | some b =>
      let s := s.leaveEntry b
      if o.urgency = .routine then
        let s := s.setClaims { s.claims with opening := none }
        match s.accessSlot with
        | some id => s.endSweepJob id .noBus
        | none => s
      else s.setClaims { s.claims with opening := some { o with placed := none } }
    | none => s
  | none => s

/-! ## Withdrawing a CLAIM (R31) -/

/-- The answer to a withdrawal. -/
inductive Withdrawal where
  | nothing | withdrawn | tooLate
  deriving DecidableEq, Repr

/-- A notice withdrawn TOO_LATE while the station is RESETTING counts for the end of the reset (R206). -/
def State.lateTag (s : State) (tx : Tx) : Tx := if s.claims.station = .resetting then { tx with tag := .ofReset } else tx

/-- The CLAIM of the claim in the making is withdrawn: from the queue, from those held back, or from flight while no symbol of its
present try has been sent; a try on the line is TOO_LATE and keeps the withdrawal (R31). -/
def State.withdrawClaim (s : State) : State × Withdrawal :=
  if s.line.queue.any Tx.isClaim then
    ((s.setLine { s.line with queue := s.line.queue.filter (fun tx => !tx.isClaim) }).lineMoves, .withdrawn)
  else if s.line.heldClaims.any Tx.isClaim then
    (s.setLine { s.line with heldClaims := s.line.heldClaims.filter (fun tx => !tx.isClaim) }, .withdrawn)
  else
    match s.line.flight with
    | some f =>
      if f.tx.isClaim ∧ !f.withdrawn then
        match f.phase with
        | .trying _ => (s.setLine { s.line with flight := some { f with tx := s.lateTag f.tx, withdrawn := true } }, .tooLate)
        | _ => ((s.setLine { s.line with flight := none }).lineMoves, .withdrawn)
      else (s, .nothing)
    | none => (s, .nothing)

/-- The claim in the making ends before it is HELD, by the sequencer's withdrawal, by ISOLATED or by a station reset (R46, R62,
R63). A CLAIM that cannot be stopped leaves its entry marked withdrawn; a claim already announced is released. -/
def State.endOpening (s : State) : State :=
  match s.claims.opening with
  | none => s
  | some o =>
    let s := s.setClaims { s.claims with opening := none }
    match o.placed with
    | none => s.setLine { s.line with heldClaims := s.line.heldClaims.filter (fun tx => !tx.isClaim) }
    | some b =>
      match s.ownAt b with
      | some c =>
        if c.state = .sending then
          match s.withdrawClaim with
          | (s', .tooLate) => s'.updateOwn b (fun c => { c with withdrawn := true })
          | (s', _) => s'.leaveEntry b
        else (s.leaveEntry b).offerRelease { bus := b, line := o.line }
      | none => s

/-- A SENDING claim is defeated by a heard notice: its CLAIM is withdrawn as R31 allows, and the claim is lost (R42). -/
def State.defeatSending (s : State) : State := s.withdrawClaim.1.loseClaim

/-! ## Assertions (R28, R49) -/

/-- The queue with an asserting HOLD placed behind those already there and ahead of every other notice (R28). -/
def insertAssert (tx : Tx) (q : List Tx) : List Tx := q.takeWhile Tx.asserts ++ tx :: q.dropWhile Tx.asserts

/-- The youngest queued notice that is not an asserting HOLD, and the queue without it (R28). -/
def pushOut (q : List Tx) : Option (Tx × List Tx) :=
  match q.reverse.find? (fun tx => !tx.asserts) with
  | some tx => some (tx, (q.reverse.eraseP (fun tx => !tx.asserts)).reverse)
  | none => none

/-- What becomes of a pushed-out notice (R28): handed back to its block; a CLAIM loses its claim, and that of a ROUTINE claim is
discarded. -/
def State.pushedOut (s : State) (tx : Tx) : State :=
  match tx.notice with
  | .claim u _ => if u = .routine then s.loseClaim else (s.handBack tx).loseClaim
  | _ => s.handBack tx

/-- An asserting HOLD is offered for an own claim's pair (R28, R49). -/
def State.assertHold (s : State) (u : Urgency) (p : Pair) : State :=
  let tx : Tx := { notice := .hold u p true, tag := .plain }
  if s.line.queue.any (fun t => t.asserts && t.holdsPair p) then s
  else
    let q := s.line.queue.filter (fun t => !(t.holdsPair p && !t.asserts))
    if q.length < Config.transmitCap then (s.setLine { s.line with queue := insertAssert tx q }).loadFlight
    else
      match pushOut q with
      | some (out, q') => (s.setLine { s.line with queue := insertAssert tx q' }).pushedOut out
      | none => s.setLine { s.line with queue := insertAssert tx q }

/-! ## Peers' claims (R56 to R60) -/

/-- A heard CLAIM or HOLD as the table takes it. -/
structure HeardClaim where
  station : Nat
  urgency : Urgency
  pair : Pair
  firm : Bool
  deriving DecidableEq, Repr

/-- The table after a notice is set against the entries of its own station: one for the same pair takes its firmness, urgency and
expiry, and a conflicting one for another pair is removed (R57, R58). -/
def settleOwnStation (h : HeardClaim) (expiry : Nat) (es : List Entry) : List Entry :=
  (List.range es.length).map (fun b =>
    match es.getD b .free with
    | .peer c =>
      if c.station ≠ h.station then .peer c
      else if b = h.pair.bus ∧ c.line = h.pair.line then
        .peer { c with urgency := h.urgency, firm := h.firm, expiry := expiry }
      else if conflicts h.pair b (.peer c) then .free
      else .peer c
    | e => e)

/-- A conflicting PEER entry of another station. -/
def rivalAt (h : HeardClaim) (bus : Nat) (e : Entry) : Option PeerClaim :=
  match e with
  | .peer c => if c.station ≠ h.station ∧ conflicts h.pair bus e then some c else none
  | _ => none

/-- The conflicting PEER entries of other stations. -/
def rivals (h : HeardClaim) (es : List Entry) : List PeerClaim :=
  (List.range es.length).filterMap (fun b => rivalAt h b (es.getD b .free))

/-- The notice prevails over another station's entry: a CLAIM over a TENTATIVE one it has precedence over (R57); a HOLD over any
TENTATIVE one, and over a FIRM one it has precedence over (R58). -/
def prevails (h : HeardClaim) (c : PeerClaim) : Bool :=
  if h.firm then !c.firm || precedes h.urgency h.station c.urgency c.station
  else !c.firm && precedes h.urgency h.station c.urgency c.station

/-- The table without the conflicting entries of other stations. -/
def dropRivals (h : HeardClaim) (es : List Entry) : List Entry :=
  (List.range es.length).map (fun b =>
    match rivalAt h b (es.getD b .free) with
    | some _ => .free
    | none => es.getD b .free)

/-- The table after a heard CLAIM or HOLD (R57, R58): set against the entries of its own station, and then placed if it prevails
over every conflicting entry of other stations. A HOLD that does not prevail leaves the table unchanged (R58); a CLAIM that does not is
ignored after it has been set against the entries of its own station (R57, DEDUCED, unsafe, log 13). A notice naming a bus without an
entry changes nothing (R38). -/
def hearClaim (h : HeardClaim) (expiry : Nat) (es : List Entry) : List Entry :=
  if es.length ≤ h.pair.bus then es
  else
    let es' := settleOwnStation h expiry es
    if (rivals h es').all (prevails h) then
      (dropRivals h es').set h.pair.bus
        (.peer
          { station := h.station, line := h.pair.line, urgency := h.urgency, firm := h.firm, expiry := expiry })
    else if h.firm then es
    else es'

/-- Some OWN entry conflicts with a pair (R56). -/
def ownConflict (p : Pair) (es : List Entry) : Bool :=
  !allEntries (fun b e =>
    match e with
    | .own _ => !conflicts p b e
    | _ => true) es

/-- The table after a heard RELEASE (R59). -/
def hearRelease (station : Nat) (p : Pair) (es : List Entry) : List Entry :=
  match es.getD p.bus .free with
  | .peer c => if c.station = station ∧ c.line = p.line then es.set p.bus .free else es
  | _ => es

end Sys2Proof.Machine
end

