-- ==== Sys2Proof/Machine/Requests.lean ====
section
/-! DEFINITION. Requests to the Chain Controller (sections 1.2, 1.4, 1.5): the job group, the operations in progress, starting a
connect or a release, and withdrawing an abandoned connect. -/

namespace Sys2Proof.Machine

/-- A request joins the job group (R7). -/
def State.ask (s : State) (r : ChainRequest) : State :=
  s.setChain { s.chain with jobGroup := s.chain.jobGroup ++ [r] }

/-- The operation in progress for a pair. -/
def State.opOf (s : State) (p : Pair) : Option ChainOp := s.chain.ops.find? (fun o => o.pair == p)

/-- The operations without that of a pair. -/
def State.dropOp (s : State) (p : Pair) : State :=
  s.setChain { s.chain with ops := s.chain.ops.filter (fun o => o.pair != p) }

/-- The operation of its pair, replacing an earlier one. -/
def State.putOp (s : State) (o : ChainOp) : State :=
  s.setChain { s.chain with ops := s.chain.ops.filter (fun x => x.pair != o.pair) ++ [o] }

/-- An attempt of a connect begins with its OPERATE (R14). -/
def State.startConnect (s : State) (p : Pair) (attempt : Nat) : State :=
  (s.putOp { pair := p, kind := .connect, attempt := attempt, stage := .acting, abandoned := false }).ask (.operate p)

/-- An attempt of a release or of a release retry begins with its RELEASE (R16, R17). -/
def State.startRelease (s : State) (p : Pair) (kind : OpKind) (attempt : Nat) : State :=
  (s.putOp { pair := p, kind := kind, attempt := attempt, stage := .acting, abandoned := false }).ask (.release p)

/-- A connect is running for a pair. -/
def State.connecting? (s : State) (p : Pair) : Bool := (s.opOf p).any (fun o => o.kind == .connect)

/-- The OPERATE or READ LINE of a pair waits in the job group. -/
def State.requestWaits (s : State) (p : Pair) : Bool :=
  s.chain.jobGroup.contains (.operate p) || s.chain.jobGroup.contains (.readLine p)

/-- A connect whose job begins its release sequence is brought to its end (R8, R123): a waiting request is withdrawn, and a connect
in its settle has none, so its release follows at once (DEDUCED, unsafe, log 14); one on the chain runs to its outcome. -/
def State.abandonConnect (s : State) (p : Pair) : State :=
  match s.opOf p with
  | some o =>
    let settles : Bool := match o.stage with
      | .settling _ => true
      | _ => false
    if s.requestWaits p || settles then
      (s.setChain
        { s.chain with
          jobGroup := s.chain.jobGroup.filter (fun r => r != .operate p && r != .readLine p) }).startRelease p .release 1
    else s.putOp { o with abandoned := true }
  | none => s

/-- A POLL is waiting or on the chain (R10). -/
def State.pollPending (s : State) : Bool :=
  !s.chain.pollGroup.isEmpty ||
    match s.chain.exchange with
    | some e =>
      match e.request with
      | .poll _ => true
      | _ => false
    | none => false

/-- A POLL request joins the poll group (R7). -/
def State.askPoll (s : State) (u : Nat) : State :=
  s.setChain { s.chain with pollGroup := s.chain.pollGroup ++ [u] }

/-- Routine polling is restarted (R12): the unit under the poll pointer is polled at once and the next polling point falls 250 ms on;
while polling runs nothing happens. -/
def State.restartPolling (s : State) : State :=
  if s.chain.polling then s
  else
    (s.setChain { s.chain with polling := true, nextPoll := s.time.now + ms 250 }).askPoll s.chain.pollPointer

end Sys2Proof.Machine
end

