-- ==== Sys2Proof/Machine/Sequencer.lean ====
section
/-! DEFINITION. The Test Sequencer and the measurement head as shared operations: evaluation and delivery, the end of a job, the
release sequence, the stages of the head, the steps of an order, disturbance, a claim become HELD, isolation (Chapters 4 and 6,
section 3.4). -/

namespace Sys2Proof.Machine

/-! ## Evaluation and delivery (R86, R122) -/

/-- The inputs of an evaluation of the connection for a line (R86). -/
def State.evalInput (s : State) (line : Nat) : EvalInput where
  foreign := s.head.heldForeign
  resist := s.head.heldResist
  capacity := s.head.heldCapacity
  setting := s.head.setting.getD 0
  hazardFound := s.head.hazardFound
  perKm := s.settings.gauge.getD (s.unitAt (unitOf line)).gauge 0
  settings := s.settings

/-- A verdict is delivered (R122): to the Line Record Store for a home line, by a VERDICT notice for any other. -/
def State.deliver (s : State) (line : Nat) (v : Verdict) (r : Results) : State :=
  if s.isHome line then
    s.applyVerdict
      { line := line
        verdict := v
        tester := s.straps.station
        worst := r.resist.map (·.worst)
        length := r.capacity.bind (·.length) }
  else s.offerPlain (.verdict line v (kohmOf (r.resist.map (·.worst))))

/-- The active job's readings are evaluated and the verdict, if there is one, is delivered and becomes the job's (R122). -/
def State.judge (s : State) : State :=
  match s.seq.active with
  | .job j =>
    match evaluate (s.evalInput j.order.line) with
    | (r, some v) => (s.deliver j.order.line v r).updateJob .active (fun j => { j with verdict := some v })
    | (_, none) => s
  | _ => s

/-! ## Ends of orders (R130 to R133) -/

/-- A recorded time: never negative, and at most what its field holds (R131). -/
def recordedTime (start stop : Nat) : Nat := min Config.fieldMax (stop - start)

/-- The ident the foreign ticket cache holds for a line (R132). -/
def State.foreignIdent (s : State) (line : Nat) : Option Nat :=
  (s.tickets.cache.find? (fun e => e.line == line)).map (·.ident)

/-- The completion record of a job that ends with a status (R132). -/
def State.completionOf (s : State) (j : Job) (status : EndStatus) : Completion where
  tag := j.order.tag
  status := status
  step := j.step
  failing := j.failing
  bus := j.bus
  verdict := j.verdict
  results := j.results
  disturbed := j.disturbed
  hazard := if status = .hazardAbort then j.hazard else none
  ident := s.foreignIdent j.order.line
  accessWait := j.accessWait.getD (recordedTime j.order.submitted s.time.clock)
  connected := match j.connectedAt with
    | some t => recordedTime t s.time.clock
    | none => 0
  suspended := min Config.fieldMax j.suspended

/-- The completion record of an order that ends while queued (R128, R132). -/
def State.queuedCompletion (s : State) (o : Order) (status : EndStatus) (failing : Option Nat) : Completion where
  tag := o.tag
  status := status
  step := 0
  failing := failing
  bus := none
  verdict := none
  results := none
  disturbed := false
  hazard := none
  ident := s.foreignIdent o.line
  accessWait := recordedTime o.submitted s.time.clock
  connected := 0
  suspended := 0

/-- The place of this order's end among the order ends, and the count moved on (R133). -/
def State.countEnd (s : State) : State := s.setSeq { s.seq with ends := s.seq.ends + 1 }

/-- A job in a slot ends (R123, R132, R134): in a station reset it leaves no record and hands no outcome; a sweep job hands its outcome;
a desk order's record enters the completion queue, or holds the slot as DONE_PENDING when the queue is full (R133). -/
def State.endJob (s : State) (id : SlotId) : State :=
  match s.slot id with
  | .job j =>
    if s.claims.station = .resetting then (s.setSlot id .empty).settleSlots
    else if j.sweep.isSome then s.endSweepJob id (j.status.getD .done)
    else
      let c := s.completionOf j (j.status.getD .done)
      let s' := s.countEnd
      if s.seq.completions.length < Config.completionCap then
        ((s'.setSeq { s'.seq with completions := s'.seq.completions ++ [c] }).setSlot id .empty).settleSlots
      else (s'.setSlot id (.donePending { record := c, ended := s.seq.ends })).settleSlots
  | _ => s

/-- A queued order that has not ended ends with a status (R115, R128, R129): its record enters the completion queue and it leaves, or it keeps
its place until there is room (R133). -/
def State.endQueued (s : State) (tag : Nat) (status : EndStatus) (failing : Option Nat) : State :=
  match s.seq.queue.find? (fun q => q.order.tag == tag && q.waiting.isNone) with
  | some q =>
    let c := s.queuedCompletion q.order status failing
    let s' := s.countEnd
    if s.seq.completions.length < Config.completionCap then
      s'.setSeq
        { s'.seq with
          completions := s'.seq.completions ++ [c]
          queue := s'.seq.queue.filter (fun q => q.order.tag != tag) }
    else
      s'.setSeq
        { s'.seq with
          queue := s'.seq.queue.map (fun q =>
            if q.order.tag = tag then { q with waiting := some { record := c, ended := s.seq.ends } } else q) }
  | none => s

/-- The oldest of the records that wait in the slots and the order queue (R133). -/
def Sequencer.oldestWaiting (q : Sequencer) : Option Waiting :=
  let slot (x : Slot) : List Waiting := match x with
    | .donePending w => [w]
    | _ => []
  (slot q.active ++ slot q.staged ++ q.queue.filterMap (·.waiting)).foldl
    (fun best w =>
      match best with
      | none => some w
      | some b => if w.ended < b.ended then some w else some b)
    none

/-- A slot without the waiting record of the given place. -/
def Slot.without (x : Slot) (ended : Nat) : Slot :=
  match x with
  | .donePending w => if w.ended = ended then .empty else x
  | _ => x

/-- A place has freed in the completion queue: the oldest waiting record enters, and its slot or queue place becomes empty (R133). -/
def State.fileWaiting (s : State) : State :=
  match s.seq.oldestWaiting with
  | some w =>
    if s.seq.completions.length < Config.completionCap then
      (s.setSeq
        { s.seq with
          completions := s.seq.completions ++ [w.record]
          active := s.seq.active.without w.ended
          staged := s.seq.staged.without w.ended
          queue := s.seq.queue.filter (fun q => !q.waiting.any (fun x => x.ended == w.ended)) }).settleSlots
    else s
  | none => s

/-! ## The release sequence (R54, R79, R80, R123) -/

/-- The claim of a pair lets its pair go (R54): its entry leaves, a RELEASE is offered, and a WAITING claim is tested. -/
def State.letGo (s : State) (p : Pair) : State := ((s.leaveEntry p.bus).offerRelease p).claimTest

/-- A HELD claim becomes RELEASING and its disturbance records are dropped (R52, R54). -/
def State.claimReleasing (s : State) (bus : Nat) : State :=
  s.updateOwn bus (fun c =>
    { c with state := if c.state = .held then .releasing else c.state, disturbances := [] })

/-- The job in a slot owns the head, and the head is on its bus or connecting to it (R79, R123). -/
def State.ownsHead (s : State) (id : SlotId) : Bool :=
  match id, s.seq.active with
  | .active, .job j => j.bus.isSome && s.head.bus == j.bus && s.head.state != .offBus
  | _, _ => false

/-- The head's part of a release sequence, from whatever it is doing (R79, R80). -/
def State.headRelease (s : State) : State :=
  let h := s.head
  match h.activity with
  | .connecting =>
    s.setHead { h with source := .disconnected, relay := none, activity := .opening, until_ := s.time.now + ms 5 }
  | .discharging _ => s.setHead { h with source := .disconnected, activity := .discharging true }
  | .opening => s
  | _ =>
    s.setHead
      { h with
        state := .discharge
        source := .disconnected
        config := none
        shunt := true
        activity := .discharging true
        until_ := s.time.now + ms 20
        work := StageWork.none }

/-- The closing evaluation of a desk order whose release sequence begins with the head on its bus (R130). -/
def State.closeEvaluation (s : State) : State :=
  match s.seq.active with
  | .job j =>
    if j.sweep.isNone ∧ s.claims.station ≠ .resetting ∧ s.ownsHead .active
        ∧ (s.head.heldForeign.isSome ∨ s.head.heldResist.isSome ∨ s.head.heldCapacity.isSome) then
      s.updateJob .active (fun j => { j with results := some (resultsOf (s.evalInput j.order.line)) })
    else s
  | _ => s

/-- The release sequence reaches the chain (R123): passed over with NOTHING OPERATED after a UNIT_DOWN, behind a connect brought to its end,
or at once. -/
def State.releaseAtChain (s : State) (id : SlotId) : State :=
  match s.slot id with
  | .job j =>
    match j.bus with
    | some b =>
      let p : Pair := { bus := b, line := j.order.line }
      if j.nothingOperated then (s.letGo p).endJob id
      else if s.connecting? p then s.abandonConnect p
      else s.startRelease p .release 1
    | none => s
  | _ => s

/-- A suspension that ends stops adding to the order's suspended time; a clock set back before its start counts as 0 (R127, R131,
R194). -/
def Job.endSuspension (j : Job) (clock : Nat) : Job :=
  if j.phase = .suspended then { j with suspended := j.suspended + (clock - j.suspendedAt) } else j

/-- The release sequence of the job in a slot begins (R123): closing evaluation, the claim RELEASING, then the head's part or the chain's. -/
def State.beginRelease (s : State) (id : SlotId) : State :=
  match s.slot id with
  | .job j =>
    match j.bus with
    | some b =>
      let s := if id = .active then s.closeEvaluation else s
      let s := (s.claimReleasing b).updateJob id (fun j =>
        { (j.endSuspension s.time.clock) with phase := .releasing, inserted := false })
      if s.ownsHead id then s.headRelease else s.releaseAtChain id
    | none => s
  | _ => s

/-- A job that holds its claim ends for a cause: its end status is set and its release sequence begins (R80, R125, R128). Its failing step is
its step in hand; that of a SUSPENDED order is the marked step, for every end status (DESIGN CHOICE, unsafe, log 46). -/
def State.abandon (s : State) (id : SlotId) (status : EndStatus) (failing : Bool) : State :=
  (s.updateJob id (fun j =>
    { j with status := some status, failing := if failing then some j.step else none })).beginRelease id

/-- A job in ACCESS ends: its claim ends as R46 lays down, and no release is needed (R115, R128, R129). -/
def State.endAccess (s : State) (id : SlotId) (status : EndStatus) (failing : Option Nat) : State :=
  (s.endOpening.updateJob id (fun j => { j with status := some status, failing := failing })).endJob id

/-! ## The stages of the head (sections 4.4 to 4.6) -/

/-- The claim of the connected bus is HELD (R69). -/
def State.headClaimHeld (s : State) : Bool :=
  match s.head.bus with
  | some b => (s.ownAt b).any (fun c => c.state == .held && !c.withdrawn)
  | none => false

/-- The three things tested at each moment a stage calls for the source to go ON (R69). -/
def State.sourceMayGoOn (s : State) : Bool :=
  (s.head.state == .resist || s.head.state == .capacity) && s.headClaimHeld && s.head.foreignClear

/-- A stage whose source may not go ON stops with its readings discarded, the source staying as it is (R69, DEDUCED, unsafe, log 21). -/
def State.stopStage (s : State) : State :=
  s.setHead { s.head with state := .onBus, config := none, activity := .idle, work := StageWork.none }

/-- A FOREIGN stage begins (R72); the foreign-clear mark is cleared (R78). -/
def State.startForeign (s : State) : State :=
  s.setHead
    { s.head with
      state := .foreign
      source := .disconnected
      foreignClear := false
      activity := .sampling
      until_ := s.time.now + ms 40
      work := StageWork.none }

/-- A RESIST stage begins with configuration A's OFF phase (R75). -/
def State.startResist (s : State) : State :=
  s.setHead
    { s.head with
      state := .resist
      source := .zero
      config := some .a
      activity := .resistOff
      until_ := s.time.now + ms 16
      work := StageWork.none }

/-- The step of a CAPACITY configuration: the source goes ON under R69 and the record begins, 25.6 ms (R77). -/
def State.capacityStep (s : State) : State :=
  if s.sourceMayGoOn then
    s.setHead
      { s.head with
        source := .on
        activity := .capacityRecord
        until_ := s.time.now + 8192
        work := { s.head.work with wasOn := true } }
  else s.stopStage

/-- A CAPACITY stage begins with configuration A's step (R77). -/
def State.startCapacity (s : State) : State :=
  (s.setHead
    { s.head with state := .capacity, source := .zero, config := some .a, work := StageWork.none }).capacityStep

/-- A step of an order, by its number from 1; past the list stands the RELEASE every list ends with (R110). -/
def Order.stepAt (o : Order) (n : Nat) : Step :=
  o.steps.getD (n - 1) { kind := .release, marked := false, seconds := 0 }

/-- A disturbance record stands on the claim of a bus (R81). -/
def State.disturbed (s : State) (bus : Option Nat) : Bool :=
  match bus with
  | some b => (s.ownAt b).any (fun c => !c.disturbances.isEmpty)
  | none => false

/-- The stage of the active job's measuring step is offered to the head in ON_BUS, unless a disturbance record stands (R81, R117); a RESIST
or CAPACITY without the foreign-clear mark is preceded by an inserted FOREIGN (R78, R119), and nothing is taken with the hazard-found
mark set (R73). -/
def State.offerStage (s : State) : State :=
  match s.seq.active with
  | .job j =>
    if j.phase = .running ∧ s.head.state = .onBus ∧ s.head.bus = j.bus ∧ !s.disturbed j.bus ∧ !s.head.hazardFound then
      match (j.order.stepAt j.step).kind with
      | .foreign => s.startForeign
      | .resist =>
        if s.head.foreignClear then s.startResist
        else (s.updateJob .active (fun j => { j with inserted := true })).startForeign
      | .capacity =>
        if s.head.foreignClear then s.startCapacity
        else (s.updateJob .active (fun j => { j with inserted := true })).startForeign
      | _ => s
    else s
  | _ => s

/-! ## The steps of an order (R117 to R127) -/

/-- The active order is suspended before its marked step (R126). -/
def State.suspend (s : State) : State :=
  s.updateJob .active (fun j => { j with phase := .suspended, suspendedAt := s.time.clock })

/-- The active job's step in hand begins (R119 to R123); a VERDICT step takes no time, so the next step follows at once. The fuel is the
most steps an order holds. -/
def State.runStep : Nat → State → State
  | 0, s => s
  | k + 1, s =>
    match s.seq.active with
    | .job j =>
      match (j.order.stepAt j.step).kind with
      | .verdict =>
        let s' := s.judge.updateJob .active (fun j => { j with step := j.step + 1 })
        if (j.order.stepAt (j.step + 1)).marked then s'.suspend else State.runStep k s'
      | .hold =>
        s.updateJob .active (fun i =>
          { i with holdUntil := s.time.now + ms ((j.order.stepAt j.step).seconds * 1000) })
      | .release => s.beginRelease .active
      | .connect => s
      | _ => s.offerStage
    | _ => s

/-- The active job's step is finished: it suspends before a marked step and otherwise begins the next (R117, R126). -/
def State.finishStep (s : State) : State :=
  match s.seq.active with
  | .job j =>
    let s' := s.updateJob .active (fun j => { j with step := j.step + 1 })
    if (j.order.stepAt (j.step + 1)).marked then s'.suspend else State.runStep 13 s'
  | _ => s

/-- HAZARD is handed (R120): the verdict is delivered, the end status and the detail are set, and the release sequence begins. -/
def State.hazardFound (s : State) (d : HazardDetail) : State :=
  (s.judge.updateJob .active (fun j =>
    { j with status := some .hazardAbort, failing := some j.step, hazard := some d })).beginRelease .active

/-! ## Disturbance (R81, R82, R124) -/

/-- DISTURBED at the head (R81). -/
def State.headDisturbed (s : State) : State :=
  let h := s.head
  match h.activity with
  | .idle => s.setHead { h with foreignClear := false }
  | .connecting => s.setHead { h with foreignClear := false }
  | .discharging _ => s
  | .opening => s
  | _ =>
    let h' : Head :=
      { h with source := .disconnected, config := none, shunt := false, foreignClear := false, work := StageWork.none }
    if h.work.wasOn then
      s.setHead
        { h' with
          state := .discharge
          shunt := true
          activity := .discharging false
          until_ := s.time.now + ms 20 }
    else s.setHead { h' with state := .onBus, activity := .idle }

/-- DISTURBED is handed to the job that holds a pair (R52, R124). -/
def State.handDisturbed (s : State) (p : Pair) : State :=
  match s.slotOf p with
  | some id =>
    let s' := s.updateJob id (fun j => { j with disturbed := true, inserted := false })
    if s'.ownsHead id then s'.headDisturbed else s'
  | none => s

/-- UNDISTURBED is handed (R82): the active job's stage is offered again once the head is in ON_BUS. -/
def State.handUndisturbed (s : State) : State := s.offerStage

/-! ## HELD, and the chain's outcomes for a job (R47, R114) -/

/-- How a connect at the chain ends (R14). -/
inductive ConnectEnd where
  | connected | lineBusy | accessFault | unitDown | withdrawn
  deriving DecidableEq, Repr

/-- A job's connect ends with a failing status: its release sequence follows (R15, R114). -/
def State.connectFails (s : State) (id : SlotId) (status : EndStatus) : State :=
  (s.updateJob id (fun j => { j with status := some status, failing := some 1 })).beginRelease id

/-- A connect at the chain has ended (R114). A job already in its release sequence goes on to its release at the chain (R15, R123). -/
def State.connectEnded (s : State) (p : Pair) (outcome : ConnectEnd) : State :=
  match s.slotOf p with
  | some id =>
    match s.slot id with
    | .job j =>
      let s :=
        if outcome = .connected then s.updateJob id (fun j => { j with connectedAt := some s.time.clock }) else s
      if j.phase = .releasing then s.releaseAtChain id
      else
        match outcome with
        | .connected => (s.updateJob id (fun j => { j with phase := .ready })).offerHead
        | .lineBusy => s.connectFails id .lineBusy
        | .accessFault => s.connectFails id .accessFault
        | .unitDown => (s.updateJob id (fun j => { j with nothingOperated := true })).connectFails id .unitDown
        | .withdrawn => s.beginRelease id
    | _ => s
  | none => s

/-- The connect of a pair is offered to the Chain Controller: started on a unit in OK, and otherwise ended UNIT_DOWN (R13). -/
def State.offerConnect (s : State) (p : Pair) : State :=
  if (s.unitAt (unitOf p.line)).state = .ok then s.startConnect p 1 else s.connectEnded p .unitDown

/-- The claim in the making becomes HELD (R47): its renewals begin, and its job enters CONNECTING and is connected at the chain. -/
def State.becomeHeld (s : State) (bus : Nat) : State :=
  match s.ownAt bus with
  | some c =>
    let p : Pair := { bus := bus, line := c.line }
    let s := s.updateOwn bus (fun c =>
      { c with state := .held, awaited := [], renewAt := s.time.now + ms 1000 })
    let s := (s.setClaims { s.claims with opening := none }).offerRenewal c.urgency p
    match s.accessSlot with
    | some id =>
      (s.updateJob id (fun j =>
        { j with
          phase := .connecting
          bus := some bus
          accessWait := some (recordedTime j.order.submitted s.time.clock) })).offerConnect p
    | none => s
  | none => s

/-- A release at the chain has succeeded: the claim lets its pair go and its job, if it still has one, ends (R54, R55, R123). -/
def State.releasedAtChain (s : State) (p : Pair) : State :=
  let s' := s.letGo p
  match s.slotOf p with
  | some id => s'.endJob id
  | none => s'

/-- A release at the chain has failed twice (R16, R55): RELEASE_FAULT is captured, the claim becomes STUCK with its first retry 5 s on, and
its job ends RELEASE_FAULT. Its failing step is its step in hand, for an order that was SUSPENDED the marked step (DESIGN CHOICE, unsafe, log
46). -/
def State.stuckAtChain (s : State) (p : Pair) : State :=
  let s := s.capture (.releaseFault (unitOf p.line) (positionOf p.line))
  let s := s.updateOwn p.bus (fun c => { c with state := .stuck, retryAt := s.time.now + ms 5000 })
  match s.slotOf p with
  | some id =>
    (s.updateJob id (fun j => { j with status := some .releaseFault, failing := some j.step })).endJob id
  | none => s

/-! ## Isolation (R35, R62, R129) -/

/-- The tags of the queued orders that have not ended, in queue order. -/
def Sequencer.openTags (q : Sequencer) : List Nat := (q.queue.filter (·.waiting.isNone)).map (·.order.tag)

/-- The station enters ISOLATED (R36, R62, R129): the claim in the making ends, waiting orders end STATION_ISOLATED, and the transmitter of a
station that leaves STARTING may send. The queued orders end before the order in ACCESS (DESIGN CHOICE, unsafe, log 19). -/
def State.isolate (s : State) : State :=
  let s := s.setClaims { s.claims with station := .isolated, joinUntil := none }
  let s := s.seq.openTags.foldl (fun s t => s.endQueued t .stationIsolated (some 1)) s
  let s := match s.accessSlot with
    | some id => s.endAccess id .stationIsolated (some 1)
    | none => s.endOpening
  s.tryNow

end Sys2Proof.Machine
end

