-- ==== Sys2Proof/Machine/ChainOps.lean ====
section
/-! DEFINITION. The Chain Controller's exchanges (Chapter 1): sending a request, the arbiter's grant, what an ended exchange means to
a connect, a release, a retry, a poll and unit discovery. -/

namespace Sys2Proof.Machine

/-! ## Requests on the chain (R2, R4, R7, R8) -/

/-- The kind of exchange a request makes. -/
def ChainRequest.kind : ChainRequest → ExchangeKind
  | .operate _ => .operate
  | .release _ => .release
  | .readLine _ => .readLine
  | .poll _ => .poll
  | .chainClear => .chainClear

/-- The unit a request names; CHAIN CLEAR names none (R3). -/
def ChainRequest.unit : ChainRequest → Option Nat
  | .operate p => some (unitOf p.line)
  | .release p => some (unitOf p.line)
  | .readLine p => some (unitOf p.line)
  | .poll u => some u
  | .chainClear => none

/-- A request is sent on the out pair; its answer is to begin within 5 ms (R4, DESIGN CHOICE, unsafe, log 6). -/
def State.startExchange (s : State) (r : ChainRequest) : State :=
  s.setChain { s.chain with exchange := some { request := r, begun := false, limit := s.time.now + ms 5 } }

/-- The last moment at which the exchange may still end ANSWERED (R4): the end of a begun answer's 30 ms, or, for an answer whose
beginning was not commanded apart from its end, 30 ms after the last moment it could begin (DESIGN CHOICE, safe, log 29). -/
def Exchange.lastAnswer (e : Exchange) : Nat := if e.begun then e.limit else e.limit + ms 30

/-- The OWN entry of a pair is HELD (R8). -/
def State.pairHeld (s : State) (p : Pair) : Bool :=
  (s.ownAt p.bus).any (fun c => c.line == p.line && c.state == .held && !c.withdrawn)

/-- The arbiter's grant while the chain is free (R7, R8): the oldest of the job group, else of the poll group; an OPERATE whose OWN entry is
not HELD is removed unsent, its connect ending WITHDRAWN, and the next is granted. The fuel bounds the OPERATEs removed. -/
def State.grant : Nat → State → State
  | 0, s => s
  | k + 1, s =>
    if s.chain.exchange.isSome || s.chain.discovery.isSome then s
    else
      match s.chain.jobGroup with
      | r :: rest =>
        let s := s.setChain { s.chain with jobGroup := rest }
        match r with
        | .operate p =>
          if s.pairHeld p then s.startExchange r
          else State.grant k ((s.dropOp p).connectEnded p .withdrawn)
        | _ => s.startExchange r
      | [] =>
        match s.chain.pollGroup with
        | u :: rest => (s.setChain { s.chain with pollGroup := rest }).startExchange (.poll u)
        | [] => s

/-- The arbiter grants what it can at this moment (R7). -/
def State.pump (s : State) : State := State.grant (s.chain.jobGroup.length + 1) s

/-- The unit acts on a request for this station's drive set (R2, R3). -/
def State.unitActs (s : State) (r : ChainRequest) : State :=
  match r with
  | .operate p =>
    if s.chain.driveSet.contains p then s
    else s.setChain { s.chain with driveSet := s.chain.driveSet ++ [p] }
  | .release p => s.setChain { s.chain with driveSet := s.chain.driveSet.filter (fun q => q != p) }
  | .chainClear => s.setChain { s.chain with driveSet := [] }
  | _ => s

/-- A request whose exchange ended without its answer may have been acted on or not, whether the answer never began or stuck (R5, R6, R18, R202,
DESIGN CHOICE, safe, log 8): a free value decides for its unit, and for a CHAIN CLEAR one for each unit of the loop. -/
def State.unitMayAct (s : State) (r : ChainRequest) : State :=
  match r with
  | .readLine _ => s
  | .poll _ => s
  | .chainClear =>
    (s.setChain
      { s.chain with
        driveSet := s.chain.driveSet.filter (fun p => Config.freeChoice (s.free + unitOf p.line)) }).setFree
      (s.free + Config.unitCount)
  | _ =>
    let (s, b) := s.takeFree
    if b then s.unitActs r else s

/-- The chain is free: nothing stands on it. -/
def State.freeChain (s : State) : State := s.setChain { s.chain with exchange := none }

/-! ## Ends of exchanges for jobs and retries (R14, R16, R17) -/

/-- A release attempt or a retry has failed (R16, R17): a second attempt follows a first, a second ends STUCK, and a retry is made again 5 s
on. -/
def State.releaseFails (s : State) (o : ChainOp) : State :=
  match o.kind with
  | .retry => (s.dropOp o.pair).updateOwn o.pair.bus (fun c => { c with retryAt := s.time.now + ms 5000 })
  | _ => if o.attempt = 1 then s.startRelease o.pair .release 2 else (s.dropOp o.pair).stuckAtChain o.pair

/-- An OPERATE exchange has ended (R14): its settle of 10 ms begins, an abandoned connect ends WITHDRAWN, and one without an answer ends
ACCESS_FAULT. -/
def State.operateEnded (s : State) (p : Pair) (answered : Bool) : State :=
  match s.opOf p with
  | some o =>
    if answered then
      if o.abandoned then (s.dropOp p).connectEnded p .withdrawn
      else s.putOp { o with stage := .settling (s.time.now + ms 10) }
    else (s.dropOp p).connectEnded p .accessFault
  | none => s

/-- A RELEASE exchange has ended (R16): its settle of 8 ms begins, or the attempt fails. -/
def State.releaseEnded (s : State) (p : Pair) (answered : Bool) : State :=
  match s.opOf p with
  | some o =>
    if answered then s.putOp { o with stage := .settling (s.time.now + ms 8) } else s.releaseFails o
  | none => s

/-- A connect into a unit has ended ACCESS_FAULT on an empty readback: the access-fault count rises, to 3 at most, and at 3 the unit is
DOWN (R13). -/
def State.countFault (s : State) (u : Nat) : State :=
  let n := min 3 ((s.unitAt u).faults + 1)
  let s := s.setUnit u { s.unitAt u with faults := n }
  if n = 3 then s.changeUnit u .down else s

/-- The bus set holds a bus other than the given one. -/
def otherBus (buses : BitVec 4) (bus : Nat) : Bool :=
  (List.range 4).any (fun b => b != bus && buses.getLsbD b)

/-- The readback of a connect is examined (R14). An abandoned connect makes no second attempt (R8, DEDUCED, unsafe, log 14). -/
def State.connectRead (s : State) (o : ChainOp) (buses : BitVec 4) : State :=
  let p := o.pair
  if otherBus buses p.bus then (s.dropOp p).connectEnded p .lineBusy
  else if buses.getLsbD p.bus then
    ((s.setUnit (unitOf p.line) { s.unitAt (unitOf p.line) with faults := 0 }).dropOp p).connectEnded p .connected
  else if o.attempt = 1 then
    if o.abandoned then (s.dropOp p).connectEnded p .withdrawn else s.startConnect p 2
  else ((s.countFault (unitOf p.line)).dropOp p).connectEnded p .accessFault

/-- A READ LINE exchange has ended, with its bus set or with no answer (R14, R16). -/
def State.readLineEnded (s : State) (p : Pair) (buses : Option (BitVec 4)) : State :=
  match s.opOf p with
  | some o =>
    match o.kind, buses with
    | .connect, some b => s.connectRead o b
    | .connect, none => (s.dropOp p).connectEnded p .accessFault
    | _, some b => if b.getLsbD p.bus then s.releaseFails o else (s.dropOp p).releasedAtChain p
    | _, none => s.releaseFails o
  | none => s

/-! ## Polls (R11, R12) -/

/-- The last poll time of a unit becomes the station clock. -/
def State.stampPoll (s : State) (u : Nat) : State := s.setUnit u { s.unitAt u with lastPoll := s.clockSec }

/-- A poll has been answered (R11). -/
def State.pollAnswered (s : State) (u : Nat) (a : ChainAnswer) : State :=
  let s := s.stampPoll u
  match (s.unitAt u).state with
  | .absent => s
  | .ok => if a.supplyGood && !a.alarm then s else s.changeUnit u .alarm
  | _ =>
    if a.supplyGood && !a.alarm then (s.setUnit u { s.unitAt u with faults := 0 }).changeUnit u .ok
    else s.changeUnit u .alarm

/-- A poll has got no answer: besides what R5 and R6 do, its time is stamped and routine polling halts (R12). -/
def State.pollFailed (s : State) (u : Nat) : State :=
  let s := s.stampPoll u
  s.setChain { s.chain with polling := false }

/-! ## Power-on and unit discovery (R3, R9, R202) -/

/-- Discovery ends: routine polling begins and the station enters STARTING, or captures STATION_CLASH and enters ISOLATED if a clash was
marked (R9, R202). -/
def State.endDiscovery (s : State) : State :=
  let s := s.setChain
    { s.chain with
      exchange := none
      discovery := none
      pollPointer := 63
      polling := true
      nextPoll := s.time.now + ms 250 }
  match s.claims.clashMark with
  | none => s.setClaims { s.claims with station := .starting }
  | some k => ((s.setClaims { s.claims with clashMark := none }).capture (.stationClash k)).isolate

/-- Discovery polls a unit, or ends after unit 63 (R9). -/
def State.discover (s : State) (u : Nat) : State :=
  if u < Config.unitCount then
    (s.setChain { s.chain with discovery := some (.polling u) }).startExchange (.poll u)
  else s.endDiscovery

/-- The state discovery gives a unit that answered (R9). -/
def discoveredState (a : ChainAnswer) : UnitState := if a.supplyGood && !a.alarm then .ok else .alarm

/-- An exchange of power-on has been answered (R9, R202). -/
def State.discoveryAnswered (s : State) (d : Discovery) (a : ChainAnswer) : State :=
  match d with
  | .clearing _ => s.discover 0
  | .polling u =>
    (s.setUnit u { s.unitAt u with state := discoveredState a, lastPoll := s.clockSec }).discover (u + 1)

/-- An exchange of power-on has got no answer (R9, R202): CHAIN CLEAR is sent a second time; a unit stays ABSENT. -/
def State.discoveryFailed (s : State) (d : Discovery) : State :=
  match d with
  | .clearing false =>
    (s.setChain { s.chain with discovery := some (.clearing true) }).startExchange .chainClear
  | .clearing true => s.discover 0
  | .polling u => (s.stampPoll u).discover (u + 1)

/-! ## The end of the exchange on the chain -/

/-- The requester is handed the content of an answer (R4). -/
def State.handAnswer (s : State) (r : ChainRequest) (a : ChainAnswer) : State :=
  match r with
  | .operate p => s.operateEnded p true
  | .release p => s.releaseEnded p true
  | .readLine p => s.readLineEnded p (some a.buses)
  | .poll u => s.pollAnswered u a
  | .chainClear => s

/-- The requester is handed NO_ANSWER (R5, R6). -/
def State.handNoAnswer (s : State) (r : ChainRequest) : State :=
  match r with
  | .operate p => s.operateEnded p false
  | .release p => s.releaseEnded p false
  | .readLine p => s.readLineEnded p none
  | .poll u => s.pollFailed u
  | .chainClear => s

/-- The error of an exchange without an answer, with its unit DOWN (R5, R6). The ERROR report is posted ahead of the UNIT_CHANGE, though no rule
fixes the order of the two (DESIGN CHOICE, unsafe, log 44). -/
def State.chainError (s : State) (r : ChainRequest) (stuck : Bool) : State :=
  let s := s.capture (if stuck then .chainStuck r.kind r.unit else .chainNoAnswer r.kind r.unit)
  match r.unit with
  | some u => s.changeUnit u .down
  | none => s

/-- The exchange on the chain ends NO_ANSWER, silent or stuck (R5, R6, R9, R12, R202). Whether its request was acted on is open in both cases
(R18, DESIGN CHOICE, safe, log 8). -/
def State.noAnswer (s : State) (e : Exchange) (stuck : Bool) : State :=
  let s := s.unitMayAct e.request
  match s.chain.discovery with
  | some d =>
    let s := s.freeChain
    match d, stuck with
    | .polling _, false => s.discoveryFailed d
    | .polling u, true => (s.capture (.chainStuck .poll (some u))).discoveryFailed d
    | .clearing _, _ =>
      (s.capture (if stuck then .chainStuck .chainClear none else .chainNoAnswer .chainClear none)).discoveryFailed d
  | none => ((s.freeChain.chainError e.request stuck).handNoAnswer e.request).pump

/-- The exchange on the chain ends ANSWERED (R4). -/
def State.answered (s : State) (e : Exchange) (a : ChainAnswer) : State :=
  let s := (s.unitActs e.request).freeChain
  match s.chain.discovery with
  | some d => s.discoveryAnswered d a
  | none => (s.handAnswer e.request a).pump

end Sys2Proof.Machine
end

