-- ==== Sys2Proof/Machine/Operands.lean ====
section
/-! DEFINITION. The operand forms of the commands: straps (R201, R137), the order record and its checks (R108 to R110, section 12.4), the
settings with their clamps (R105, R172, R203), the fields of the other desk commands (R210). -/

namespace Sys2Proof.Machine

/-- An event or command whose operands have not the form of its row stops with a fault (DESIGN CHOICE, safe, log 25); otherwise it has the given effect. -/
def formed (mnemonic : String) (ok : Bool) (s : State) : Out :=
  if ok then .next s else .fault (.illFormed mnemonic)

/-! ## Straps (R201, R137) -/

/-- The number of the lowest-numbered fitted position of a group; 0 when none is fitted (R201). -/
def strapValue {w : Nat} (mask : BitVec w) : Nat := ((List.range w).find? (fun i => mask.getLsbD i)).getD 0

/-- The strap values in force: bus and unit counts are the strapped value plus 1, and the home range is shortened at unit 63 (R201,
R137). -/
def Straps.ofMasks (m : StrapMasks) : Straps where
  station := strapValue m.station
  buses := strapValue m.buses + 1
  base := strapValue m.baseUnit
  units := min (strapValue m.units + 1) (64 - strapValue m.baseUnit)

/-! ## The order record (R108 to R110) -/

/-- The step kind a code names (section 12.1). -/
def stepKindOf : Nat → Option StepKind
  | 1 => some .connect
  | 2 => some .foreign
  | 3 => some .resist
  | 4 => some .capacity
  | 5 => some .verdict
  | 6 => some .hold
  | 7 => some .release
  | _ => none

/-- A measuring step (R108). -/
def StepKind.measures (k : StepKind) : Bool := k == .foreign || k == .resist || k == .capacity

/-- The step entries within the count; those beyond it are not examined (section 12.4). -/
def examined (o : OrderRecord) : List StepEntry := o.entries.take o.count

/-- A step from its entry. -/
def stepOf (e : StepEntry) : Option Step :=
  (stepKindOf e.kind).map (fun k => { kind := k, marked := e.mark != 0, seconds := if k = .hold then e.seconds else 0 })

/-- The steps of an order record, if every kind within the count is one of the seven. -/
def stepsOf (o : OrderRecord) : Option (List Step) := (examined o).mapM stepOf

/-- The urgency of an order record: DEMAND or PRIORITY (section 12.4). -/
def orderUrgency (o : OrderRecord) : Option Urgency :=
  match o.urgency with
  | 1 => some .demand
  | 2 => some .priority
  | _ => none

/-- The fields of an order are in range (R109, BAD_ARGUMENT). -/
def fieldsOk (o : OrderRecord) (buses : Nat) : Bool :=
  o.tag != 0 && decide (o.line ≤ 16383) && (orderUrgency o).isSome && (o.busPref == 255 || decide (o.busPref < buses))
    && (examined o).all (fun e => e.kind != 6 || (decide (1 ≤ e.seconds) && decide (e.seconds ≤ 600)))

/-- No step follows a RELEASE. -/
def releaseLast : List Step → Bool
  | [] => true
  | x :: rest => (x.kind != .release || rest.isEmpty) && releaseLast rest

/-- At least one measuring step stands before every VERDICT; the flag says one has stood already. -/
def verdictsMeasured : Bool → List Step → Bool
  | _, [] => true
  | m, x :: rest => (x.kind != .verdict || m) && verdictsMeasured (m || x.kind.measures) rest

/-- The step list keeps the rules of an order (R109, BAD_ORDER). -/
def stepsOk (steps : List Step) : Bool :=
  match steps with
  | [] => false
  | first :: rest =>
    first.kind == .connect && !first.marked && rest.all (fun x => x.kind != .connect) && releaseLast steps
      && verdictsMeasured false steps

/-- The steps of an order record that keeps the rules of an order (R109). -/
def goodSteps (o : OrderRecord) : Option (List Step) :=
  if 1 ≤ o.count ∧ o.count ≤ 12 then
    match stepsOf o with
    | some steps => if stepsOk steps then some steps else none
    | none => none
  else none

/-- A RELEASE step is added at the end of a list without one (R110). -/
def withRelease (steps : List Step) : List Step :=
  if steps.getLast?.any (fun x => x.kind == .release) then steps
  else steps ++ [{ kind := .release, marked := false, seconds := 0 }]

/-- The order kept when a record is accepted, its voltage clamped, with its submission time (R108, R110). -/
def acceptedOrder (o : OrderRecord) (u : Urgency) (steps : List Step) (clock : Nat) : Order where
  tag := o.tag
  line := o.line
  urgency := u
  pref := if o.busPref = 255 then none else some o.busPref
  volts := max 10 (min 100 o.volts)
  steps := withRelease steps
  submitted := clock

/-- The order queue after an order is accepted (R111): a PRIORITY order behind the last queued PRIORITY order, a DEMAND order at the back. -/
def insertOrder (q : List QueuedOrder) (o : Order) : List QueuedOrder :=
  if o.urgency = .priority then
    q.takeWhile (fun x => x.order.urgency == .priority) ++ { order := o, waiting := none }
      :: q.dropWhile (fun x => x.order.urgency == .priority)
  else q ++ [{ order := o, waiting := none }]

/-! ## Settings (R105, R115, R126, R172, R174, R203) -/

/-- A value outside its range is clamped to the nearer end. -/
def clamp (low high n : Nat) : Nat := max low (min high n)

/-- The open threshold in force (R172). -/
def openInForce (r : SettingsRecord) : Nat := clamp 1 255 r.openLevel

/-- The clear level in force, clamped after the open threshold (R172). -/
def clearInForce (r : SettingsRecord) : Nat := min (clamp 0 254 r.clearLevel) (openInForce r - 1)

/-- The settings in force after LOAD SETTINGS (R203). -/
def Settings.ofRecord (r : SettingsRecord) : Settings where
  foreign := clamp 1000 50000 r.foreign
  loop := clamp 100 10000 r.loop
  ground := clamp 1000 500000 r.ground
  insulation := clamp 100000 50000000 r.insulation
  imbalance := clamp 10 95 r.imbalance
  gauge := r.gauge.map (clamp 20000 80000)
  accessWait := clamp 1 300 r.accessWait
  suspend := clamp 10 600 r.suspend
  decay := clamp 1 1440 r.decay
  openLevel := openInForce r
  clearLevel := clearInForce r
  clearHold := clamp 10 10080 r.clearHold
  retest := clamp 1 1440 r.retest
  guard := clamp 10 600 r.guard

/-- The unit table with the gauge indexes of LOAD SETTINGS, each clamped to 3 (R203, R210). -/
def withGauges (units : List UnitEntry) (idx : List Nat) : List UnitEntry :=
  List.zipWith (fun u g => { u with gauge := min 3 g }) units idx

/-! ## Other commands -/

/-- A byte read as an on or off option (R210). -/
def onByte (n : Nat) : Bool := n != 0

/-- The start line a SWEEP START names, 65,535 standing for none (R209). -/
def startLine (r : SweepStartRecord) : Option Nat := if r.start = 65535 then none else some r.start

/-- The sweep interval a SWEEP START names, clamped to 1 to 3,600 s; 65,535 stands for none (R175, R209). -/
def startInterval (r : SweepStartRecord) : Option Nat :=
  if r.interval = 65535 then none else some (clamp 1 3600 r.interval)

/-- A sweep class may be given (R138, R147). -/
def classOk (repetition offset : Nat) : Bool :=
  if repetition = 0 then offset == 0
  else [1, 2, 4, 8, 16, 32, 64].contains repetition && decide (offset < repetition)

end Sys2Proof.Machine
end

