-- ==== Sys2Proof/Machine/ChainCommands.lean ====
section
/-! DEFINITION. The events of the drive chain (Chapter 1): answers, timeouts, polling points, settles and release retries. An event that
nothing in the present state awaits changes nothing (DESIGN CHOICE, safe, log 3). -/

namespace Sys2Proof.Machine

/-- EXCHANGE_ANSWERED (R4): the exchange on the chain ends ANSWERED, its content goes to its requester and the arbiter grants. -/
def execExchangeAnswered (answer : ChainAnswer) (s : State) : Out :=
  match s.chain.exchange with
  | some e => if s.time.now ≤ e.lastAnswer then .next (s.answered e answer) else .next s
  | none => .next s

/-- ANSWER_BEGINS (R4): the answer begins within 5 ms of the request, and is to end within 30 ms of this moment. -/
def execAnswerBegins (s : State) : Out :=
  match s.chain.exchange with
  | some e =>
    if !e.begun ∧ s.time.now ≤ e.limit then
      .next (s.setChain { s.chain with exchange := some { e with begun := true, limit := s.time.now + ms 30 } })
    else .next s
  | none => .next s

/-- ANSWER_START_TIMEOUT (R5): no answer has begun within 5 ms. -/
def execAnswerStartTimeout (s : State) : Out :=
  match s.chain.exchange with
  | some e => if e.begun then .next s else .next ((s.passTo e.limit).noAnswer e false)
  | none => .next s

/-- ANSWER_END_TIMEOUT (R6): an answer that has begun has not ended within 30 ms. -/
def execAnswerEndTimeout (s : State) : Out :=
  match s.chain.exchange with
  | some e => if e.begun then .next ((s.passTo e.limit).noAnswer e true) else .next s
  | none => .next s

/-- The present unit that a polling point visits: the first after the pointer, wrapping from the highest to the lowest (R10). -/
def nextUnit (units : List UnitEntry) (pointer : Nat) : Option Nat :=
  ((List.range Config.unitCount).map (fun i => (pointer + 1 + i) % Config.unitCount)).find?
    (fun u => (units.getD u UnitEntry.powerOn).state != .absent)

/-- A POLL is requested at a polling point, and the pointer moves to its unit (R10). -/
def State.pollNext (s : State) : State :=
  if s.chain.polling && !s.pollPending then
    match nextUnit s.chain.units s.chain.pollPointer with
    | some u => ((s.setChain { s.chain with pollPointer := u }).askPoll u).pump
    | none => s
  else s

/-- POLLING_POINT (R10). Polling points fall every 250 ms from the end of discovery, or from a restart (R12). -/
def execPollingPoint (s : State) : Out :=
  if s.chain.discovery.isSome then .next s
  else
    let s := s.passTo s.chain.nextPoll
    .next (s.setChain { s.chain with nextPoll := s.chain.nextPoll + ms 250 }).pollNext

/-- The operation whose settle runs, of those a test picks, with the moment its settle ends. -/
def State.settlingOp (s : State) (p : ChainOp → Bool) : Option (ChainOp × Nat) :=
  s.chain.ops.findSome? (fun o =>
    match o.stage with
    | .settling t => if p o then some (o, t) else none
    | _ => none)

/-- A settle has ended: the READ LINE of the attempt is requested (R14, R16). -/
def State.settleOver (s : State) (o : ChainOp) (t : Nat) : State :=
  (((s.passTo t).putOp { o with stage := .reading }).ask (.readLine o.pair)).pump

/-- CONNECT_SETTLE_END (R14). -/
def execConnectSettleEnd (s : State) : Out :=
  match s.settlingOp (fun o => o.kind == .connect) with
  | some (o, t) => .next (s.settleOver o t)
  | none => .next s

/-- RELEASE_SETTLE_END (R16). -/
def execReleaseSettleEnd (bus : Nat) (s : State) : Out :=
  formed "RELEASE_SETTLE_END" (Instr.releaseSettleEnd bus).wellFormed <|
    match s.settlingOp (fun o => o.kind != .connect && o.pair.bus == bus) with
    | some (o, t) => s.settleOver o t
    | none => s

/-- RELEASE_RETRY (R17): a single release attempt is made for the STUCK claim of a bus. -/
def execReleaseRetry (bus : Nat) (s : State) : Out :=
  formed "RELEASE_RETRY" (Instr.releaseRetry bus).wellFormed <|
    match s.ownAt bus with
    | some c =>
      if c.state = .stuck ∧ (s.opOf { bus := bus, line := c.line }).isNone then
        ((s.passTo c.retryAt).startRelease { bus := bus, line := c.line } .retry 1).pump
      else s
    | none => s

end Sys2Proof.Machine
end

