-- ==== Sys2Proof/Machine/HeardNotices.lean ====
section
/-! DEFINITION. A heard notice (sections 2.5, 2.6, Chapter 3): what it does to the own claims, the PEER entries, the line records and the
foreign ticket cache, the filter, and a clash. -/

namespace Sys2Proof.Machine

/-! ## Awaited entries and disturbance records (R42, R44, R52) -/

/-- A PEER entry or an awaited entry lasts 3,000 ms from the notice that set it (R57, R58). -/
def State.peerExpiry (s : State) : Nat := s.time.now + ms 3000

/-- The awaited list names a station and pair. -/
def awaits (c : OwnClaim) (station : Nat) (p : Pair) : Bool :=
  c.awaited.any (fun a => a.station == station && a.pair == p)

/-- A station and pair join an awaited list, or have their expiry refreshed there (R42, R44). -/
def OwnClaim.await (c : OwnClaim) (station : Nat) (p : Pair) (expiry : Nat) : OwnClaim :=
  if awaits c station p then
    { c with
      awaited := c.awaited.map (fun a => if a.station = station ∧ a.pair = p then { a with expiry := expiry } else a) }
  else { c with awaited := c.awaited ++ [{ station := station, pair := p, expiry := expiry }] }

/-- An awaited list without a station and pair. -/
def OwnClaim.unawait (c : OwnClaim) (station : Nat) (p : Pair) : OwnClaim :=
  { c with awaited := c.awaited.filter (fun a => !(a.station == station && a.pair == p)) }

/-- An awaited entry has left the list of the claim on a bus (R44): in AWAIT_YIELD with the list empty, the claim becomes HELD once its 40 ms
have passed, and CONTEST for the rest of its window before that. -/
def State.awaitedLeft (s : State) (bus : Nat) : State :=
  match s.ownAt bus with
  | some c =>
    if c.state = .awaitYield ∧ c.awaited = [] then
      if c.sentAt + ms 40 ≤ s.time.now then s.becomeHeld bus
      else s.updateOwn bus (fun c => { c with state := .contest })
    else s
  | none => s

/-- A disturbance record of the claim on a bus ends (R52): when it was the last, the job is handed UNDISTURBED. -/
def State.endDisturbance (s : State) (bus station : Nat) (p : Pair) : State :=
  match s.ownAt bus with
  | some c =>
    let kept := c.disturbances.filter (fun d => !(d.station == station && d.pair == p))
    if kept.length < c.disturbances.length then
      let s := s.updateOwn bus (fun c => { c with disturbances := kept })
      if kept.isEmpty then s.handUndisturbed else s
    else s
  | none => s

/-! ## A heard CLAIM or HOLD and one own claim (R42 to R44, R49 to R53) -/

/-- The job that holds a pair ends for a cause taken from its claim (R50, R51, R125). -/
def State.takeFromJob (s : State) (p : Pair) (status : EndStatus) : State :=
  match s.slotOf p with
  | some id => s.abandon id status (status == .accessLost)
  | none => s.claimReleasing p.bus

/-- A heard CLAIM that conflicts with the OWN entry of a bus (R42, R43, R44, R49, R50, DEDUCED, unsafe, log 31). -/
def State.claimMeets (s : State) (c : OwnClaim) (bus station : Nat) (u : Urgency) (p : Pair) : State :=
  let mine : Pair := { bus := bus, line := c.line }
  let wins := precedes u station c.urgency s.straps.station
  if c.withdrawn then s
  else
    match c.state with
    | .sending => if wins then s.defeatSending else s
    | .contest => if wins then s.loseClaim else s
    | .awaitYield =>
      if awaits c station p then s.updateOwn bus (fun c => c.await station p s.peerExpiry)
      else if wins then s.loseClaim
      else s
    | .held =>
      if c.urgency = .routine ∧ u ≠ .routine then s.takeFromJob mine .yielded else s.assertHold c.urgency mine
    | _ => s.assertHold c.urgency mine

/-- A double hold (R51, R52): lost, the claim releases and its job is handed ACCESS_LOST; won, a disturbance record is made and its job is
handed DISTURBED. A HOLD whose record stands changes nothing. -/
def State.doubleHold (s : State) (c : OwnClaim) (bus station : Nat) (u : Urgency) (p : Pair) : State :=
  let mine : Pair := { bus := bus, line := c.line }
  if c.disturbances.any (fun d => d.station == station && d.pair == p) then s
  else if precedes c.urgency s.straps.station u station then
    (s.updateOwn bus (fun c =>
        { c with
          disturbances :=
            c.disturbances ++ [{ station := station, pair := p, deadline := s.time.now + ms 500 }] })).handDisturbed
      mine
  else s.takeFromJob mine .accessLost

/-- A heard HOLD that conflicts with the OWN entry of a bus (R42, R43, R44, R51, R53). -/
def State.holdMeets (s : State) (c : OwnClaim) (bus station : Nat) (u : Urgency) (p : Pair) : State :=
  let yields := u = .routine ∧ c.urgency ≠ .routine
  if c.withdrawn then s
  else
    match c.state with
    | .sending =>
      if yields then s.updateOwn bus (fun c => c.await station p s.peerExpiry) else s.defeatSending
    | .contest =>
      if yields then
        s.updateOwn bus (fun c =>
          { c.await station p s.peerExpiry with state := .awaitYield, limit := s.time.now + ms 2000 })
      else s.loseClaim
    | .awaitYield =>
      if awaits c station p ∨ yields then s.updateOwn bus (fun c => c.await station p s.peerExpiry) else s.loseClaim
    | .held => s.doubleHold c bus station u p
    | _ => s

/-- A heard CLAIM or HOLD is offered to each OWN entry it conflicts with (R49, R56), by rising bus (DESIGN CHOICE, unsafe, log 36). -/
def State.ownRules (s : State) (meet : State → OwnClaim → Nat → State) (p : Pair) : State :=
  (List.range s.claims.entries.length).foldl
    (fun s b =>
      match s.entryAt b with
      | .own c => if conflicts p b (.own c) then meet s c b else s
      | _ => s)
    s

/-- A heard CLAIM or HOLD is taken into the PEER entries unless an OWN entry still conflicts with its pair (R56, R57, R58). -/
def State.bookClaim (s : State) (h : HeardClaim) : State :=
  if ownConflict h.pair s.claims.entries then s
  else s.setClaims { s.claims with entries := hearClaim h s.peerExpiry s.claims.entries }

/-- A heard RELEASE acts on the awaited list and the disturbance records of each own claim, and on the PEER entry it names (R42, R44, R52,
R59); one naming a bus without an entry has no effect (R38). -/
def State.hearReleaseOf (s : State) (station : Nat) (p : Pair) : State :=
  if s.claims.entries.length ≤ p.bus then s
  else
    let s := (List.range s.claims.entries.length).foldl
      (fun s b =>
        match s.ownAt b with
        | some c =>
          let s :=
            if awaits c station p then (s.updateOwn b (fun c => c.unawait station p)).awaitedLeft b else s
          s.endDisturbance b station p
        | none => s)
      s
    s.setClaims { s.claims with entries := hearRelease station p s.claims.entries }

/-- One renewal HOLD is offered for each OWN entry in HELD, RELEASING or STUCK (R48), by rising bus (DESIGN CHOICE, unsafe, log 36). -/
def State.answerAnnounce (s : State) : State :=
  (List.range s.claims.entries.length).foldl
    (fun s b =>
      match s.ownAt b with
      | some c =>
        if c.state = .held ∨ c.state = .releasing ∨ c.state = .stuck then
          s.offerRenewal c.urgency { bus := b, line := c.line }
        else s
      | none => s)
    s

/-! ## Handing a notice on (R33, R197) -/

/-- A VERDICT notice for a home line is applied (R139, R141). -/
def State.hearVerdict (s : State) (station line : Nat) (v : Verdict) (kohm : Nat) : State :=
  if s.isHome line then
    s.applyVerdict
      { line := line, verdict := v, tester := station, worst := some (worstOfKohm kohm), length := none }
  else s

/-- A TICKET notice for a line outside the home range goes to the foreign ticket cache (R170). -/
def State.hearTicket (s : State) (ident line : Nat) (st : TicketState) : State :=
  if s.isHome line then s
  else
    s.setTickets
      { s.tickets with
        cache := cacheHear s.tickets.cache { ident := ident, line := line, state := st, heardAt := s.clockSec } }

/-- A notice is handed on to the block it concerns (R33). -/
def State.handOn (s : State) (station : Nat) (n : Notice) : State :=
  match n with
  | .announce => s.answerAnnounce
  | .claim u p =>
    (s.ownRules (fun s c b => s.claimMeets c b station u p) p).bookClaim
      { station := station, urgency := u, pair := p, firm := false }
  | .hold u p _ =>
    (s.ownRules (fun s c b => s.holdMeets c b station u p) p).bookClaim
      { station := station, urgency := u, pair := p, firm := true }
  | .release p => s.hearReleaseOf station p
  | .verdict l v k => s.hearVerdict station l v k
  | .ticket i l st _ => s.hearTicket i l st

/-- A notice passes the heard-notice filter (R197). -/
def HeardFilter.passes (f : HeardFilter) (n : Notice) : Bool :=
  f.accept.getD (n.kind.code - 1) false &&
    match n.line with
    | none => true
    | some l => (BitVec.ofNat 14 l &&& f.mask) == (f.value &&& f.mask)

/-- A notice that passes the filter is posted as a HEARD report with its bytes 0 to 7 (R197, R208). -/
def State.filterNotice (s : State) (n : Notice) (bytes : List Byte) : State :=
  if s.reports.filter.passes n then s.post (.heard (bytes.take 8)) else s

/-- A clash (R35, R37, R202): marked in power-on and RESETTING, discarded in ISOLATED, and otherwise captured, the station becoming
ISOLATED. -/
def State.clash (s : State) (k : NoticeKind) : State :=
  match s.claims.station with
  | .discovering => s.setClaims { s.claims with clashMark := some (s.claims.clashMark.getD k) }
  | .resetting => s.setClaims { s.claims with clashMark := some (s.claims.clashMark.getD k) }
  | .isolated => s
  | _ => (s.capture (.stationClash k)).isolate

/-- A waiting claim is tested again if the claim table has changed since an earlier moment (R41). -/
def State.testIfChanged (s before : State) : State :=
  if s.claims.entries = before.claims.entries then s else s.claimTest

/-- The ten bytes of another station's notice (R25, R26, R33, R35): check, sense, clash, blocks, filter (DESIGN CHOICE, unsafe, log 20). -/
def State.takeNotice (s : State) (bytes : List Byte) : State :=
  if !checkAgrees bytes then s.capture (.noticeCheck none)
  else
    match readNotice bytes with
    | none => s.capture (.noticeCheck (some (kindCode bytes)))
    | some n =>
      if sourceOf bytes = s.straps.station then s.clash n.kind
      else ((s.handOn (sourceOf bytes) n).filterNotice n bytes).testIfChanged s

end Sys2Proof.Machine
end

