-- ==== Sys2Proof/Machine/ClaimCommands.lean ====
section
/-! DEFINITION. The timed events of the claims (Chapter 3): the contest window, the AWAIT_YIELD limit, expiries, renewals, disturbance
deadlines and the join period. An event that nothing in the present state awaits changes nothing (DESIGN CHOICE, safe, log 3). -/

namespace Sys2Proof.Machine

/-- The bus and the OWN entry of the claim in the making, once it has taken a pair (R40). -/
def State.placedClaim (s : State) : Option (Nat × OwnClaim) :=
  match s.claims.opening with
  | some o => o.placed.bind (fun b => (s.ownAt b).map (fun c => (b, c)))
  | none => none

/-- CONTEST_WINDOW_END (R43): 40 ms after its CLAIM was SENT, a claim still in CONTEST becomes HELD. -/
def execContestWindowEnd (s : State) : Out :=
  match s.placedClaim with
  | some (b, c) =>
    match c.state with
    | .contest => .next ((s.passTo (c.sentAt + ms 40)).becomeHeld b).pump
    | .awaitYield => .next (s.passTo (c.sentAt + ms 40))
    | _ => .next s
  | none => .next s

/-- AWAIT_YIELD_LIMIT (R44): the limit passes with the awaited list not empty, and the claim is lost (R45); no test of it follows (DEDUCED, unsafe, log 10). -/
def execAwaitYieldLimit (s : State) : Out :=
  match s.placedClaim with
  | some (_, c) =>
    if c.state = .awaitYield ∧ c.awaited ≠ [] then .next (s.passTo c.limit).loseClaim else .next s
  | none => .next s

/-- The earliest of a list of awaited entries, the first among equals. -/
def earliestAwaited (xs : List Awaited) : Option Awaited :=
  xs.foldl
    (fun best a =>
      match best with
      | none => some a
      | some b => if a.expiry < b.expiry then some a else some b)
    none

/-- AWAITED_ENTRY_EXPIRY (R44, R60): the awaited entry leaves as if its RELEASE had been heard, and PEER_LAPSED is posted. -/
def execAwaitedEntryExpiry (bus : Nat) (s : State) : Out :=
  formed "AWAITED_ENTRY_EXPIRY" (Instr.awaitedEntryExpiry bus).wellFormed <|
    match s.ownAt bus with
    | some c =>
      match earliestAwaited c.awaited with
      | some a =>
        (((((s.passTo a.expiry).updateOwn bus (fun c => c.unawait a.station a.pair)).post
          (.peerLapsed a.station a.pair.bus a.pair.line))).awaitedLeft bus).pump
      | none => s
    | none => s

/-- HOLD_INTERVAL (R47): a renewal HOLD is offered, and the next is due 1,000 ms after this one was. -/
def execHoldInterval (bus : Nat) (s : State) : Out :=
  formed "HOLD_INTERVAL" (Instr.holdInterval bus).wellFormed <|
    match s.ownAt bus with
    | some c =>
      if c.state = .held ∨ c.state = .releasing ∨ c.state = .stuck then
        (((s.passTo c.renewAt).updateOwn bus (fun c => { c with renewAt := c.renewAt + ms 1000 })).offerRenewal
          c.urgency { bus := bus, line := c.line })
      else s
    | none => s

/-- The earliest of a list of disturbance records, the first among equals. -/
def earliestDisturbance (xs : List Disturbance) : Option Disturbance :=
  xs.foldl
    (fun best d =>
      match best with
      | none => some d
      | some b => if d.deadline < b.deadline then some d else some b)
    none

/-- DISTURBANCE_DEADLINE (R52): the record's 500 ms have passed and it ends. -/
def execDisturbanceDeadline (bus : Nat) (s : State) : Out :=
  formed "DISTURBANCE_DEADLINE" (Instr.disturbanceDeadline bus).wellFormed <|
    match s.ownAt bus with
    | some c =>
      match earliestDisturbance c.disturbances with
      | some d => (s.passTo d.deadline).endDisturbance bus d.station d.pair
      | none => s
    | none => s

/-- PEER_ENTRY_EXPIRY (R60): the entry is removed, PEER_LAPSED is posted, and a waiting claim is tested (R41). -/
def execPeerEntryExpiry (bus : Nat) (s : State) : Out :=
  formed "PEER_ENTRY_EXPIRY" (Instr.peerEntryExpiry bus).wellFormed <|
    match s.entryAt bus with
    | .peer c =>
      (((s.passTo c.expiry).setEntry bus .free).post (.peerLapsed c.station bus c.line)).claimTest
    | _ => s

/-- JOIN_PERIOD_END (R61): the station becomes ACTIVE. -/
def execJoinPeriodEnd (s : State) : Out :=
  match s.claims.joinUntil with
  | some t =>
    if s.claims.station = .joining then
      let s := s.passTo t
      .next (s.setClaims { s.claims with station := .active, joinUntil := none })
    else .next s
  | none => .next s

end Sys2Proof.Machine
end

