-- ==== Sys2Proof/Machine/HeadCommands.lean ====
section
/-! DEFINITION. The timed events of the measurement head (Chapter 4): connection, stages, discharge, relay release. An event that nothing in
the present state awaits changes nothing (DESIGN CHOICE, safe, log 3). -/

namespace Sys2Proof.Machine

/-- The sequencer is told that the stage it offered is done (R119): after an inserted FOREIGN the refused stage is offered again, and
otherwise the step is finished. -/
def State.stageDone (s : State) (foreign : Bool) : State :=
  match s.seq.active with
  | .job j =>
    if j.phase ≠ .running then s
    else if foreign && j.inserted then (s.updateJob .active (fun j => { j with inserted := false })).offerStage
    else s.finishStep
  | _ => s

/-- The head is connected: ON_BUS with the source DISCONNECTED, the shunt off and the foreign-clear and hazard-found marks clear (R66). -/
def State.headOnBus (s : State) : State :=
  s.setHead
    { s.head with
      state := .onBus
      source := .disconnected
      shunt := false
      foreignClear := false
      hazardFound := false
      activity := .idle }

/-- The sequencer is told CONNECTED (R118): CONNECT is finished and the job becomes RUNNING at step 2. -/
def State.connectedAtHead (s : State) : State :=
  match s.seq.active with
  | .job j => if j.phase = .ready then (s.updateJob .active (fun j => { j with phase := .running })).finishStep else s
  | _ => s

/-- HEAD_CONNECTED (R66): 25 ms after the head connect was taken. -/
def execHeadConnected (s : State) : Out :=
  if s.head.activity = .connecting then .next (s.passTo s.head.until_).headOnBus.connectedAtHead.pump
  else .next s

/-- The FOREIGN readings of a stage from the voltages met at its sample instants (R70, R72, R73, R88, R89). -/
def foreignReadings (tg rg tr : List Int) : ForeignReadings :=
  let a := recordRun Config.voltageMax tg
  let b := recordRun Config.voltageMax rg
  let c := recordRun Config.voltageMax tr
  let v := reduceForeign a b c
  { values := v
    samplesTG := a
    samplesRG := b
    samplesTR := c
    tripped := trippedPairs v a b c
    overrange := runOver Config.voltageMax a || runOver Config.voltageMax b || runOver Config.voltageMax c }

/-- A FOREIGN stage ends (R72, R73): its readings are held, and the foreign-clear or the hazard-found mark is set. -/
def State.foreignEnds (s : State) (r : ForeignReadings) : State :=
  let s := s.setHead
    { s.head with
      state := .onBus
      activity := .idle
      heldForeign := some r
      foreignClear := !r.tripped.any
      hazardFound := s.head.hazardFound || r.tripped.any
      work := StageWork.none }
  if r.tripped.any then s.hazardFound (.foreign r.tripped) else s.stageDone true

/-- FOREIGN_STAGE_END (R72): 40 ms of sampling are over. -/
def execForeignStageEnd (tg rg tr : List Int) (s : State) : Out :=
  formed "FOREIGN_STAGE_END" (Instr.foreignStageEnd tg rg tr).wellFormed <|
    if s.head.activity = .sampling then ((s.passTo s.head.until_).foreignEnds (foreignReadings tg rg tr)).pump else s

/-- The OFF phase found a hazard (R76). -/
def State.offHazard (s : State) (config : HeadConfig) (mv : Int) : State :=
  (s.setHead
    { s.head with
      state := .onBus
      source := .disconnected
      config := none
      foreignClear := false
      hazardFound := true
      activity := .idle
      work := StageWork.none }).hazardFound (.resist config mv)

/-- The OFF phase found the line safe (R75): the source goes ON under R69 and the line settles for 50 ms. -/
def State.offSafe (s : State) (off : Int × Int) (past : Bool) : State :=
  if s.sourceMayGoOn then
    s.setHead
      { s.head with
        source := .on
        activity := .resistSettle
        until_ := s.time.now + ms 50
        work :=
          { s.head.work with off := some off, overrange := s.head.work.overrange || past, wasOn := true } }
  else s.stopStage

/-- RESIST_OFF_PHASE_END (R75, R76): the OFF readings are formed and the OFF lead voltage is tested for hazard. -/
def execResistOffPhaseEnd (current voltage : List Int) (s : State) : Out :=
  formed "RESIST_OFF_PHASE_END" (Instr.resistOffPhaseEnd current voltage).wellFormed <|
    match s.head.activity, s.head.config with
    | .resistOff, some config =>
      let s := s.passTo s.head.until_
      let i := recordRun Config.currentMax current
      let v := recordRun Config.voltageMax voltage
      if Config.hazardDc < |meanOf v| then (s.offHazard config (meanOf v)).pump
      else s.offSafe (meanOf i, meanOf v) (runOver Config.currentMax i || runOver Config.voltageMax v)
    | _, _ => s

/-- RESIST_SETTLE_END (R75): the 50 ms settle is over and the ON reading begins, 16 ms. -/
def execResistSettleEnd (s : State) : Out :=
  if s.head.activity = .resistSettle then
    let s := s.passTo s.head.until_
    .next (s.setHead { s.head with activity := .resistOn, until_ := s.time.now + ms 16 })
  else .next s

/-- The configuration after this one in a stage (R75, R77). -/
def HeadConfig.succ? : HeadConfig → Option HeadConfig
  | .a => some .b
  | .b => some .c
  | .c => none

/-- The stage goes on with the OFF phase of the next configuration (R75). -/
def State.nextOffPhase (s : State) (config : HeadConfig) (work : StageWork) : State :=
  s.setHead
    { s.head with
      source := .zero
      config := some config
      activity := .resistOff
      until_ := s.time.now + ms 16
      work := work }

/-- A RESIST stage finishes whole (R75). -/
def State.resistEnds (s : State) (r : ResistReadings) : State :=
  (s.setHead
    { s.head with
      state := .onBus
      source := .disconnected
      config := none
      heldResist := some r
      activity := .idle
      work := StageWork.none }).stageDone false

/-- The readings of the three configurations as the RESIST readings. -/
def resistReadings (readings : List ResistReading) (past : Bool) : Option ResistReadings :=
  match readings with
  | [a, b, c] => some { a := a, b := b, c := c, overrange := past }
  | _ => none

/-- RESIST_ON_READING_END (R75): the configuration's reading is whole; the next configuration or the end of the stage follows. -/
def execResistOnReadingEnd (current : List Int) (s : State) : Out :=
  formed "RESIST_ON_READING_END" (Instr.resistOnReadingEnd current).wellFormed <|
    match s.head.activity, s.head.config, s.head.work.off with
    | .resistOn, some config, some off =>
      let s := s.passTo s.head.until_
      let i := recordRun Config.currentMax current
      let readings := s.head.work.resist ++ [{ iOff := off.1, vOff := off.2, iOn := meanOf i }]
      let past := s.head.work.overrange || runOver Config.currentMax i
      match config.succ?, resistReadings readings past with
      | some next, _ =>
        s.nextOffPhase next { s.head.work with off := none, resist := readings, overrange := past }
      | none, some r => (s.resistEnds r).pump
      | none, none => s
    | _, _, _ => s

/-- CAPACITY_RECORD_END (R77): the 256 samples are taken; source to ZERO, shunt applied, 20 ms of drain. -/
def execCapacityRecordEnd (current : List Int) (s : State) : Out :=
  formed "CAPACITY_RECORD_END" (Instr.capacityRecordEnd current).wellFormed <|
    if s.head.activity = .capacityRecord then
      let s := s.passTo s.head.until_
      let i := recordRun Config.currentMax current
      s.setHead
        { s.head with
          source := .zero
          shunt := true
          activity := .capacityDrain
          until_ := s.time.now + ms 20
          work :=
            { s.head.work with
              runs := s.head.work.runs ++ [i]
              overrange := s.head.work.overrange || runOver Config.currentMax i } }
    else s

/-- The runs of the three configurations as the CAPACITY readings. -/
def capacityReadings (runs : List (List Int)) (past : Bool) : Option CapacityReadings :=
  match runs with
  | [a, b, c] => some { a := a, b := b, c := c, overrange := past }
  | _ => none

/-- A CAPACITY stage finishes whole (R77). -/
def State.capacityEnds (s : State) (r : CapacityReadings) : State :=
  (s.setHead
    { s.head with
      state := .onBus
      source := .disconnected
      config := none
      shunt := false
      heldCapacity := some r
      activity := .idle
      work := StageWork.none }).stageDone false

/-- CAPACITY_DRAIN_END (R77): the shunt is removed; the next configuration's step or the end of the stage follows. -/
def execCapacityDrainEnd (s : State) : Out :=
  match s.head.activity, s.head.config with
  | .capacityDrain, some config =>
    let s := s.passTo s.head.until_
    match config.succ?, capacityReadings s.head.work.runs s.head.work.overrange with
    | some next, _ => .next (s.setHead { s.head with shunt := false, config := some next }).capacityStep
    | none, some r => .next (s.capacityEnds r).pump
    | none, none => .next s
  | _, _ => .next s

/-- DISCHARGE_END (R79, R81): the shunt is removed, and the bus relay release follows, or after a disturbance the head is in ON_BUS and a
waiting stage is offered. -/
def execDischargeEnd (s : State) : Out :=
  match s.head.activity with
  | .discharging leave =>
    let s := s.passTo s.head.until_
    if leave then
      .next
        (s.setHead
          { s.head with shunt := false, relay := none, activity := .opening, until_ := s.time.now + ms 5 })
    else .next (s.setHead { s.head with shunt := false, state := .onBus, activity := .idle }).offerStage
  | _ => .next s

/-- HEAD_FREE (R67, R83, R112, R123): the job that released the head goes on to its release at the chain, the slots move, and a READY job
is offered the head. -/
def State.headFree (s : State) : State :=
  match s.seq.active with
  | .job j =>
    if j.phase = .releasing then
      ((s.updateJob .active (fun j => { j with headFreed := true })).releaseAtChain .active).settleSlots
    else s.settleSlots
  | _ => s.settleSlots

/-- BUS_RELAY_OPEN (R67): the contacts are counted open 5 ms after de-energising and the head is OFF_BUS. -/
def execBusRelayOpen (s : State) : Out :=
  if s.head.activity = .opening then
    let s := s.passTo s.head.until_
    .next ((s.setHead Head.offBus).headFree).pump
  else .next s

end Sys2Proof.Machine
end

