-- ==== Sys2Proof/Machine/LineCommands.lean ====
section
/-! DEFINITION. The events of the desk line (Chapter 2): tries, collisions, notices sent and received. An event that nothing in the
present state awaits changes nothing (DESIGN CHOICE, safe, log 3). -/

namespace Sys2Proof.Machine

/-- QUIET_WAIT_END (R21): 16 quiet symbol times have passed and the first try of the notice in flight begins. -/
def execQuietWaitEnd (s : State) : Out :=
  match s.line.flight with
  | some f =>
    if f.phase = .waitQuiet ∧ !s.line.busy ∧ !s.transmitterSilent then
      .next (s.passTo (s.line.endedAt + Config.quietQuanta)).beginTry
    else .next s
  | none => .next s

/-- The backoff of a station after its n-th collision, in symbol times (R23). -/
def backoffSymbols (station n : Nat) : Nat := (station + 1) * 16 + (n - 1) * 256

/-- BACKOFF_END (R23): the backoff, counted from the end of the last line activity, has run out with the line high. -/
def execBackoffEnd (s : State) : Out :=
  match s.line.flight with
  | some f =>
    if f.phase = .backoff ∧ !s.line.busy then
      .next
        (s.passTo
          (s.line.endedAt + backoffSymbols s.straps.station f.collisions * Config.symbolQuanta)).beginTry
    else .next s
  | none => .next s

/-- The OWN entry of a pair left marked withdrawn when its CLAIM could not be stopped (R46). -/
def State.markedEntry (s : State) (p : Pair) : Bool := (s.ownAt p.bus).any (fun c => c.withdrawn && c.line == p.line)

/-- The join period begins, its ANNOUNCE being SENT or DROPPED (R61). -/
def State.beginJoinPeriod (s : State) (tag : TxTag) : State :=
  if tag = .joining ∧ s.claims.station = .joining then
    s.setClaims { s.claims with joinUntil := some (s.time.now + ms 1500) }
  else s

/-- A notice is dropped after its eighth collision (R24, R42, R61). -/
def State.dropped (s : State) (tx : Tx) : State :=
  let s := (s.setLine { s.line with flight := none }).capture (.lineJam tx.notice.kind)
  match tx.notice with
  | .claim _ _ => s.loseClaim.lineMoves
  | .announce => (s.beginJoinPeriod tx.tag).lineMoves
  | _ => s.lineMoves

/-- A withdrawn notice whose try has met a collision leaves flight (R31); a marked entry leaves without a RELEASE (R46). -/
def State.lateWithdrawal (s : State) (tx : Tx) : State :=
  let s := s.setLine { s.line with flight := none }
  match tx.notice with
  | .claim _ p => (if s.markedEntry p then s.leaveEntry p.bus else s).lineMoves
  | _ => s.lineMoves

/-- A try meets a collision (R22, R23, R24, R31). -/
def State.collide (s : State) (f : Flight) : State :=
  if f.withdrawn then s.lateWithdrawal f.tx
  else if 8 ≤ f.collisions + 1 then s.dropped f.tx
  else s.setLine { s.line with flight := some { f with collisions := f.collisions + 1, phase := .backoff } }

/-- COLLISION (R22): the notice in flight is on the line and the level read differs from the level driven. The line stays active until the
activity that follows ends (R23). -/
def execCollision (s : State) : Out :=
  match s.line.flight with
  | some f =>
    match f.phase with
    | .trying _ => .next ((s.collide f).testIfChanged s)
    | _ => .next s
  | none => .next s

/-- The CLAIM of a claim in SENDING has been SENT (R42, R44): the claim's window opens. -/
def State.claimSent (s : State) (p : Pair) : State :=
  match s.ownAt p.bus with
  | some c =>
    if c.line = p.line ∧ c.state = .sending then
      s.updateOwn p.bus (fun c =>
        { c with
          state := if c.awaited = [] then .contest else .awaitYield
          sentAt := s.time.now
          limit := s.time.now + ms 2000 })
    else s
  | none => s

/-- A CLAIM that was withdrawn too late has been SENT: for a marked entry a RELEASE is offered and the entry leaves (R46); for a claim that
was defeated nothing follows, whatever stands in the table by then (R42). The RELEASE is of the reset where the reset withdrew the CLAIM (R63,
DEDUCED, unsafe, log 27). -/
def State.lateSent (s : State) (tag : TxTag) (p : Pair) : State :=
  if s.markedEntry p then (s.offer { notice := .release p, tag := tag }).leaveEntry p.bus else s

/-- A notice has been SENT: out of flight, its source told, the head of the queue in flight (R22, R27). -/
def State.sent (s : State) (f : Flight) : State :=
  let s := s.setLine { s.line with flight := none, busy := false, endedAt := s.time.now }
  match f.tx.notice with
  | .claim _ p => (if f.withdrawn then s.lateSent f.tx.tag p else s.claimSent p).lineMoves
  | .announce => (s.beginJoinPeriod f.tx.tag).lineMoves
  | _ => s.lineMoves

/-- NOTICE_SENT (R22): the final stop symbol of the try has passed without a mismatch, 100 symbol times after its beginning. -/
def execNoticeSent (s : State) : Out :=
  match s.line.flight with
  | some f =>
    match f.phase with
    | .trying since => .next (((s.passTo (since + Config.noticeQuanta)).sent f).testIfChanged s)
    | _ => .next s
  | none => .next s

/-- The notice in flight has a try on the line. -/
def State.onLine (s : State) : Bool :=
  match s.line.flight with
  | some f =>
    match f.phase with
    | .trying _ => true
    | _ => false
  | none => false

/-- Line activity ends now, unless this station's own try is on the line (R20). -/
def State.activityEnds (s : State) : State :=
  if s.onLine then s else s.setLine { s.line with busy := false, endedAt := s.time.now }

/-- RECEPTION_ABANDONED (R20): the line has risen, and nothing is captured or reported (DESIGN CHOICE, unsafe, log 23). It ends a reception, or
activity that began before the line was quiet and was no notice; the count of 16 quiet symbol times, or a backoff, starts again from this end
(R20, R21, R23). -/
def execReceptionAbandoned (s : State) : Out := .next s.activityEnds

/-- NOTICE_RECEIVED (R33): the final stop symbol of another station's notice has passed, 100 symbol times after its start symbol (R19). A notice
whose start symbol was not commanded is taken as heard at the present moment, on any line, and one commanded while this station's own try is on the
line as heard at the end of that try's 100 symbol times, the try going on (R20, DESIGN CHOICE, safe, log 47). -/
def execNoticeReceived (bytes : List Byte) (s : State) : Out :=
  formed "NOTICE_RECEIVED" (Instr.noticeReceived bytes).wellFormed <|
    let s := (if s.line.busy then s.passTo (s.line.startedAt + Config.noticeQuanta) else s).activityEnds
    (s.takeNotice bytes).pump

/-- START_SYMBOL_TAKEN (R20, R21, R23): the line goes low, and a quiet wait or a backoff in hand stands still until this activity ends. A start
symbol comes after 16 quiet symbol times at the earliest; a line that goes low before that carries no notice, and time does not move
(DESIGN CHOICE, unsafe, log 23). -/
def execStartSymbolTaken (s : State) : Out :=
  if s.line.busy then .next s
  else
    .next
      (s.setLine
        { s.line with busy := true, startedAt := max s.time.now (s.line.endedAt + Config.quietQuanta) })

end Sys2Proof.Machine
end

