-- ==== Sys2Proof/Machine/Flags.lean ====
section
/-! DEFINITION. The levels that follow from other state: the critical flag (R196) and the desk interrupt (R200). -/

namespace Sys2Proof.Machine

/-- The critical level is in force: a value from 1 to 64 (R196). -/
def criticalInForce (r : ReportUnit) : Bool := decide (1 ≤ r.critical) && decide (r.critical ≤ Config.reportCap)

/-- The critical flag: the level is in force and the queue holds at least that many reports (R196). -/
def criticalFlag (r : ReportUnit) : Bool := criticalInForce r && decide (r.critical ≤ r.queue.length)

/-- The desk interrupt (R200). -/
def deskInterrupt (s : State) : Bool :=
  !s.seq.completions.isEmpty
    || (if criticalInForce s.reports then criticalFlag s.reports else !s.reports.queue.isEmpty)
    || s.reports.overrun
    || s.reports.first.isSome

end Sys2Proof.Machine
end

