-- ==== Sys2Proof/Machine/Layouts.lean ====
section
/-! DEFINITION. The record layouts of the desk port (R207, R209, R210, sections 12.5 to 12.8). -/

namespace Sys2Proof.Machine

/-- A response record: response code, body length in two bytes, body (R209). -/
def responseBytes (r : Response) (body : List Byte) : List Byte := byte r.code :: bytesOf 2 body.length ++ body

/-- An optional number in k bytes with a stated absent value. -/
def optBytes (k absent : Nat) (x : Option Nat) : List Byte := bytesOf k (x.getD absent)

/-- An optional number with a presence byte before it; absent, its own bytes are 0 (R207). -/
def presentBytes (k : Nat) (x : Option Nat) : List Byte := flagByte x.isSome :: bytesOf k (x.getD 0)

/-- A run of zero bytes. -/
def zeros (k : Nat) : List Byte := List.replicate k 0

/-! ## The completion record (section 12.5) -/

/-- Bytes 7 to 31: the foreign values. -/
def foreignBytes (x : Option ForeignValues) : List Byte :=
  match x with
  | some v =>
    flagByte true :: (signedBytes v.dcTG ++ signedBytes v.dcRG ++ signedBytes v.dcTR
      ++ bytesOf 4 v.acTG ++ bytesOf 4 v.acRG ++ bytesOf 4 v.acTR)
  | none => zeros 25

/-- A reported resistance: its value and its mark. -/
def resistanceBytes (r : Resistance) : List Byte := bytesOf 4 r.ohms ++ [byte r.mark.code]

/-- Bytes 32 to 47: the resistances. -/
def resistBytes (x : Option ResistResults) : List Byte :=
  match x with
  | some r => flagByte true :: (resistanceBytes r.tr ++ resistanceBytes r.tg ++ resistanceBytes r.rg)
  | none => zeros 16

/-- Bytes 48 to 64: capacitances, imbalance and length. -/
def capacityBytes (x : Option CapacityResults) : List Byte :=
  match x with
  | some c =>
    flagByte true :: (bytesOf 4 c.tr ++ bytesOf 4 c.tg ++ bytesOf 4 c.rg ++ [byte c.imbalance]
      ++ presentBytes 2 c.length)
  | none => zeros 13 ++ [byte 255] ++ zeros 3

/-- The pairs that tripped: 1 for T–G, 2 for R–G, 4 for T–R, summed. -/
def Tripped.code (t : Tripped) : Nat := t.tg.toNat + 2 * t.rg.toNat + 4 * t.tr.toNat

/-- Bytes 81 to 87: the hazard detail. -/
def hazardBytes (x : Option HazardDetail) : List Byte :=
  match x with
  | none => zeros 7
  | some (.foreign t) => [byte 1, byte t.code, 0, 0, 0, 0, 0]
  | some (.resist c mv) => [byte 2, 0, byte c.code] ++ signedBytes mv

/-- The code of a verdict; 0 absent. -/
def verdictCode (v : Option Verdict) : Nat := (v.map Verdict.code).getD 0

/-- The completion record, 88 bytes. -/
def completionBytes (c : Completion) : List Byte :=
  bytesOf 2 c.tag ++ [byte c.status.code, byte c.step] ++ optBytes 1 0 c.failing ++ optBytes 1 255 c.bus
    ++ [byte (verdictCode c.verdict)]
    ++ foreignBytes (c.results.bind (·.foreign)) ++ resistBytes (c.results.bind (·.resist))
    ++ capacityBytes (c.results.bind (·.capacity))
    ++ [flagByte (c.results.any (·.overrange)), flagByte c.disturbed] ++ optBytes 2 0 c.ident
    ++ bytesOf 4 c.accessWait ++ bytesOf 4 c.connected ++ bytesOf 4 c.suspended
    ++ hazardBytes c.hazard

/-! ## The report entry (section 12.6) -/

/-- The kind code of a report. -/
def ReportContent.code : ReportContent → Nat
  | .ticketChange _ _ _ _ _ _ => 1
  | .sweepResult _ _ _ _ _ => 2
  | .sweepState _ _ _ _ _ => 3
  | .unitChange _ _ => 4
  | .peerLapsed _ _ _ => 5
  | .heard _ => 6
  | .error _ _ => 7

/-- The three detail bytes of an error. -/
def detailBytes (d : ErrorDetail) : List Byte :=
  match d with
  | .noticeCheck none => [byte 1, 0, 0]
  | .noticeCheck (some k) => [byte 2, byte k, 0]
  | .lineJam k => [byte k.code, 0, 0]
  | .stationClash k => [byte k.code, 0, 0]
  | .chainNoAnswer k u => [byte k.code, byte (u.getD 255), 0]
  | .chainStuck k u => [byte k.code, byte (u.getD 255), 0]
  | .releaseFault u p => [byte u, byte p, 0]
  | .ticketTableFull l => bytesOf 2 l ++ [0]

/-- The eight content bytes of a report. -/
def contentBytes (c : ReportContent) : List Byte :=
  match c with
  | .ticketChange i l b a v cause =>
    bytesOf 2 i ++ bytesOf 2 l ++ [byte ((b.map TicketState.code).getD 0), byte a.code, byte v.code, byte cause.code]
  | .sweepResult l v retest pass i => bytesOf 2 l ++ [byte v.code, flagByte retest] ++ bytesOf 2 pass ++ optBytes 2 0 i
  | .sweepState cause st ptr pass skip =>
    [byte cause.code, byte st.code] ++ bytesOf 2 ptr ++ bytesOf 2 pass ++ bytesOf 2 skip
  | .unitChange u st => [byte u, byte st.code] ++ zeros 6
  | .peerLapsed st b l => [byte st, byte b] ++ bytesOf 2 l ++ zeros 4
  | .heard bytes => bytes
  | .error d first => [byte d.kind.code, flagByte first] ++ detailBytes d ++ zeros 3

/-- A report entry, 15 bytes. -/
def reportBytes (r : Report) : List Byte := byte r.content.code :: bytesOf 6 r.time ++ contentBytes r.content

/-! ## Line record, ticket record, foreign tickets (sections 12.3, 12.7) -/

/-- The form of a worst resistance: 0 absent, 1 value, 2 at or below, 3 OPEN. -/
def worstForm (x : Option Resistance) : Nat :=
  match x with
  | none => 0
  | some r =>
    match r.mark with
    | .none => 1
    | .atOrBelow => 2
    | .openLine => 3

/-- The line record, 28 bytes; the bucket is given decayed to the given minute on a copy (R148). -/
def lineRecordBytes (line : Nat) (r : LineRecord) (minute period : Nat) : List Byte :=
  let b := decayBucket r.level r.stamp minute period
  bytesOf 2 line ++ [flagByte r.tested, byte (verdictCode r.verdict)] ++ optBytes 4 0 r.time ++ optBytes 1 255 r.tester
    ++ [byte (worstForm r.worst)] ++ bytesOf 4 ((r.worst.map (·.ohms)).getD 0)
    ++ presentBytes 2 r.length ++ [byte b.1] ++ bytesOf 4 b.2 ++ optBytes 2 0 r.ticket
    ++ [flagByte r.pending, flagByte r.hazard, byte r.repetition, byte r.offset]

/-- The code of a closing cause: DESK 1, AUTO 2, absent 0. -/
def closingCode (c : Option TicketCause) : Nat :=
  match c with
  | some .desk => 1
  | some .auto => 2
  | _ => 0

/-- A retest due as its four bytes show it; past what they hold, a free value (R171, DESIGN CHOICE, safe, log 37). -/
def shownRetestDue (due : Nat) : Nat :=
  if due ≤ Config.fieldMax then due else (Config.retestDuePastField due).toNat

/-- The ticket record, 25 bytes. -/
def ticketBytes (place count : Nat) (t : Ticket) : List Byte :=
  [byte place, byte count] ++ bytesOf 2 t.ident ++ bytesOf 2 t.line
    ++ [byte t.state.code, byte t.opening.code, byte t.latest.code]
    ++ bytesOf 4 t.openedAt ++ bytesOf 4 t.changedAt ++ bytesOf 2 t.tests ++ presentBytes 4 (t.retestDue.map shownRetestDue)
    ++ [byte (closingCode t.cause)]

/-- One entry of the foreign ticket cache, 10 bytes. -/
def foreignTicketBytes (e : ForeignTicket) : List Byte :=
  bytesOf 2 e.ident ++ bytesOf 2 e.line ++ [byte e.state.code, byte (e.ident / 4096)] ++ bytesOf 4 e.heardAt

/-- The body of READ FOREIGN TICKETS. -/
def cacheBytes (cache : List ForeignTicket) : List Byte := byte cache.length :: cache.flatMap foreignTicketBytes

/-! ## The status snapshot (R193, section 12.8) -/

/-- One unit of the snapshot. -/
def unitBytes (u : UnitEntry) : List Byte := [byte u.state.code, byte u.faults] ++ bytesOf 4 u.lastPoll

/-- One claim table entry of the snapshot. -/
def entryBytes (station : Nat) (e : Entry) : List Byte :=
  match e with
  | .free => zeros 7
  | .own c => [byte 1, byte station] ++ bytesOf 2 c.line ++ [byte c.urgency.code, byte c.state.code, 0]
  | .peer c => [byte 2, byte c.station] ++ bytesOf 2 c.line ++ [byte c.urgency.code, 0, byte (if c.firm then 2 else 1)]

/-- One slot of the snapshot (R136, section 12.8). A job in ACCESS shows no bus until its claim is HELD (DESIGN CHOICE, unsafe, log 41); a
DONE_PENDING slot shows its record's step and bus, and an empty slot step 0 (DESIGN CHOICE, unsafe, log 42). -/
def slotBytes (x : Slot) : List Byte :=
  match x with
  | .empty => zeros 5 ++ [byte 255]
  | .donePending w => byte 1 :: bytesOf 2 w.record.tag ++ [0, byte w.record.step] ++ optBytes 1 255 w.record.bus
  | .job j =>
    byte (if j.sweep.isSome then 3 else 2) :: bytesOf 2 (if j.sweep.isSome then 0 else j.order.tag)
      ++ [byte j.phase.code, byte j.step] ++ optBytes 1 255 j.bus

/-- The settings in force, laid out as the body of LOAD SETTINGS, 107 bytes. -/
def settingsBytes (st : Settings) (units : List UnitEntry) : List Byte :=
  bytesOf 2 st.foreign ++ bytesOf 2 st.loop ++ bytesOf 4 st.ground ++ bytesOf 4 st.insulation ++ [byte st.imbalance]
    ++ st.gauge.flatMap (bytesOf 4) ++ units.map (fun u => byte u.gauge)
    ++ bytesOf 2 st.accessWait ++ bytesOf 2 st.suspend ++ bytesOf 2 st.decay ++ [byte st.openLevel, byte st.clearLevel]
    ++ bytesOf 2 st.clearHold ++ bytesOf 2 st.retest ++ bytesOf 2 st.guard

/-- The kind set as a byte: bit 0 for error kind 1 up to bit 6 for error kind 7. -/
def kindSetCode (ks : List ErrorKind) : Nat := (ks.map (fun k => 2 ^ (k.code - 1))).sum

/-- The first-error record of the snapshot, 11 bytes. -/
def firstErrorBytes (e : Option ErrorRecord) : List Byte :=
  match e with
  | some r => [byte 1, byte r.detail.kind.code] ++ detailBytes r.detail ++ bytesOf 6 r.time
  | none => zeros 11

/-- The status snapshot. -/
def statusBytes (s : State) : List Byte :=
  [byte s.straps.station, byte s.straps.buses, byte s.straps.base, byte s.straps.units, byte s.claims.station.code]
    ++ [flagByte s.chain.polling, byte s.chain.pollPointer] ++ s.chain.units.flatMap unitBytes
    ++ (List.range 4).flatMap (fun b => entryBytes s.straps.station (s.entryAt b))
    ++ [byte s.head.state.code] ++ optBytes 1 255 s.head.bus ++ [byte s.head.source.code]
    ++ slotBytes s.seq.active ++ slotBytes s.seq.staged
    ++ [byte s.seq.queue.length, byte s.seq.completions.length]
    ++ [byte s.sweep.state.code] ++ bytesOf 2 s.sweep.pointer ++ bytesOf 2 s.sweep.pass ++ bytesOf 2 s.sweep.skip
    ++ [flagByte s.sweep.onComplete, flagByte s.sweep.onError, flagByte s.sweep.once]
    ++ bytesOf 2 s.sweep.interval ++ bytesOf 2 s.settings.guard ++ presentBytes 6 s.sweep.due
    ++ optBytes 1 255 s.records.clear
    ++ [byte s.reports.queue.length, byte s.reports.critical, flagByte (criticalFlag s.reports),
      flagByte s.reports.overrun]
    ++ s.reports.filter.accept.map flagByte ++ bytesOf 2 s.reports.filter.value.toNat
    ++ bytesOf 2 s.reports.filter.mask.toNat
    ++ firstErrorBytes s.reports.first ++ [flagByte s.reports.more, byte (kindSetCode s.reports.kinds)]
    ++ bytesOf 6 s.time.clock ++ settingsBytes s.settings s.chain.units

end Sys2Proof.Machine
end

