-- ==== Sys2Proof/Machine/DeskPort.lean ====
section
/-! DEFINITION. The desk port as shared operations (sections 10.1, 10.2): the transaction of a command, the checks of every command, forming
a response; and an event due at a moment of the station clock. The bytes of a transaction are not timed (DESIGN CHOICE, safe, log 24). -/

namespace Sys2Proof.Machine

/-- The response of a command stands at the port, with what its completion removes (R190, R191). -/
def State.answerWith (s : State) (r : Response) (body : List Byte) (reading : Reading) : State :=
  s.setPort (some { response := responseBytes r body, reading := reading, discarded := false })

/-- A response that removes nothing. -/
def State.answer (s : State) (r : Response) (body : List Byte) : State := s.answerWith r body .nothing

/-- A response with an empty body. -/
def State.reply (s : State) (r : Response) : State := s.answer r []

/-- A good command is complete at the port (R190, R192): it is answered BUSY in unit discovery and in RESETTING, and otherwise handed to its
owner. From power-on until unit discovery begins it is answered as in discovery (DESIGN CHOICE, unsafe, log 40). An earlier transaction has ended
with its select (DEDUCED, safe, log 16). -/
def State.desk (s : State) (owner : State → State) : State :=
  let s := s.setPort none
  if s.claims.station = .discovering ∨ s.claims.station = .resetting then s.reply .busy else owner s

/-- An event due at a moment of the station clock happens there (R194): the clock passes to that moment, or has passed it. A moment the
clock never reaches makes no event. -/
def State.atClock (s : State) (moment : Nat) (event : State → State) : State :=
  if moment ≤ (s.passClockTo moment).time.clock then event (s.passClockTo moment) else s

end Sys2Proof.Machine
end

