-- ==== Sys2Proof/Machine/PortCommands.lean ====
section
/-! DEFINITION. The desk port's own events and the reporting commands (Chapter 10): select, the end of a response, malformed commands, READ
REPORT, READ STATUS, SET FILTER, SET CRITICAL LEVEL, CLEAR ERRORS, POLL RESTART. -/

namespace Sys2Proof.Machine

/-- SELECT_RELEASED (R190, R191): the transaction ends; what a reading command returned stays in its queue. -/
def execSelectReleased (s : State) : Out := .next (s.setPort none)

/-- What a response read to its last byte does (R191, R195, R133, DEDUCED, unsafe, log 17). -/
def State.finishReading (s : State) (t : Transaction) : State :=
  match t.reading with
  | .nothing => s
  | .completion =>
    match s.seq.completions with
    | _ :: rest => (s.setSeq { s.seq with completions := rest }).fileWaiting
    | [] => s
  | .report gone =>
    s.setReports
      { s.reports with
        queue := if gone then s.reports.queue else s.reports.queue.drop 1
        overrun := t.discarded }
  | .reportEmpty => s.setReports { s.reports with overrun := t.discarded }

/-- RESPONSE_COMPLETED (R191): the last response byte has been clocked out. -/
def execResponseCompleted (s : State) : Out :=
  match s.port with
  | some t => .next ((s.setPort none).finishReading t)
  | none => .next s

/-- BAD_COMMAND (R192, R210): answered BAD_ARGUMENT and handed to no block, in discovery and RESETTING too. -/
def execBadCommand (code length : Nat) (s : State) : Out :=
  formed "BAD_COMMAND" (Instr.badCommand code length).wellFormed (s.reply .badArgument)

/-- READ REPORT at its owner (R191, R195, R210): the response begins with the overrun flag as it stands. -/
def State.readOldestReport (s : State) : State :=
  match s.reports.queue with
  | r :: _ => s.answerWith .accepted (flagByte s.reports.overrun :: reportBytes r) (.report false)
  | [] => s.answerWith .empty [flagByte s.reports.overrun] .reportEmpty

/-- READ REPORT (R195). -/
def execReadReport (s : State) : Out := .next (s.desk (·.readOldestReport))

/-- READ STATUS (R193): answered in discovery too, with the discovery mark, as before it from power-on (DESIGN CHOICE, unsafe, log 40), and BUSY in
RESETTING (R192). -/
def execReadStatus (s : State) : Out :=
  let s := s.setPort none
  if s.claims.station = .resetting then .next (s.reply .busy)
  else .next (s.answer .accepted (statusBytes s))

/-- SET FILTER at its owner (R197, R210). -/
def State.newFilter (s : State) (marks : List Nat) (value mask : Nat) : State :=
  if 16383 < value ∨ 16383 < mask then s.reply .badArgument
  else
    (s.setReports
      { s.reports with
        filter :=
          { accept := marks.map onByte, value := BitVec.ofNat 14 value, mask := BitVec.ofNat 14 mask } }).reply
      .accepted

/-- SET FILTER (R197). -/
def execSetFilter (marks : List Nat) (value mask : Nat) (s : State) : Out :=
  formed "SET_FILTER" (Instr.setFilter marks value mask).wellFormed (s.desk (fun s => s.newFilter marks value mask))

/-- SET CRITICAL LEVEL (R196): the value is kept as given. -/
def execSetCriticalLevel (level : Nat) (s : State) : Out :=
  formed "SET_CRITICAL_LEVEL" (Instr.setCriticalLevel level).wellFormed
    (s.desk (fun s => (s.setReports { s.reports with critical := level }).reply .accepted))

/-- The error capture is emptied (R199, R206). -/
def State.emptyCapture (s : State) : State := s.setReports { s.reports with first := none, more := false, kinds := [] }

/-- CLEAR ERRORS (R199): the capture is emptied and routine polling restarts (R12). -/
def execClearErrors (s : State) : Out := .next (s.desk (fun s => s.emptyCapture.restartPolling.pump.reply .accepted))

/-- POLL RESTART (R199). -/
def execPollRestart (s : State) : Out := .next (s.desk (fun s => s.restartPolling.pump.reply .accepted))

end Sys2Proof.Machine
end

