-- ==== Sys2Proof/Machine/RecordCommands.lean ====
section
/-! DEFINITION. The Line Record Store's events and commands (Chapter 7): the unit step of a clear, READ LINE RECORD, SET LINE CLASS, CLEAR
RECORDS. -/

namespace Sys2Proof.Machine

/-- The records of one unit are cleared but for their sweep class (R150). -/
def clearUnit (u : Nat) (t : List (Nat × LineRecord)) : List (Nat × LineRecord) :=
  mapRecords (fun l r => if unitOf l = u then r.wiped else r) t

/-- The next unit of a clear is done: the progress rises, and becomes idle at the unit count (R150). -/
def State.clearNext (s : State) (done : Nat) : State :=
  s.setRecords
    { table := clearUnit (s.straps.base + done) s.records.table
      clear := if s.straps.units ≤ done + 1 then none else some (done + 1)
      clearAt := s.records.clearAt + ms 8 }

/-- CLEAR_UNIT_STEP (R150): 8 ms after the last step, or after the clear began. -/
def execClearUnitStep (s : State) : Out :=
  match s.records.clear with
  | some n => .next ((s.passTo s.records.clearAt).clearNext n)
  | none => .next s

/-- READ LINE RECORD at its owner (R148, R210). -/
def State.readLine (s : State) (line : Nat) : State :=
  if s.records.clear.isSome then s.reply .busy
  else if !s.isHome line then s.reply .notHome
  else s.answer .accepted (lineRecordBytes line (s.recordOf line) s.clockMin s.settings.decay)

/-- READ LINE RECORD (R148). -/
def execReadLineRecord (line : Nat) (s : State) : Out :=
  formed "READ_LINE_RECORD" (Instr.readLineRecord line).wellFormed (s.desk (fun s => s.readLine line))

/-- The class of a run of lines is set; nothing else of their records changes (R147). -/
def State.setClass (s : State) (first count repetition offset : Nat) : State :=
  (List.range count).foldl
    (fun s i => s.setRecord (first + i) { s.recordOf (first + i) with repetition := repetition, offset := offset }) s

/-- SET LINE CLASS at its owner: the checks of R147 in order. -/
def State.lineClass (s : State) (first count repetition offset : Nat) : State :=
  if s.records.clear.isSome then s.reply .busy
  else if !(decide (1 ≤ count) && decide (count ≤ 4096) && classOk repetition offset) then s.reply .badArgument
  else if !(s.isHome first && s.isHome (first + count - 1)) then s.reply .notHome
  else (s.setClass first count repetition offset).reply .accepted

/-- SET LINE CLASS (R147). -/
def execSetLineClass (first count repetition offset : Nat) (s : State) : Out :=
  formed "SET_LINE_CLASS" (Instr.setLineClass first count repetition offset).wellFormed
    (s.desk (fun s => s.lineClass first count repetition offset))

/-- A clear begins: the tickets are emptied, and no record names one or is owed one (R150, R173). -/
def State.beginClear (s : State) : State :=
  (s.setTickets { s.tickets with table := [] }).setRecords
    { table := mapRecords (fun _ r => r.ticketless) s.records.table
      clear := some 0
      clearAt := s.time.now + ms 8 }

/-- CLEAR RECORDS at its owner (R149). -/
def State.clearAll (s : State) : State :=
  if s.records.clear.isNone ∧ s.sweep.state = .stopped ∧ s.seq.active = .empty ∧ s.seq.staged = .empty then
    s.beginClear.reply .accepted
  else s.reply .busy

/-- CLEAR RECORDS (R149). -/
def execClearRecords (s : State) : Out := .next (s.desk (·.clearAll))

end Sys2Proof.Machine
end

