-- ==== Sys2Proof/Machine/SequencerCommands.lean ====
section
/-! DEFINITION. The Test Sequencer's events and commands (Chapter 6): starting an access, the limits, SUBMIT ORDER, CANCEL ORDER, RESUME ORDER,
READ COMPLETION. -/

namespace Sys2Proof.Machine

/-! ## Starting an access (R113, R114, R116) -/

/-- The slot a new job goes into (R112). -/
def State.newSlot (s : State) : Option SlotId :=
  if s.seq.active = .empty then some .active
  else if s.seq.staged = .empty ∧ 2 ≤ s.straps.buses then some .staged
  else none

/-- A job is in the access stage: its claim is open, or its connect at the chain has not ended (R113). -/
def State.accessBusy (s : State) : Bool :=
  (s.findSlot (fun j => j.phase == .access || j.phase == .connecting)).isSome
    || s.chain.ops.any (fun o => o.kind == .connect) || s.claims.opening.isSome

/-- A job as it enters its slot in phase ACCESS with step 1 begun (R113). -/
def newJob (o : Order) (sweep : Option SweepInfo) : Job where
  sweep := sweep
  order := o
  phase := .access
  step := 1
  status := none
  failing := none
  bus := none
  verdict := none
  results := none
  disturbed := false
  hazard := none
  inserted := false
  headFreed := false
  nothingOperated := false
  holdUntil := 0
  accessWait := none
  connectedAt := none
  suspendedAt := 0
  suspended := 0

/-- The fixed steps of a sweep job (R116). -/
def sweepSteps : List Step :=
  [.connect, .foreign, .resist, .capacity, .verdict, .release].map
    (fun k => { kind := k, marked := false, seconds := 0 })

/-- The order of a sweep job for a line: ROUTINE, ANY, 50 V (R116). -/
def sweepOrder (line clock : Nat) : Order where
  tag := 0
  line := line
  urgency := .routine
  pref := none
  volts := 50
  steps := sweepSteps
  submitted := clock

/-- The claim request of the job in ACCESS: a claim in state WAITING, tested at once (R40, R41). -/
def State.requestClaim (s : State) (o : Order) : State :=
  (s.setClaims
    { s.claims with
      opening := some { line := o.line, urgency := o.urgency, pref := o.pref, placed := none } }).claimTest

/-- A sweep job enters a slot; its claim is refused NOT_FREE where no pair is free, and the job then ends LINE_BUSY or NO_BUS (R40,
R114). One that entered behind an active job that has handed HEAD_FREE changes slots with it (R112). -/
def State.enterSweep (s : State) (id : SlotId) (line : Nat) (retest : Bool) : State :=
  let o := sweepOrder line s.time.clock
  let s := s.setSlot id (.job (newJob o (some { retest := retest, pass := s.sweep.pass })))
  if (s.candidate line .routine none).isSome then (s.requestClaim o).settleSlots
  else s.endSweepJob id (s.notFreeStatus line)

/-- The first queued order that has not ended and whose line no entry of the claim table carries (R113). -/
def State.readyOrder (s : State) : Option Order :=
  (s.seq.queue.find? (fun q => q.waiting.isNone && !s.lineInTable q.order.line)).map (·.order)

/-- A queued order leaves the queue and enters a slot; its claim is requested (R113). One that entered behind an active job that has handed
HEAD_FREE changes slots with it (R112). -/
def State.enterOrder (s : State) (id : SlotId) (o : Order) : State :=
  (((s.setSeq { s.seq with queue := s.seq.queue.filter (fun q => q.order.tag != o.tag) }).setSlot id
    (.job (newJob o none))).requestClaim o).settleSlots

/-- The first queued order that qualifies is taken, if there is one (R113). -/
def State.takeOrder (s : State) (id : SlotId) : State :=
  match s.readyOrder with
  | some o => s.enterOrder id o
  | none => s

/-- The sweep offer is taken; a take that makes no job leaves the test to the queued orders (R113, R178). -/
def State.takeOffer (s : State) (id : SlotId) : State :=
  match s.takeSweep with
  | (s', some (line, retest)) => s'.enterSweep id line retest
  | (s', none) => s'.takeOrder id

/-- No order that has not ended is queued, and no desk order's job is in a slot (R113). -/
def State.deskIdle (s : State) : Bool := s.seq.queue.all (fun q => q.waiting.isSome) && !s.deskInSlot

/-- The choice of R113: a guard-passed sweep offer, else the first queued order that qualifies, else a sweep offer while the desk is idle;
a take that makes no job leaves the slot to an order (DEDUCED, safe, log 32). -/
def State.startAccess (s : State) (id : SlotId) : State :=
  if s.sweep.offer && s.sweep.guardPassed && !s.sweepInSlot then s.takeOffer id
  else if s.readyOrder.isSome then s.takeOrder id
  else if s.sweep.offer && s.deskIdle && !s.sweepInSlot then s.takeOffer id
  else s

/-- ACCESS_START (R113). -/
def execAccessStart (s : State) : Out :=
  if s.claims.station = .active ∧ !s.accessBusy then
    match s.newSlot with
    | some id => .next (s.startAccess id)
    | none => .next s
  else .next s

/-! ## Limits (R115, R121, R127) -/

/-- The moment an order's access wait limit passes (R115). -/
def State.waitLimit (s : State) (o : Order) : Nat := o.submitted + s.settings.accessWait * 1000

/-- How an order ends whose access wait limit passes: LINE_BUSY if its line is carried by an entry, otherwise NO_BUS (R115, DEDUCED, unsafe, log 30). -/
def State.waitStatus (s : State) (line : Nat) : EndStatus := s.notFreeStatus line

/-- The slot of a desk order's job in ACCESS. -/
def State.deskAccess (s : State) : Option (SlotId × Order) :=
  match s.accessSlot with
  | some id =>
    match (s.slot id).job? with
    | some j => if j.sweep.isNone then some (id, j.order) else none
    | none => none
  | none => none

/-- A queued order that has not ended, by its tag. -/
def State.queuedOrder (s : State) (tag : Nat) : Option Order :=
  (s.seq.queue.find? (fun q => q.order.tag == tag && q.waiting.isNone)).map (·.order)

/-- An order whose access wait limit has passed ends (R115), queued or in ACCESS. -/
def State.waitRunsOut (s : State) (tag : Nat) : State :=
  match s.queuedOrder tag with
  | some o => s.endQueued tag (s.waitStatus o.line) (some 1)
  | none =>
    match s.deskAccess with
    | some (id, o) => if o.tag = tag then s.endAccess id (s.waitStatus o.line) (some 1) else s
    | none => s

/-- An order whose access wait limit still applies, by its tag (R115). -/
def State.limitedOrder (s : State) (tag : Nat) : Option Order :=
  match s.queuedOrder tag with
  | some o => some o
  | none => (s.deskAccess.map (·.2)).filter (fun o => o.tag == tag)

/-- ACCESS_WAIT_LIMIT (R115), of the order with this tag. -/
def execAccessWaitLimit (tag : Nat) (s : State) : Out :=
  formed "ACCESS_WAIT_LIMIT" (Instr.accessWaitLimit tag).wellFormed <|
    match s.limitedOrder tag with
    | some o => s.atClock (s.waitLimit o) (fun s => s.waitRunsOut tag)
    | none => s

/-- HOLD_STEP_END (R121): the duration of the HOLD step has run. -/
def execHoldStepEnd (s : State) : Out :=
  match s.seq.active with
  | .job j =>
    if j.phase = .running ∧ (j.order.stepAt j.step).kind = .hold then
      .next ((s.passTo j.holdUntil).finishStep).pump
    else .next s
  | _ => .next s

/-- The suspended order ends SUSPEND_EXPIRED (R127). -/
def State.suspendRunsOut (s : State) : State := s.abandon .active .suspendExpired true

/-- The moment a suspension reaches its limit (R126). -/
def State.suspendEnd (s : State) (j : Job) : Nat := j.suspendedAt + s.settings.suspend * 1000

/-- SUSPEND_LIMIT (R127). -/
def execSuspendLimit (s : State) : Out :=
  match s.seq.active with
  | .job j =>
    if j.phase = .suspended then .next (s.atClock (s.suspendEnd j) (·.suspendRunsOut)).pump else .next s
  | _ => .next s

/-! ## SUBMIT ORDER (R108 to R111) -/

/-- The tag a slot holds: that of its desk order's job, or of its waiting record (R109). -/
def Slot.tag? (x : Slot) : Option Nat :=
  match x with
  | .empty => none
  | .donePending w => some w.record.tag
  | .job j => if j.sweep.isNone then some j.order.tag else none

/-- A tag is held by an order in the queue or a slot, ended ones with waiting records included (R109). -/
def State.tagHeld (s : State) (tag : Nat) : Bool :=
  s.seq.queue.any (fun q => q.order.tag == tag) || s.seq.active.tag? == some tag || s.seq.staged.tag? == some tag

/-- The checks of SUBMIT ORDER in order, and the steps of an order that passes (R109). -/
def State.checkOrder (s : State) (o : OrderRecord) : Except Response (Urgency × List Step) :=
  if s.claims.station ≠ .active then .error .state
  else
    match fieldsOk o s.straps.buses, orderUrgency o with
    | true, some u =>
      match goodSteps o with
      | some steps =>
        if (s.unitAt (unitOf o.line)).state = .absent then .error .badLine
        else if s.tagHeld o.tag then .error .tagInUse
        else if Config.orderCap ≤ s.seq.queue.length then .error .full
        else .ok (u, steps)
      | none => .error .badOrder
    | _, _ => .error .badArgument

/-- SUBMIT ORDER at its owner (R109, R110, R111). -/
def State.submit (s : State) (o : OrderRecord) : State :=
  match s.checkOrder o with
  | .error r => s.reply r
  | .ok (u, steps) =>
    (s.setSeq { s.seq with queue := insertOrder s.seq.queue (acceptedOrder o u steps s.time.clock) }).reply .accepted

/-- SUBMIT ORDER (R109). -/
def execSubmitOrder (order : OrderRecord) (s : State) : Out :=
  formed "SUBMIT_ORDER" (Instr.submitOrder order).wellFormed (s.desk (fun s => s.submit order))

/-! ## CANCEL ORDER (R128) -/

/-- The slot that holds a tag, the active slot first. -/
def State.slotOfTag (s : State) (tag : Nat) : Option SlotId :=
  if s.seq.active.tag? = some tag then some .active
  else if s.seq.staged.tag? = some tag then some .staged
  else none

/-- CANCEL ORDER of an order whose place is a slot (R128). -/
def State.cancelInSlot (s : State) (id : SlotId) : State :=
  match s.slot id with
  | .job j =>
    match j.phase with
    | .releasing => s.reply .state
    | .access => (s.endAccess id .cancelled none).reply .accepted
    | _ => ((s.abandon id .cancelled false).pump).reply .accepted
  | _ => s.reply .state

/-- CANCEL ORDER at its owner (R128). -/
def State.cancel (s : State) (tag : Nat) : State :=
  match s.seq.queue.find? (fun q => q.order.tag == tag) with
  | some q => if q.waiting.isSome then s.reply .state else (s.endQueued tag .cancelled none).reply .accepted
  | none =>
    match s.slotOfTag tag with
    | some id => s.cancelInSlot id
    | none => s.reply .unknownTag

/-- CANCEL ORDER (R128). -/
def execCancelOrder (tag : Nat) (s : State) : Out :=
  formed "CANCEL_ORDER" (Instr.cancelOrder tag).wellFormed (s.desk (fun s => s.cancel tag))

/-! ## RESUME ORDER and READ COMPLETION (R127, R133, R191) -/

/-- The suspended order goes on with its marked step (R127). -/
def State.resumeStep (s : State) : State :=
  State.runStep 13 (s.updateJob .active (fun j => { (j.endSuspension s.time.clock) with phase := .running }))

/-- The active slot holds the suspended order of a tag. -/
def State.suspendedTag (s : State) (tag : Nat) : Bool :=
  (s.seq.active.job?).any (fun j => j.phase == .suspended && j.sweep.isNone && j.order.tag == tag)

/-- RESUME ORDER at its owner (R127). -/
def State.resume (s : State) (tag : Nat) : State :=
  if s.suspendedTag tag then s.resumeStep.pump.reply .accepted
  else if s.tagHeld tag then s.reply .notSuspended
  else s.reply .unknownTag

/-- RESUME ORDER (R127). -/
def execResumeOrder (tag : Nat) (s : State) : Out :=
  formed "RESUME_ORDER" (Instr.resumeOrder tag).wellFormed (s.desk (fun s => s.resume tag))

/-- READ COMPLETION at its owner (R133, R191). -/
def State.readOldest (s : State) : State :=
  match s.seq.completions with
  | c :: _ => s.answerWith .accepted (completionBytes c) .completion
  | [] => s.reply .empty

/-- READ COMPLETION (R191). -/
def execReadCompletion (s : State) : Out := .next (s.desk (·.readOldest))

end Sys2Proof.Machine
end

