-- ==== Sys2Proof/Machine/SweepCommands.lean ====
section
/-! DEFINITION. The Sweep Engine's events and commands (Chapter 9): falling due, the guard time, SWEEP START, SWEEP STOP, SWEEP
CONTINUE. -/

namespace Sys2Proof.Machine

/-- The due time the sweep waits for: in INTERVAL, and in HALTED_COMPLETE with neither an offer nor a job (R176, R184). One that falls while a
retest job is in the sequencer waits for its outcome (DESIGN CHOICE, unsafe, log 43). -/
def State.dueAwaited (s : State) : Option Nat :=
  match s.sweep.state with
  | .interval => s.sweep.due
  | .haltedComplete => if s.sweep.offer || s.sweepInSlot then none else s.sweep.due
  | _ => none

/-- SWEEP_DUE (R176, R184). -/
def execSweepDue (s : State) : Out :=
  match s.dueAwaited with
  | some d => .next (s.atClock d (·.sweepFallsDue))
  | none => .next s

/-- The moment a standing offer has waited for the guard time, counted from the due time (R176). -/
def State.guardAwaited (s : State) : Option Nat :=
  if s.sweep.offer && !s.sweep.guardPassed then s.sweep.due.map (· + s.settings.guard * 1000) else none

/-- The guard-passed mark is set (R176). -/
def State.passGuard (s : State) : State := s.setSweep { s.sweep with guardPassed := true }

/-- SWEEP_GUARD (R176). -/
def execSweepGuard (s : State) : Out :=
  match s.guardAwaited with
  | some g => .next (s.atClock g (·.passGuard))
  | none => .next s

/-- SWEEP START accepted (R175). -/
def State.beginSweep (s : State) (r : SweepStartRecord) : State :=
  ((s.setSweep
      { s.sweep with
        pointer := (startLine r).getD s.sweep.pointer
        onComplete := onByte r.onComplete
        onError := onByte r.onError
        once := onByte r.once
        interval := (startInterval r).getD s.sweep.interval
        skip := 0
        pointerOwed := false
        stopPending := false
        due := some s.time.clock }).seek).postSweep .start

/-- SWEEP START at its owner: the checks of R175 in order. -/
def State.sweepStart (s : State) (r : SweepStartRecord) : State :=
  if s.records.clear.isSome then s.reply .busy
  else if s.sweep.state ≠ .stopped then s.reply .state
  else if (startLine r).any (fun l => decide (16383 < l)) then s.reply .badArgument
  else if (startLine r).any (fun l => !s.isHome l) then s.reply .notHome
  else (s.beginSweep r).reply .accepted

/-- SWEEP START (R175). -/
def execSweepStart (start : SweepStartRecord) (s : State) : Out :=
  formed "SWEEP_START" (Instr.sweepStart start).wellFormed (s.desk (fun s => s.sweepStart start))

/-- The stop-pending mark is set (R185). -/
def State.stopLater (s : State) : State := s.setSweep { s.sweep with stopPending := true }

/-- SWEEP STOP at its owner (R185). -/
def State.sweepStop (s : State) : State :=
  match s.sweep.state with
  | .stopped => s
  | .testing => s.stopLater
  | .haltedComplete => if !s.sweep.offer && s.sweepInSlot then s.stopLater else s.stopSweep .stop
  | _ => s.stopSweep .stop

/-- SWEEP STOP (R185). -/
def execSweepStop (s : State) : Out := .next (s.desk (fun s => s.sweepStop.reply .accepted))

/-- SWEEP CONTINUE in HALTED_ERROR (R186): the pointer steps past its line, and unless the wrap halts the sweep again it enters INTERVAL. -/
def State.continuePast (s : State) : State :=
  let s := s.stepPointer
  if s.sweep.state = .haltedComplete then s
  else
    (s.setSweep
      { s.sweep with state := .interval, due := some (s.time.clock + s.sweep.interval * 1000) }).postSweep .continued

/-- SWEEP CONTINUE in HALTED_COMPLETE (R186). -/
def State.continueWalk (s : State) : State :=
  (if s.sweepInSlot then s.setSweep { s.sweep with state := .testing }
   else if s.sweep.offer then s.setSweep { s.sweep with state := .seeking }
   else s.seekOrWait).postSweep .continued

/-- SWEEP CONTINUE at its owner (R186). -/
def State.sweepContinue (s : State) : State :=
  if s.sweep.stopPending then s.reply .state
  else
    match s.sweep.state with
    | .haltedError => s.continuePast.reply .accepted
    | .haltedComplete => s.continueWalk.reply .accepted
    | _ => s.reply .state

/-- SWEEP CONTINUE (R186). -/
def execSweepContinue (s : State) : Out := .next (s.desk (·.sweepContinue))

end Sys2Proof.Machine
end

