-- ==== Sys2Proof/Machine/TicketCommands.lean ====
section
/-! DEFINITION. The Ticket Table's event and commands (Chapter 8): the clear-hold deadline, READ TICKET, ASSIGN TICKET, CLOSE TICKET, READ
FOREIGN TICKETS. -/

namespace Sys2Proof.Machine

/-- The CLEARED ticket of an ident and its deadline as a clock value in ms (R161). -/
def State.clearHoldOf (s : State) (ident : Nat) : Option (Ticket × Nat) :=
  match s.ticket? ident with
  | some t => if t.state = .cleared then t.deadline.map (fun d => (t, d * 1000)) else none
  | none => none

/-- CLEAR_HOLD_DEADLINE (R161): the ticket becomes CLOSED with cause AUTO. -/
def execClearHoldDeadline (ident : Nat) (s : State) : Out :=
  formed "CLEAR_HOLD_DEADLINE" (Instr.clearHoldDeadline ident).wellFormed <|
    match s.clearHoldOf ident with
    | some (t, d) => s.atClock d (fun s => s.shutTicket t .auto)
    | none => s

/-- The checks of naming a ticket by its ident, in order (R163, R171). -/
def State.nameTicket (s : State) (ident : Nat) : Except Response Ticket :=
  if s.records.clear.isSome then .error .busy
  else if ident % 4096 = 0 then .error .badArgument
  else if ident / 4096 ≠ s.straps.station then .error .notHome
  else
    match s.ticket? ident with
    | some t => .ok t
    | none => .error .unknownTag

/-- The place of a ticket in the table. -/
def State.placeOf (s : State) (ident : Nat) : Nat := s.tickets.table.findIdx (fun t => t.ident == ident)

/-- A ticket's record is answered with its place and the number of tickets (R171). -/
def State.showTicket (s : State) (place : Nat) (t : Ticket) : State :=
  s.answer .accepted (ticketBytes place s.tickets.table.length t)

/-- READ TICKET by ident at its owner (R171). -/
def State.readByIdent (s : State) (ident : Nat) : State :=
  match s.nameTicket ident with
  | .error r => s.reply r
  | .ok t => s.showTicket (s.placeOf ident) t

/-- READ_TICKET_BY_IDENT (R171). -/
def execReadTicketByIdent (ident : Nat) (s : State) : Out :=
  formed "READ_TICKET_BY_IDENT" (Instr.readTicketByIdent ident).wellFormed (s.desk (fun s => s.readByIdent ident))

/-- READ TICKET by place at its owner (R171). -/
def State.readByPlace (s : State) (place : Nat) : State :=
  if s.records.clear.isSome then s.reply .busy
  else if 127 < place then s.reply .badArgument
  else
    match s.tickets.table[place]? with
    | some t => s.showTicket place t
    | none => s.reply .empty

/-- READ_TICKET_BY_PLACE (R171). -/
def execReadTicketByPlace (place : Nat) (s : State) : Out :=
  formed "READ_TICKET_BY_PLACE" (Instr.readTicketByPlace place).wellFormed (s.desk (fun s => s.readByPlace place))

/-- ASSIGN TICKET at its owner (R163). -/
def State.assign (s : State) (ident : Nat) : State :=
  match s.nameTicket ident with
  | .error r => s.reply r
  | .ok t =>
    if t.state = .opened then
      (s.moveTicket t (fun t => { t with state := .held, changedAt := s.clockSec }) .assign).reply .accepted
    else s.reply .state

/-- ASSIGN TICKET (R163). -/
def execAssignTicket (ident : Nat) (s : State) : Out :=
  formed "ASSIGN_TICKET" (Instr.assignTicket ident).wellFormed (s.desk (fun s => s.assign ident))

/-- CLOSE TICKET at its owner (R164). -/
def State.closeByDesk (s : State) (ident : Nat) : State :=
  match s.nameTicket ident with
  | .error r => s.reply r
  | .ok t => if t.state = .closed then s.reply .state else (s.shutTicket t .desk).reply .accepted

/-- CLOSE TICKET (R164). -/
def execCloseTicket (ident : Nat) (s : State) : Out :=
  formed "CLOSE_TICKET" (Instr.closeTicket ident).wellFormed (s.desk (fun s => s.closeByDesk ident))

/-- READ FOREIGN TICKETS at its owner (R171). -/
def State.readCache (s : State) : State :=
  if s.records.clear.isSome then s.reply .busy else s.answer .accepted (cacheBytes s.tickets.cache)

/-- READ FOREIGN TICKETS (R171). -/
def execReadForeignTickets (s : State) : Out := .next (s.desk (·.readCache))

end Sys2Proof.Machine
end

