-- ==== Sys2Proof/Machine/StationCommands.lean ====
section
/-! DEFINITION. The station's own events and commands (Chapters 10 and 11): power-on, SET TIME, LOAD SETTINGS, JOIN, STATION RESET and the end
of a reset. -/

namespace Sys2Proof.Machine

/-! ## Power-on (R201, R202) -/

/-- The exchange that a loss of power cuts short: whether its request was acted on is open (DESIGN CHOICE, safe, log 35). -/
def State.cutShort (s : State) : State :=
  match s.chain.exchange with
  | some e => s.unitMayAct e.request
  | none => s

/-- The state at power-on with the given straps (R202): every block at its power-on values and the first CHAIN CLEAR sent. The units' drive
sets stand as they stood (R1), and so do the model's own fields (DESIGN CHOICE, safe, log 33). -/
def State.poweredOn (s : State) (p : Straps) : State :=
  let s := s.cutShort
  { State.reset with
    straps := p
    chain := { Chain.powerOn with driveSet := s.chain.driveSet }
    claims := { State.reset.claims with entries := List.replicate p.buses .free }
    sweep := Sweep.powerOn p.firstLine
    free := s.free
    pending := s.pending }

/-- POWER_ON (R202). -/
def execPowerOn (straps : StrapMasks) (s : State) : Out := .next (s.poweredOn (Straps.ofMasks straps))

/-! ## SET TIME (R194) -/

/-- The orders in the queue whose access wait limit has passed, in queue order. -/
def State.lateOrders (s : State) : List Nat :=
  (s.seq.queue.filter (fun q => q.waiting.isNone && decide (s.waitLimit q.order ≤ s.time.clock))).map (·.order.tag)

/-- The access wait limits that the clock has passed take effect (R115): queued orders, then the order in ACCESS. -/
def State.applyWaitLimits (s : State) : State :=
  let s := s.lateOrders.foldl (fun s t => s.waitRunsOut t) s
  match s.deskAccess with
  | some (id, o) =>
    if s.waitLimit o ≤ s.time.clock then s.endAccess id (s.waitStatus o.line) (some 1) else s
  | none => s

/-- A suspend limit that the clock has passed takes effect (R127). -/
def State.applySuspendLimit (s : State) : State :=
  match s.seq.active with
  | .job j => if j.phase = .suspended ∧ s.suspendEnd j ≤ s.time.clock then s.suspendRunsOut else s
  | _ => s

/-- The clear-hold deadlines that the clock has passed take effect, in table order (R161). -/
def State.applyClearHolds (s : State) : State :=
  (s.tickets.table.filter s.clearHoldRunOut).foldl (fun s t => s.shutTicket t .auto) s

/-- A sweep due time that the clock has passed takes effect (R177, R184); in HALTED_COMPLETE with no ticket overdue it moves on by whole
intervals past the clock. -/
def State.applySweepDue (s : State) : State :=
  match s.dueAwaited with
  | some d =>
    if s.time.clock < d then s
    else if s.sweep.state = .haltedComplete ∧ s.overdueTicket = none then
      let i := s.sweep.interval * 1000
      s.setSweep { s.sweep with due := some (d + ((s.time.clock - d) / i + 1) * i) }
    else s.sweepFallsDue
  | none => s

/-- A guard time that the clock has passed takes effect (R176). -/
def State.applyGuard (s : State) : State :=
  match s.guardAwaited with
  | some g => if g ≤ s.time.clock then s.passGuard else s
  | none => s

/-- The clock is set (R194). The part of a millisecond that has run is kept (DESIGN CHOICE, unsafe, log 5). -/
def State.setClock (s : State) (seconds : Nat) : State := s.setTime { s.time with clock := seconds * 1000 }

/-- SET TIME at its owner (R194): the clock is set and every limit it passes takes effect, in a fixed order (DESIGN CHOICE, unsafe, log 18). -/
def State.newTime (s : State) (seconds : Nat) : State :=
  (s.setClock seconds).applyWaitLimits.applySuspendLimit.applyClearHolds.applySweepDue.applyGuard.pump.reply .accepted

/-- SET TIME (R194). -/
def execSetTime (seconds : Nat) (s : State) : Out :=
  formed "SET_TIME" (Instr.setTime seconds).wellFormed (s.desk (fun s => s.newTime seconds))

/-! ## LOAD SETTINGS and JOIN (R203, R204) -/

/-- LOAD SETTINGS at its owner (R203). -/
def State.takeSettings (s : State) (r : SettingsRecord) : State :=
  if s.claims.station = .starting then
    ((s.setSettings (Settings.ofRecord r)).setChain
      { s.chain with units := withGauges s.chain.units r.gaugeIndex }).reply .accepted
  else s.reply .state

/-- LOAD SETTINGS (R203). -/
def execLoadSettings (settings : SettingsRecord) (s : State) : Out :=
  formed "LOAD_SETTINGS" (Instr.loadSettings settings).wellFormed (s.desk (fun s => s.takeSettings settings))

/-- The station is JOINING and offers its ANNOUNCE; a notice that waited in STARTING may go (R21, R61, R204). -/
def State.beginJoin (s : State) : State :=
  ((s.setClaims { s.claims with station := .joining }).offer { notice := .announce, tag := .joining }).tryNow

/-- JOIN at its owner (R204). -/
def State.joinLine (s : State) : State :=
  if s.claims.station = .starting then s.beginJoin.reply .accepted else s.reply .state

/-- JOIN (R204). -/
def execJoin (s : State) : Out := .next (s.desk (·.joinLine))

/-! ## STATION RESET (R205, R206) -/

/-- A notice of an abandoned join period begins none (R205). -/
def Tx.plainly (tx : Tx) : Tx := if tx.tag = .joining then { tx with tag := .plain } else tx

/-- The station enters RESETTING: a join period in hand is abandoned and the claim in the making ends (R63, R205). -/
def State.enterResetting (s : State) : State :=
  ((s.setClaims { s.claims with station := .resetting, joinUntil := none, clashMark := none }).setLine
    { s.line with
      flight := s.line.flight.map (fun f => { f with tx := f.tx.plainly })
      queue := s.line.queue.map Tx.plainly
      heldClaims := s.line.heldClaims.map Tx.plainly }).endOpening

/-- A slot with its waiting record dropped, or its job in ACCESS ended (R134). -/
def Slot.dropped (x : Slot) : Slot :=
  match x with
  | .job j => if j.phase = .access then .empty else .job j
  | _ => .empty

/-- Orders, completion records and waiting records are discarded (R134, R205). -/
def State.discardOrders (s : State) : State :=
  s.setSeq
    { s.seq with
      queue := []
      completions := []
      active := s.seq.active.dropped
      staged := s.seq.staged.dropped }

/-- The job in a slot begins its release sequence, unless it has (R80, R84, R205). -/
def State.resetSlot (s : State) (id : SlotId) : State :=
  match s.slot id with
  | .job j => if j.phase = .releasing then s else s.beginRelease id
  | _ => s

/-- The sweep enters STOPPED with no report (R174). -/
def State.silenceSweep (s : State) : State :=
  s.setSweep
    { s.sweep with
      state := .stopped
      due := none
      offer := false
      guardPassed := false
      pointerOwed := false
      stopPending := false }

/-- The reset begins (R205). -/
def State.beginReset (s : State) : State :=
  ((((s.enterResetting.discardOrders.resetSlot .active).resetSlot .staged).silenceSweep).settleSlots).pump

/-- STATION RESET at its owner (R205): the response is formed before the reset begins (DEDUCED, unsafe, log 15). -/
def State.resetStation (s : State) : State :=
  if s.claims.station = .starting then s.reply .state else (s.reply .accepted).beginReset

/-- STATION RESET (R205). -/
def execStationReset (s : State) : Out := .next (s.desk (·.resetStation))

/-- A notice that the end of the reset waits for: a RELEASE of the reset, or a CLAIM that the reset withdrew too late (R206, DEDUCED, unsafe,
log 27). -/
def Tx.resets (tx : Tx) : Bool := tx.tag == .ofReset

/-- The conditions for the end of a reset (R206). A CLAIM withdrawn before the reset began does not hold it: like any other notice in flight it
runs on past the end (R32). -/
def State.resetDone (s : State) : Bool :=
  s.claims.station == .resetting && s.seq.active == .empty && s.seq.staged == .empty
    && !s.line.flight.any (fun f => f.tx.resets) && !s.line.queue.any Tx.resets && !s.line.heldClaims.any Tx.resets

/-- The transmit queue is emptied and every held-back notice discarded; a notice in flight runs on (R32, R206). -/
def State.emptyLine (s : State) : State :=
  s.setLine { s.line with queue := [], heldClaims := [], heldVerdicts := [], heldTickets := [] }

/-- The report queue is emptied with its overrun flag (R195, R206). -/
def State.emptyReports (s : State) : State := s.setReports { s.reports with queue := [], overrun := false }

/-- The station leaves RESETTING: for JOINING with an ANNOUNCE, or with a clash mark for ISOLATED, its clash captured (R37, R206). -/
def State.leaveReset (s : State) : State :=
  match s.claims.clashMark with
  | none => s.beginJoin
  | some k => ((s.setClaims { s.claims with clashMark := none }).isolate).capture (.stationClash k)

/-- RESET_END (R206). -/
def execResetEnd (s : State) : Out :=
  if s.resetDone then .next s.emptyLine.emptyReports.emptyCapture.leaveReset else .next s

end Sys2Proof.Machine
end

