-- ==== Sys2Proof/Machine/Dispatch.lean ====
section
/-! DEFINITION. One arm for each command of the 412T, in the order of spec/opcode_table.json. -/

namespace Sys2Proof.Machine

def exec (i : Instr) (s : State) : Host.Outcome State Fault Refusal :=
  match i with
  | .powerOn straps => Sys2Proof.Machine.execPowerOn straps s
  | .exchangeAnswered answer => Sys2Proof.Machine.execExchangeAnswered answer s
  | .answerStartTimeout => Sys2Proof.Machine.execAnswerStartTimeout s
  | .answerEndTimeout => Sys2Proof.Machine.execAnswerEndTimeout s
  | .pollingPoint => Sys2Proof.Machine.execPollingPoint s
  | .connectSettleEnd => Sys2Proof.Machine.execConnectSettleEnd s
  | .releaseSettleEnd bus => Sys2Proof.Machine.execReleaseSettleEnd bus s
  | .releaseRetry bus => Sys2Proof.Machine.execReleaseRetry bus s
  | .quietWaitEnd => Sys2Proof.Machine.execQuietWaitEnd s
  | .backoffEnd => Sys2Proof.Machine.execBackoffEnd s
  | .collision => Sys2Proof.Machine.execCollision s
  | .noticeSent => Sys2Proof.Machine.execNoticeSent s
  | .receptionAbandoned => Sys2Proof.Machine.execReceptionAbandoned s
  | .noticeReceived bytes => Sys2Proof.Machine.execNoticeReceived bytes s
  | .contestWindowEnd => Sys2Proof.Machine.execContestWindowEnd s
  | .awaitYieldLimit => Sys2Proof.Machine.execAwaitYieldLimit s
  | .awaitedEntryExpiry bus => Sys2Proof.Machine.execAwaitedEntryExpiry bus s
  | .holdInterval bus => Sys2Proof.Machine.execHoldInterval bus s
  | .disturbanceDeadline bus => Sys2Proof.Machine.execDisturbanceDeadline bus s
  | .peerEntryExpiry bus => Sys2Proof.Machine.execPeerEntryExpiry bus s
  | .joinPeriodEnd => Sys2Proof.Machine.execJoinPeriodEnd s
  | .headConnected => Sys2Proof.Machine.execHeadConnected s
  | .foreignStageEnd tg rg tr => Sys2Proof.Machine.execForeignStageEnd tg rg tr s
  | .resistOffPhaseEnd current voltage => Sys2Proof.Machine.execResistOffPhaseEnd current voltage s
  | .resistSettleEnd => Sys2Proof.Machine.execResistSettleEnd s
  | .resistOnReadingEnd current => Sys2Proof.Machine.execResistOnReadingEnd current s
  | .capacityRecordEnd current => Sys2Proof.Machine.execCapacityRecordEnd current s
  | .capacityDrainEnd => Sys2Proof.Machine.execCapacityDrainEnd s
  | .dischargeEnd => Sys2Proof.Machine.execDischargeEnd s
  | .busRelayOpen => Sys2Proof.Machine.execBusRelayOpen s
  | .accessStart => Sys2Proof.Machine.execAccessStart s
  | .accessWaitLimit tag => Sys2Proof.Machine.execAccessWaitLimit tag s
  | .holdStepEnd => Sys2Proof.Machine.execHoldStepEnd s
  | .suspendLimit => Sys2Proof.Machine.execSuspendLimit s
  | .clearHoldDeadline ident => Sys2Proof.Machine.execClearHoldDeadline ident s
  | .clearUnitStep => Sys2Proof.Machine.execClearUnitStep s
  | .sweepDue => Sys2Proof.Machine.execSweepDue s
  | .sweepGuard => Sys2Proof.Machine.execSweepGuard s
  | .resetEnd => Sys2Proof.Machine.execResetEnd s
  | .selectReleased => Sys2Proof.Machine.execSelectReleased s
  | .responseCompleted => Sys2Proof.Machine.execResponseCompleted s
  | .badCommand code length => Sys2Proof.Machine.execBadCommand code length s
  | .submitOrder order => Sys2Proof.Machine.execSubmitOrder order s
  | .cancelOrder tag => Sys2Proof.Machine.execCancelOrder tag s
  | .resumeOrder tag => Sys2Proof.Machine.execResumeOrder tag s
  | .readCompletion => Sys2Proof.Machine.execReadCompletion s
  | .readReport => Sys2Proof.Machine.execReadReport s
  | .readStatus => Sys2Proof.Machine.execReadStatus s
  | .sweepStart start => Sys2Proof.Machine.execSweepStart start s
  | .sweepStop => Sys2Proof.Machine.execSweepStop s
  | .sweepContinue => Sys2Proof.Machine.execSweepContinue s
  | .readLineRecord line => Sys2Proof.Machine.execReadLineRecord line s
  | .setLineClass first count repetition offset => Sys2Proof.Machine.execSetLineClass first count repetition offset s
  | .clearRecords => Sys2Proof.Machine.execClearRecords s
  | .readTicketByIdent ident => Sys2Proof.Machine.execReadTicketByIdent ident s
  | .readTicketByPlace place => Sys2Proof.Machine.execReadTicketByPlace place s
  | .assignTicket ident => Sys2Proof.Machine.execAssignTicket ident s
  | .closeTicket ident => Sys2Proof.Machine.execCloseTicket ident s
  | .readForeignTickets => Sys2Proof.Machine.execReadForeignTickets s
  | .setTime seconds => Sys2Proof.Machine.execSetTime seconds s
  | .loadSettings settings => Sys2Proof.Machine.execLoadSettings settings s
  | .join => Sys2Proof.Machine.execJoin s
  | .stationReset => Sys2Proof.Machine.execStationReset s
  | .setFilter marks value mask => Sys2Proof.Machine.execSetFilter marks value mask s
  | .setCriticalLevel level => Sys2Proof.Machine.execSetCriticalLevel level s
  | .clearErrors => Sys2Proof.Machine.execClearErrors s
  | .pollRestart => Sys2Proof.Machine.execPollRestart s
  | .answerBegins => Sys2Proof.Machine.execAnswerBegins s
  | .startSymbolTaken => Sys2Proof.Machine.execStartSymbolTaken s

end Sys2Proof.Machine
end

