-- ==== Sys2Proof/Machine/Step.lean ====
section
/-! DEFINITION. One step of the 412T: the command at the front of the queue, or a millisecond of idling. -/

namespace Sys2Proof.Machine

/-- The state with its queue of waiting commands replaced. -/
def State.withPending (s : State) (cs : List Instr) : State := { s with pending := cs }

/-- The idle tick: a millisecond passes and nothing else happens (R194, DESIGN CHOICE, unsafe, log 1). What falls due at a moment is a command of its own. -/
def State.idle (s : State) : State := s.pass Config.msQuanta

/-- A step: the command at the front of the queue acts on the state with the rest of the queue; on an empty queue the 412T idles. -/
def step (s : State) : Host.Outcome State Fault Refusal :=
  match s.pending with
  | [] => .next s.idle
  | c :: rest => exec c (s.withPending rest)

/-- The command a word spells, at the front of the queue; the state itself where it spells none (DESIGN CHOICE, safe, log 28). -/
def State.withFetchWord (s : State) (nbits w : Nat) : State :=
  match decodeTableWord nbits w with
  | some c => s.withPending (c :: s.pending)
  | none => s

end Sys2Proof.Machine
end

