-- ==== Sys2Proof/Safety.lean ====
section
/-! DEFINITION. What a sound state of the 412T is: the ranges and capacities the manual gives each piece of state, the canonical form of the
line records, and the three laws the manual sets apart (R38, R39, R156). The terms in which claims are stated. -/

namespace Sys2Proof.Machine

/-! ## Ranges and capacities -/

/-- The straps lie in their ranges, the home range ending at unit 63 at the latest (R201, R137). -/
abbrev Straps.InRange (p : Straps) : Prop :=
  p.station ≤ 15 ∧ 1 ≤ p.buses ∧ p.buses ≤ 4 ∧ 1 ≤ p.units ∧ p.units ≤ 16 ∧ p.base + p.units ≤ 64

/-- The settings lie in their ranges, the clear level below the open threshold (R105, R115, R126, R172, R174, section 7.4). -/
abbrev Settings.InRange (x : Settings) : Prop :=
  (1000 ≤ x.foreign ∧ x.foreign ≤ 50000) ∧ (100 ≤ x.loop ∧ x.loop ≤ 10000)
    ∧ (1000 ≤ x.ground ∧ x.ground ≤ 500000) ∧ (100000 ≤ x.insulation ∧ x.insulation ≤ 50000000)
    ∧ (10 ≤ x.imbalance ∧ x.imbalance ≤ 95)
    ∧ (x.gauge.length = 4 ∧ ∀ g ∈ x.gauge, 20000 ≤ g ∧ g ≤ 80000)
    ∧ (1 ≤ x.accessWait ∧ x.accessWait ≤ 300) ∧ (10 ≤ x.suspend ∧ x.suspend ≤ 600)
    ∧ (1 ≤ x.decay ∧ x.decay ≤ 1440) ∧ (1 ≤ x.openLevel ∧ x.openLevel ≤ 255) ∧ x.clearLevel < x.openLevel
    ∧ (10 ≤ x.clearHold ∧ x.clearHold ≤ 10080) ∧ (1 ≤ x.retest ∧ x.retest ≤ 1440)
    ∧ (10 ≤ x.guard ∧ x.guard ≤ 600)

/-- The clock stands at its end at the latest, and less than a millisecond of its present millisecond has run (R194). -/
abbrev Time.InRange (x : Time) : Prop := x.clock ≤ Config.clockMax ∧ x.part < Config.msQuanta

/-- The line records are in their canonical form, and every bucket level lies within 0 to 255 (R143). -/
abbrev RecordsSound (t : List (Nat × LineRecord)) : Prop := recordsWf t = true ∧ ∀ e ∈ t, e.2.level ≤ 255

/-- Gauge indexes and access-fault counts lie within 0 to 3 (R9, R13). -/
abbrev UnitsInRange (units : List UnitEntry) : Prop := ∀ u ∈ units, u.gauge ≤ 3 ∧ u.faults ≤ 3

/-- The unit table has an entry for each of the 64 unit numbers, each in its ranges (section 1.3). -/
abbrev UnitsSound (units : List UnitEntry) : Prop := units.length = Config.unitCount ∧ UnitsInRange units

/-- The sweep's pointer is a home line, its pass counter wraps at 65,536, and its interval lies in its range; every line counted as a skip lies
before the pointer, so the skip count never passes 4,096 (R174, R179). -/
abbrev Sweep.InRange (x : Sweep) (p : Straps) : Prop :=
  (p.firstLine + x.skip ≤ x.pointer ∧ x.pointer ≤ p.lastLine) ∧ x.pass ≤ 65535 ∧ (1 ≤ x.interval ∧ x.interval ≤ 3600)

/-- The transmit queue holds at most 16 notices (R27). An asserting HOLD is taken even then, in the place of a notice that is none, and R28 says
that a full queue has one; a queue without one is outside this law. -/
abbrev QueueSound (q : List Tx) : Prop := (∃ tx ∈ q, tx.asserts = false) → q.length ≤ Config.transmitCap

/-- The queues and tables hold no more than their capacities (R27, R111, R133, R155, R169, R195). -/
abbrev State.WithinCapacity (s : State) : Prop :=
  s.seq.queue.length ≤ Config.orderCap ∧ s.seq.completions.length ≤ Config.completionCap
    ∧ s.tickets.table.length ≤ Config.ticketCap ∧ s.tickets.cache.length ≤ Config.cacheCap
    ∧ s.reports.queue.length ≤ Config.reportCap ∧ QueueSound s.line.queue

/-- The straps, the settings, the clock, the unit table with the poll pointer, the claim table, the line records, the serial counter, the sweep,
and the queues and tables with a capacity lie in the ranges, and have the forms, that the manual gives them. -/
structure State.Sound (s : State) : Prop where
  straps : s.straps.InRange
  settings : s.settings.InRange
  time : s.time.InRange
  units : UnitsSound s.chain.units
  poller : s.chain.pollPointer < Config.unitCount
  entries : s.claims.entries.length = s.straps.buses
  records : RecordsSound s.records.table
  serial : s.tickets.serial ≤ 4095
  sweep : s.sweep.InRange s.straps
  capacity : s.WithinCapacity

/-! ## One claim for each bus and each line (R38) -/

/-- The own claim of an entry. -/
def Entry.own? : Entry → Option OwnClaim
  | .own c => some c
  | _ => none

/-- No two OWN entries of the claim table name the same line. A table has one entry for each bus, so it holds at most one OWN entry for a
bus. -/
abbrev OneClaimPerLine (es : List Entry) : Prop :=
  ∀ b < es.length, ∀ b' < es.length, ∀ c ∈ (es.getD b .free).own?, ∀ c' ∈ (es.getD b' .free).own?,
    c.line = c'.line → b = b'

/-! ## The ticket law (R156) -/

/-- A ticket that is not CLOSED. -/
abbrev Ticket.Live (t : Ticket) : Prop := t.state ≠ .closed

/-- Every home line has at most one ticket that is not CLOSED, and its record's ticket ident is present exactly when such a ticket exists, and
names it (R156). Idents are told apart by their serials (R153), and while a clear runs the table is empty (R150). -/
structure TicketLaw (straps : Straps) (ts : List Ticket) (rs : Records) : Prop where
  named : ∀ t ∈ ts, t.Live → (lookRecord rs.table t.line).ticket = some t.ident
  exists_ : ∀ e ∈ rs.table, ∀ i ∈ e.2.ticket, ∃ t ∈ ts, t.Live ∧ t.ident = i ∧ t.line = e.1
  idents : (ts.map (fun t => t.ident % 4096)).Nodup
  ours : ∀ t ∈ ts, t.ident / 4096 = straps.station ∧ 1 ≤ t.ident % 4096
  few : ts.length ≤ Config.ticketCap
  sorted : recordsWf rs.table = true
  clearing : rs.clear.isSome → ts = []

/-! ## What the chain and the head are free to do -/

/-- Nothing is on the chain, nothing waits for it, and discovery is over: a request made now is granted at once (R7). -/
abbrev State.ChainIdle (s : State) : Prop :=
  s.chain.exchange = none ∧ s.chain.jobGroup = [] ∧ s.chain.pollGroup = [] ∧ s.chain.discovery = none

/-- An exchange is on the chain with nothing waiting behind it, after discovery. -/
abbrev State.LoneExchange (s : State) (e : Exchange) : Prop :=
  s.chain.exchange = some e ∧ s.chain.jobGroup = [] ∧ s.chain.pollGroup = [] ∧ s.chain.discovery = none

/-- The arbiter has nothing to grant now (R7). -/
abbrev State.NothingToGrant (s : State) : Prop :=
  s.chain.exchange.isSome = true ∨ s.chain.discovery.isSome = true ∨ (s.chain.jobGroup = [] ∧ s.chain.pollGroup = [])

/-- The fields of a notice of a station lie in the ranges of R26. -/
def Notice.InRange (n : Notice) (station : Nat) : Prop :=
  match n with
  | .announce => True
  | .claim _ p => p.bus ≤ 3 ∧ p.line ≤ 16383
  | .hold _ p _ => p.bus ≤ 3 ∧ p.line ≤ 16383
  | .release p => p.bus ≤ 3 ∧ p.line ≤ 16383
  | .verdict l _ k => l ≤ 16383 ∧ k ≤ 65535
  | .ticket i l _ _ => l ≤ 16383 ∧ i / 4096 = station ∧ 1 ≤ i % 4096

/-- The line is busy with a notice of another station, while this station's own notice, if it has one, is not on the line. -/
abbrev State.Hears (s : State) : Prop := s.line.busy = true ∧ s.onLine = false

/-- The state when that notice's final stop symbol has passed, 100 symbol times after its start symbol (R19, R20). -/
def State.afterNotice (s : State) : State :=
  { s.passTo (s.line.startedAt + 500) with
    line := { s.line with busy := false, endedAt := max s.time.now (s.line.startedAt + 500) } }

/-- Nothing waits for a place in the transmit queue, or in it (R27, R30). -/
abbrev DeskLine.Empty (x : DeskLine) : Prop :=
  x.queue = [] ∧ x.heldClaims = [] ∧ x.heldVerdicts = [] ∧ x.heldTickets = []

/-- The READ LINE of an operation is alone on the chain, for the pair of the active job, whose claim is as given (R14, R16). -/
structure State.Reading (s : State) (e : Exchange) (o : ChainOp) (j : Job) (c : OwnClaim) : Prop where
  exchange : s.LoneExchange e
  request : e.request = .readLine o.pair
  inTime : s.time.now ≤ e.lastAnswer
  op : s.chain.ops = [o]
  job : s.seq.active = .job j
  bus : j.bus = some o.pair.bus
  line : j.order.line = o.pair.line
  operated : j.nothingOperated = false
  entry : s.entryAt o.pair.bus = .own c
  claim : c.line = o.pair.line
  kept : c.withdrawn = false

/-- An exchange of an operation is alone on the chain, for the pair of the active job, whose claim is as given (R14, R16). -/
structure State.OnChain (s : State) (e : Exchange) (o : ChainOp) (j : Job) (c : OwnClaim) : Prop where
  exchange : s.LoneExchange e
  op : s.chain.ops = [o]
  job : s.seq.active = .job j
  bus : j.bus = some o.pair.bus
  line : j.order.line = o.pair.line
  operated : j.nothingOperated = false
  entry : s.entryAt o.pair.bus = .own c

/-- The station takes the desk's commands: unit discovery has ended and no station reset runs (R192). -/
abbrev State.TakesCommands (s : State) : Prop := s.claims.station ≠ .discovering ∧ s.claims.station ≠ .resetting

/-- The response record of a command with an empty body stands at the port (R209). -/
def plainResponse (r : Response) : Option Transaction :=
  some { response := [byte r.code, 0, 0], reading := .nothing, discarded := false }

end Sys2Proof.Machine
end

