-- ==== Sys2Proof/Certificates/Slice0/Obligations.lean ====
section
/-! DEFINITION. The statements about the 412T for the provers, by chapter of the manual. Times are elapsed quanta: `ms n` is n milliseconds. -/

section Statements

open Sys2Proof Sys2Proof.Machine

/-! ## The machine as a whole -/

/-- A step takes the command at the front of the queue and runs it on the state with the rest of the queue. -/
def Obligations.StepRunsTheFrontCommand : Prop :=
  ∀ (s : State) (c : Instr) (rest : List Instr),
    step { s with pending := c :: rest } = exec c { s with pending := rest }

/-- The state right after reset is sound, holds no two claims on a line, and keeps the ticket law. -/
def Obligations.ResetMeetsEveryInvariant : Prop :=
  State.reset.Sound ∧ OneClaimPerLine State.reset.claims.entries
    ∧ TicketLaw State.reset.straps State.reset.tickets.table State.reset.records

/-- Every step keeps what `State.Sound` lists: the straps, the settings and the clock in their ranges; the 64 unit entries with their gauge indexes
and fault counts, and the poll pointer; a claim table of one entry for each bus; the line records in their canonical form with their bucket
levels; the serial counter; the sweep's pointer, pass, skip count and interval; and the order, completion, ticket, cache, report and transmit
queues within their capacities, where a transmit queue of asserting HOLDs alone is outside this law. -/
def Obligations.EveryStepKeepsTheStateSound : Prop :=
  ∀ s t : State, s.Sound → step s = .next t → t.Sound

/-- Every step keeps at most one own claim for each line; the table has one entry for each bus (R38). -/
def Obligations.EveryStepKeepsOneClaimForEachLine : Prop :=
  ∀ s t : State, OneClaimPerLine s.claims.entries → step s = .next t → OneClaimPerLine t.claims.entries

/-- Every step keeps the ticket law: at most one live ticket for a line, and the line's record names exactly that one (R156). -/
def Obligations.EveryStepKeepsTheTicketLaw : Prop :=
  ∀ s t : State, TicketLaw s.straps s.tickets.table s.records → step s = .next t →
    TicketLaw t.straps t.tickets.table t.records

/-- A command answers a next state in every state exactly when its operands have the form its row gives them; otherwise it stops with the
fault that names it (log 25). -/
def Obligations.EveryWellFormedCommandCompletes : Prop :=
  ∀ (c : Instr) (s : State),
    ((∃ t, exec c s = .next t) ↔ c.wellFormed = true)
      ∧ (c.wellFormed = false → ∃ m, exec c s = .fault (.illFormed m))

/-- No command touches the queue of waiting commands; the straps change at power-on alone (R201), and the settings at power-on and by LOAD
SETTINGS alone (R203). That POWER_ON keeps the waiting commands is the model's own choice: log 33. -/
def Obligations.StrapsAndSettingsChangeByTheirCommandsAlone : Prop :=
  ∀ (c : Instr) (s t : State), exec c s = .next t →
    t.pending = s.pending
      ∧ ((∀ m, c ≠ .powerOn m) → t.straps = s.straps)
      ∧ ((∀ m, c ≠ .powerOn m) → (∀ r, c ≠ .loadSettings r) → t.settings = s.settings)

/-- The bytes of every well-formed desk command read back as that command, and so do those of a malformed one. -/
def Obligations.CommandRecordsReadBack : Prop :=
  ∀ (c : Instr) (bytes : List Byte), c.wellFormed = true → encodeCommand c = some bytes →
    decodeCommand bytes = some c

/-- Elapsed time and the station clock pass together: the clock rises by 1 for every 320 quanta and stops at its end; an event moves time on to
its moment and never back (R194). On an empty queue a millisecond passes and nothing else happens: the model's own tick (log 1). The model's own
choice in it: log 2. -/
def Obligations.ClockAndElapsedTimePassTogether : Prop :=
  ∀ (s : State) (m : Nat), s.time.InRange →
    s.passTo m =
        { s with
          time :=
            { now := max s.time.now m
              clock := min (s.time.clock + (s.time.part + (m - s.time.now)) / 320) 4294967295000
              part := (s.time.part + (m - s.time.now)) % 320 } }
      ∧ (s.time.clock < m → m ≤ 4294967295000 →
          s.passClockTo m =
            { s with
              time := { now := s.time.now + ((m - s.time.clock) * 320 - s.time.part), clock := m, part := 0 } })
      ∧ (m ≤ s.time.clock → s.passClockTo m = s)
      ∧ (s.pending = [] →
          step s = .next
            { s with
              time :=
                { now := s.time.now + 320
                  clock := min (s.time.clock + 1) 4294967295000
                  part := s.time.part } })

/-! ## Chapter 1: the drive chain -/

/-- An answer that begins in time is given 30 ms to end; one that begins after its limit, or ends after it, changes nothing (R4, log 29), and
neither does a beginning commanded of an answer that has begun, an event nothing awaits (log 3). -/
def Obligations.AnAnswerHasThirtyMilliseconds : Prop :=
  ∀ (s : State) (e : Exchange), s.chain.exchange = some e →
    (e.begun = false → s.time.now ≤ e.limit →
      exec .answerBegins s = .next
        { s with chain := { s.chain with exchange := some { e with begun := true, limit := s.time.now + ms 30 } } })
    ∧ ((e.begun = true ∨ e.limit < s.time.now) → exec .answerBegins s = .next s)
    ∧ (e.begun = true → e.limit < s.time.now → ∀ a, exec (.exchangeAnswered a) s = .next s)

/-- The table of R11: what an answered poll makes of its unit, and the UNIT_CHANGE it posts when the state changes. The model's own choice in
it: log 29. -/
def Obligations.AnsweredPollSetsItsUnit : Prop :=
  ∀ (s : State) (e : Exchange) (u : Nat) (a : ChainAnswer),
    s.LoneExchange e → e.request = .poll u → u < s.chain.units.length → s.time.now ≤ e.lastAnswer →
    (s.unitAt u).state ≠ .absent →
    ∀ st : UnitState, st = (if a.supplyGood = true ∧ a.alarm = false then .ok else .alarm) →
      exec (.exchangeAnswered a) s = .next
        { (if (s.unitAt u).state = st then s else s.post (.unitChange u st)) with
          chain :=
            { s.chain with
              exchange := none
              units := s.chain.units.set u
                { state := st
                  gauge := (s.unitAt u).gauge
                  faults := if st = .ok ∧ (s.unitAt u).state ≠ .ok then 0 else (s.unitAt u).faults
                  lastPoll := s.time.clock / 1000 } } }

/-- A poll that nothing answers in 5 ms, or whose answer does not end in 30 ms, makes its unit DOWN, captures its error and halts polling (R5,
R6, R12). The model's own choices in it: log 2, and log 44 on the order of the two reports. -/
def Obligations.FailedPollHaltsPolling : Prop :=
  ∀ (s : State) (e : Exchange) (u : Nat),
    s.LoneExchange e → e.request = .poll u → u < s.chain.units.length →
    ∀ (c : Instr) (err : ErrorDetail),
      (c = .answerStartTimeout ∧ e.begun = false ∧ err = .chainNoAnswer .poll (some u)
        ∨ c = .answerEndTimeout ∧ e.begun = true ∧ err = .chainStuck .poll (some u)) →
      exec c s = .next
        { (if (s.unitAt u).state = .down then (s.passTo e.limit).capture err
           else ((s.passTo e.limit).capture err).post (.unitChange u .down)) with
          chain :=
            { s.chain with
              exchange := none
              polling := false
              units := s.chain.units.set u
                { s.unitAt u with state := .down, lastPoll := (s.passTo e.limit).time.clock / 1000 } } }

/-- At a polling point the first present unit after the pointer is polled at once on an idle chain; while a poll is pending, or polling is
halted, the point passes (R10). The model's own choices in it: log 2 and log 6. -/
def Obligations.PollingPointPollsTheNextUnit : Prop :=
  ∀ s : State, s.chain.discovery = none →
    (∀ k < 64, s.ChainIdle → s.chain.polling = true →
        (s.unitAt ((s.chain.pollPointer + 1 + k) % 64)).state ≠ .absent →
        (∀ i < k, (s.unitAt ((s.chain.pollPointer + 1 + i) % 64)).state = .absent) →
        exec .pollingPoint s = .next
          { s.passTo s.chain.nextPoll with
            chain :=
              { s.chain with
                pollPointer := (s.chain.pollPointer + 1 + k) % 64
                nextPoll := s.chain.nextPoll + ms 250
                exchange :=
                  some
                    { request := .poll ((s.chain.pollPointer + 1 + k) % 64)
                      begun := false
                      limit := max s.time.now s.chain.nextPoll + ms 5 } } })
    ∧ ((s.chain.polling = false ∨ s.pollPending = true) →
        exec .pollingPoint s = .next
          { s.passTo s.chain.nextPoll with chain := { s.chain with nextPoll := s.chain.nextPoll + ms 250 } })

/-- The state with the job in the active slot replaced. -/
def withActive (s : State) (j : Job) : State := { s with seq := { s.seq with active := .job j } }

/-- The first attempt of a pair's release has been asked for (R7, R16): it is sent if nothing stands on the chain, and waits in the job group
otherwise. -/
def releaseAsked (x : Chain) (p : Pair) (now : Nat) : Chain :=
  let ops : List ChainOp :=
    x.ops.filter (fun o => o.pair != p)
      ++ [{ pair := p, kind := .release, attempt := 1, stage := .acting, abandoned := false }]
  if x.exchange.isSome = true then { x with ops := ops, jobGroup := x.jobGroup ++ [.release p] }
  else { x with ops := ops, exchange := some { request := .release p, begun := false, limit := now + ms 5 } }

/-- The head as it takes a job's head connect to a bus, with the job's source setting (R66, R68). -/
def headTaken (j : Job) (b now : Nat) : Head :=
  { Head.offBus with
    state := .connecting
    bus := some b
    relay := some b
    setting := some (max 10000 (min 100000 (j.order.volts * 1000)))
    activity := .connecting
    until_ := now + ms 25 }

/-- An acknowledged OPERATE begins a settle of 10 ms, an acknowledged RELEASE one of 8 ms, and the unit has acted on the drive set (R2, R14,
R16). The acknowledged OPERATE of an abandoned connect ends it WITHDRAWN, with no settle, and the release of its job, in either slot, is sent (R8,
R15, R123). The model's own choices in it: log 6, log 14 and log 29. -/
def Obligations.AcknowledgedRequestBeginsItsSettle : Prop :=
  ∀ (s : State) (e : Exchange) (o : ChainOp) (a : ChainAnswer),
    s.LoneExchange e → s.time.now ≤ e.lastAnswer → s.opOf o.pair = some o →
    (e.request = .operate o.pair → o.abandoned = false →
      exec (.exchangeAnswered a) s = .next
        { s with
          chain :=
            { s.chain with
              exchange := none
              driveSet :=
                if s.chain.driveSet.contains o.pair then s.chain.driveSet else s.chain.driveSet ++ [o.pair]
              ops :=
                s.chain.ops.filter (fun x => x.pair != o.pair)
                  ++ [{ o with stage := .settling (s.time.now + ms 10) }] } })
    ∧ (∀ (id : SlotId) (j : Job), e.request = .operate o.pair → o.abandoned = true → s.slotOf o.pair = some id →
        s.slot id = .job j → j.phase = .releasing → j.nothingOperated = false →
      exec (.exchangeAnswered a) s = .next
        { s with
          chain :=
            releaseAsked
              { s.chain with
                exchange := none
                driveSet :=
                  if s.chain.driveSet.contains o.pair then s.chain.driveSet else s.chain.driveSet ++ [o.pair] }
              o.pair s.time.now })
    ∧ (e.request = .release o.pair →
      exec (.exchangeAnswered a) s = .next
        { s with
          chain :=
            { s.chain with
              exchange := none
              driveSet := s.chain.driveSet.filter (fun q => q != o.pair)
              ops :=
                s.chain.ops.filter (fun x => x.pair != o.pair)
                  ++ [{ o with stage := .settling (s.time.now + ms 8) }] } })

/-- A settle that ends asks for the READ LINE of its line: granted at once on an idle chain, waiting behind an exchange otherwise (R7, R14,
R16). The model's own choices in it: log 2 and log 6. -/
def Obligations.SettleEndAsksForTheReadback : Prop :=
  ∀ (s : State) (before after : List ChainOp) (o : ChainOp) (t : Nat) (c : Instr),
    s.chain.ops = before ++ o :: after → o.stage = .settling t →
    (c = .connectSettleEnd ∧ o.kind = .connect ∧ (∀ x ∈ before, x.kind ≠ .connect)
      ∨ c = .releaseSettleEnd o.pair.bus ∧ o.pair.bus < 4 ∧ o.kind ≠ .connect
        ∧ (∀ x ∈ before, x.kind = .connect ∨ x.pair.bus ≠ o.pair.bus)) →
    (s.ChainIdle →
      exec c s = .next
        { s.passTo t with
          chain :=
            { s.chain with
              ops := s.chain.ops.filter (fun x => x.pair != o.pair) ++ [{ o with stage := .reading }]
              exchange := some { request := .readLine o.pair, begun := false, limit := max s.time.now t + ms 5 } } })
    ∧ (s.chain.exchange.isSome = true →
      exec c s = .next
        { s.passTo t with
          chain :=
            { s.chain with
              ops := s.chain.ops.filter (fun x => x.pair != o.pair) ++ [{ o with stage := .reading }]
              jobGroup := s.chain.jobGroup ++ [.readLine o.pair] } })

/-- An exchange of a kind with a unit ends without its answer, which never began or has stuck, and this is the error it captures (R5, R6). -/
abbrev EndsUnanswered (e : Exchange) (k : ExchangeKind) (u : Nat) (cmd : Instr) (err : ErrorDetail) : Prop :=
  cmd = .answerStartTimeout ∧ e.begun = false ∧ err = .chainNoAnswer k (some u)
    ∨ cmd = .answerEndTimeout ∧ e.begun = true ∧ err = .chainStuck k (some u)

/-- What the units may have operated after a request that got no answer: an OPERATE or a RELEASE was acted on or not, which is open, and a READ
LINE changes nothing (R5, R6, R18; log 8). -/
def MayHaveActed (s : State) (r : ChainRequest) (operated : List Pair) (free : Nat) : Prop :=
  match r with
  | .operate p =>
    operated = s.chain.driveSet
      ∨ operated = if s.chain.driveSet.contains p then s.chain.driveSet else s.chain.driveSet ++ [p]
  | .release p => operated = s.chain.driveSet ∨ operated = s.chain.driveSet.filter (fun q => q != p)
  | _ => operated = s.chain.driveSet ∧ free = s.free

/-- The exchange has ended unanswered: its error is captured and its unit is DOWN, with a UNIT_CHANGE, behind the ERROR report, if it was not
(R5, R6; log 44). -/
def unanswered (s : State) (e : Exchange) (u : Nat) (err : ErrorDetail) (operated : List Pair) (free : Nat) : State :=
  { (if (s.unitAt u).state = .down then (s.passTo e.limit).capture err
     else ((s.passTo e.limit).capture err).post (.unitChange u .down)) with
    free := free
    chain :=
      { s.chain with
        exchange := none
        driveSet := operated
        units := s.chain.units.set u { s.unitAt u with state := .down } } }

/-- The first attempt of a pair's release is sent on an idle chain (R16). -/
def releaseSent (x : Chain) (p : Pair) (now : Nat) : Chain :=
  { x with
    exchange := some { request := .release p, begun := false, limit := now + ms 5 }
    ops := [{ pair := p, kind := .release, attempt := 1, stage := .acting, abandoned := false }] }

/-- A connect's job has been handed a failing outcome: its status is set, and its claim and its release sequence are under way (R15, R54,
R114, R123). -/
def connectFailed (s : State) (j : Job) (c : OwnClaim) (b : Nat) (status : EndStatus) : State :=
  { s with
    claims :=
      { s.claims with entries := s.claims.entries.set b (.own { c with state := .releasing, disturbances := [] }) }
    seq :=
      { s.seq with
        active :=
          .job { j with status := some status, failing := some 1, phase := .releasing, inserted := false } } }

/-- The table of R14: what the bus set read back makes of a connect of the active job, whose claim is HELD. Another bus comes first and ends it
LINE_BUSY; the claimed bus alone ends it CONNECTED and the head is connected; an empty set makes a second attempt, and after it ends ACCESS_FAULT,
with its count (R13, R15, R66, R114). An OPERATE or READ LINE that gets no answer makes the unit DOWN with its error captured and ends the connect
ACCESS_FAULT at either attempt, without its count; a job already in its release sequence goes on to the release (R5, R6, R123). The READ LINE of an
abandoned connect is examined and its counts are kept, an empty set makes no second attempt, and the job's release is sent whatever was read (R8,
R15, R123). The model's own choices in it: log 2, log 6, log 8, log 14, log 29 and log 44. -/
def Obligations.ReadbackDecidesTheConnect : Prop :=
  (∀ (s : State) (e : Exchange) (o : ChainOp) (j : Job) (c : OwnClaim) (k : ExchangeKind) (cmd : Instr)
      (err : ErrorDetail) (u : Nat),
    s.OnChain e o j c → o.kind = .connect →
    (e.request = .operate o.pair ∧ k = .operate ∨ e.request = .readLine o.pair ∧ k = .readLine) →
    u = unitOf o.pair.line → u < s.chain.units.length → EndsUnanswered e k u cmd err →
    ∃ (operated : List Pair) (free : Nat), MayHaveActed s e.request operated free
      ∧ ∀ x : State, x = unanswered s e u err operated free →
        (j.phase = .connecting → c.state = .held → s.head.state = .offBus →
          exec cmd s = .next
            { connectFailed x j c o.pair.bus .accessFault with chain := releaseSent x.chain o.pair x.time.now })
        ∧ (j.phase = .releasing →
          exec cmd s = .next { x with chain := releaseSent x.chain o.pair x.time.now }))
  ∧ (∀ (s : State) (e : Exchange) (o : ChainOp) (j : Job) (c : OwnClaim) (a : ChainAnswer),
    s.Reading e o j c → o.kind = .connect → o.abandoned = true → j.phase = .releasing →
    unitOf o.pair.line < s.chain.units.length →
    ∀ (p : Pair) (u : Nat) (x : Chain), p = o.pair → u = unitOf p.line → x = releaseSent s.chain p s.time.now →
      (((∃ b < 4, b ≠ p.bus ∧ a.buses.getLsbD b = true)
          ∨ (∀ b < 4, a.buses.getLsbD b = false) ∧ o.attempt = 1) →
        exec (.exchangeAnswered a) s = .next { s with chain := x })
      ∧ ((∀ b < 4, a.buses.getLsbD b = true ↔ b = p.bus) → p.bus < 4 →
        exec (.exchangeAnswered a) s = .next
          { withActive s { j with connectedAt := some s.time.clock } with
            chain := { x with units := s.chain.units.set u { s.unitAt u with faults := 0 } } })
      ∧ (∀ n, (∀ b < 4, a.buses.getLsbD b = false) → o.attempt = 2 → n = min 3 ((s.unitAt u).faults + 1) →
        exec (.exchangeAnswered a) s = .next
          { (if n = 3 ∧ (s.unitAt u).state ≠ .down then s.post (.unitChange u .down) else s) with
            chain :=
              { x with
                units :=
                  s.chain.units.set u
                    { s.unitAt u with faults := n, state := if n = 3 then .down else (s.unitAt u).state } } }))
  ∧ ∀ (s : State) (e : Exchange) (o : ChainOp) (j : Job) (c : OwnClaim) (a : ChainAnswer),
    s.Reading e o j c → o.kind = .connect → o.abandoned = false → j.phase = .connecting → c.state = .held →
    s.head.state = .offBus → unitOf o.pair.line < s.chain.units.length → o.pair.bus < s.claims.entries.length →
    ∀ (p : Pair) (u : Nat), p = o.pair → u = unitOf p.line →
      ((∃ b < 4, b ≠ p.bus ∧ a.buses.getLsbD b = true) →
        exec (.exchangeAnswered a) s = .next
          { connectFailed s j c p.bus .lineBusy with chain := releaseSent s.chain p s.time.now })
      ∧ ((∀ b < 4, a.buses.getLsbD b = true ↔ b = p.bus) → p.bus < 4 →
        exec (.exchangeAnswered a) s = .next
          { s with
            chain :=
              { s.chain with
                exchange := none
                ops := []
                units := s.chain.units.set u { s.unitAt u with faults := 0 } }
            seq :=
              { s.seq with active := .job { j with phase := .ready, connectedAt := some s.time.clock } }
            head := headTaken j p.bus s.time.now })
      ∧ ((∀ b < 4, a.buses.getLsbD b = false) → o.attempt = 1 →
        exec (.exchangeAnswered a) s = .next
          { s with
            chain :=
              { s.chain with
                exchange := some { request := .operate p, begun := false, limit := s.time.now + ms 5 }
                ops := [{ pair := p, kind := .connect, attempt := 2, stage := .acting, abandoned := false }] } })
      ∧ (∀ n, (∀ b < 4, a.buses.getLsbD b = false) → o.attempt = 2 → n = min 3 ((s.unitAt u).faults + 1) →
        exec (.exchangeAnswered a) s = .next
          { connectFailed
              (if n = 3 ∧ (s.unitAt u).state ≠ .down then s.post (.unitChange u .down) else s) j c p.bus
              .accessFault with
            chain :=
              { releaseSent s.chain p s.time.now with
                units :=
                  s.chain.units.set u
                    { s.unitAt u with faults := n, state := if n = 3 then .down else (s.unitAt u).state } } })

/-- The completion record of an order that ends in a slot (R130 to R132): its own fields, the closing evaluation's results, the ident the
foreign ticket cache holds for its line, and its three times, each counted to the present where it has not ended. -/
def heldRecord (s : State) (j : Job) (status : EndStatus) (failing : Option Nat) : Completion where
  tag := j.order.tag
  status := status
  step := j.step
  failing := failing
  bus := j.bus
  verdict := j.verdict
  results := j.results
  disturbed := j.disturbed
  hazard := if status = .hazardAbort then j.hazard else none
  ident := (s.tickets.cache.find? (fun e => e.line == j.order.line)).map (·.ident)
  accessWait := j.accessWait.getD (min 4294967295 (s.time.clock - j.order.submitted))
  connected := (j.connectedAt.map (fun t => min 4294967295 (s.time.clock - t))).getD 0
  suspended := min 4294967295 j.suspended

/-- The slots with the content of one replaced. -/
def slotFilled (q : Sequencer) (id : SlotId) (x : Slot) : Sequencer :=
  match id with
  | .active => { q with active := x }
  | .staged => { q with staged := x }

/-- The order of the job in a slot has ended, and no slot changes by it: its record enters the completion queue, or waits in its slot until there
is room (R133). -/
def orderEndedIn (id : SlotId) (s : State) (j : Job) (status : EndStatus) (failing : Option Nat) : Sequencer :=
  if s.seq.completions.length < 16 then
    slotFilled
      { s.seq with ends := s.seq.ends + 1, completions := s.seq.completions ++ [heldRecord s j status failing] } id
      .empty
  else
    slotFilled { s.seq with ends := s.seq.ends + 1 } id
      (.donePending { record := heldRecord s j status failing, ended := s.seq.ends })

/-- The order of the job in the active slot has ended, and no job is in the staged slot. -/
abbrev orderEnded (s : State) (j : Job) (status : EndStatus) (failing : Option Nat) : Sequencer :=
  orderEndedIn .active s j status failing

/-- No slot changes when the job of a slot ends (R112): no job is in the staged slot behind the active one, or none in the active slot waits READY
for a free head. -/
abbrev SlotsStand (s : State) (id : SlotId) : Prop :=
  (id = .active → s.seq.staged = .empty)
    ∧ (id = .staged → ∀ i, s.seq.active = .job i → i.phase = .ready → s.head.state ≠ .offBus)

/-- The record of an order that ends while queued (R128, R131, R132). -/
def queuedRecord (s : State) (o : Order) (status : EndStatus) (failing : Option Nat) : Completion where
  tag := o.tag
  status := status
  step := 0
  failing := failing
  bus := none
  verdict := none
  results := none
  disturbed := false
  hazard := none
  ident := (s.tickets.cache.find? (fun e => e.line == o.line)).map (·.ident)
  accessWait := min 4294967295 (s.time.clock - o.submitted)
  connected := 0
  suspended := 0

/-- The readback of a release (R16): the claimed bus still there at the first attempt sends a second; at the second it captures RELEASE_FAULT,
leaves the claim STUCK with its first retry 5 s on, and ends the order RELEASE_FAULT; the claimed bus gone lets the pair go and ends the order
(R54, R55, R123). Its completion record carries what the order kept and the closing evaluation gave (R130 to R132). A RELEASE or READ LINE that
gets no answer makes the unit DOWN with its error captured and fails the attempt in the same way (R5, R6). The model's own choices in it: log 2,
log 6, log 8, log 29, log 44 and log 46. -/
def Obligations.ReadbackDecidesTheRelease : Prop :=
  (∀ (s : State) (e : Exchange) (o : ChainOp) (j : Job) (c : OwnClaim) (k : ExchangeKind) (cmd : Instr)
      (err : ErrorDetail) (u : Nat),
    s.OnChain e o j c → o.kind = .release → s.claims.station ≠ .resetting → j.sweep = none → s.seq.staged = .empty →
    (e.request = .release o.pair ∧ k = .release ∨ e.request = .readLine o.pair ∧ k = .readLine) →
    u = unitOf o.pair.line → u < s.chain.units.length → EndsUnanswered e k u cmd err →
    ∃ (operated : List Pair) (free : Nat), MayHaveActed s e.request operated free
      ∧ ∀ x : State, x = unanswered s e u err operated free →
        (o.attempt = 1 →
          exec cmd s = .next
            { x with
              chain :=
                { x.chain with
                  exchange := some { request := .release o.pair, begun := false, limit := x.time.now + ms 5 }
                  ops :=
                    [{ pair := o.pair, kind := .release, attempt := 2, stage := .acting, abandoned := false }] } })
        ∧ (o.attempt = 2 →
          exec cmd s = .next
            { x.capture (.releaseFault u (positionOf o.pair.line)) with
              chain := { x.chain with ops := [] }
              claims :=
                { s.claims with
                  entries :=
                    s.claims.entries.set o.pair.bus
                      (.own { c with state := .stuck, retryAt := x.time.now + ms 5000 }) }
              seq := orderEnded x j .releaseFault (some j.step) }))
  ∧ ∀ (s : State) (e : Exchange) (o : ChainOp) (j : Job) (c : OwnClaim) (a : ChainAnswer),
    s.Reading e o j c → o.kind = .release → s.claims.station = .active → s.claims.opening = none →
    j.sweep = none → s.seq.staged = .empty → s.seq.completions.length < 16 → c.awaited = [] →
    o.pair.bus < s.claims.entries.length →
    ∀ p : Pair, p = o.pair →
      (a.buses.getLsbD p.bus = true → o.attempt = 1 →
        exec (.exchangeAnswered a) s = .next
          { s with
            chain :=
              { s.chain with
                exchange := some { request := .release p, begun := false, limit := s.time.now + ms 5 }
                ops := [{ pair := p, kind := .release, attempt := 2, stage := .acting, abandoned := false }] } })
      ∧ (a.buses.getLsbD p.bus = true → o.attempt = 2 →
        exec (.exchangeAnswered a) s = .next
          { s.capture (.releaseFault (unitOf p.line) (positionOf p.line)) with
            chain := { s.chain with exchange := none, ops := [] }
            claims :=
              { s.claims with
                entries :=
                  s.claims.entries.set p.bus (.own { c with state := .stuck, retryAt := s.time.now + ms 5000 }) }
            seq :=
              { s.seq with
                active := .empty
                ends := s.seq.ends + 1
                completions :=
                  s.seq.completions
                    ++ [heldRecord s j .releaseFault (some j.step)] } })
      ∧ (a.buses.getLsbD p.bus = false →
        exec (.exchangeAnswered a) s = .next
          { ({ s with
                chain := { s.chain with exchange := none, ops := [] }
                claims := { s.claims with entries := s.claims.entries.set p.bus .free } }).offerRelease p with
            seq :=
              { s.seq with
                active := .empty
                ends := s.seq.ends + 1
                completions := s.seq.completions ++ [heldRecord s j (j.status.getD .done) j.failing] } })

/-- A STUCK claim's retry is a single attempt (R17): its RELEASE is sent at the due moment; a readback that still shows the bus sets the next retry
5 s on and captures nothing, and one that does not lets the pair go. A RELEASE or READ LINE of a retry that gets no answer makes the unit DOWN with
its error captured, and the next retry falls 5 s on (R5, R6). The model's own choices in it: log 2, log 6, log 8, log 29 and log 44. -/
def Obligations.StuckClaimIsRetriedEveryFiveSeconds : Prop :=
  ∀ (s : State) (b : Nat) (c : OwnClaim), b < 4 → b < s.claims.entries.length →
    s.entryAt b = .own c → c.state = .stuck → c.awaited = [] → s.claims.opening = none →
    ∀ p : Pair, p = { bus := b, line := c.line } →
      (s.ChainIdle → s.chain.ops = [] →
        exec (.releaseRetry b) s = .next
          { s.passTo c.retryAt with
            chain :=
              { s.chain with
                exchange :=
                  some { request := .release p, begun := false, limit := max s.time.now c.retryAt + ms 5 }
                ops := [{ pair := p, kind := .retry, attempt := 1, stage := .acting, abandoned := false }] } })
      ∧ (∀ (e : Exchange) (o : ChainOp) (k : ExchangeKind) (cmd : Instr) (err : ErrorDetail) (u : Nat),
          s.LoneExchange e → s.chain.ops = [o] → o.pair = p → o.kind = .retry →
          (e.request = .release p ∧ k = .release ∨ e.request = .readLine p ∧ k = .readLine) →
          u = unitOf c.line → u < s.chain.units.length → EndsUnanswered e k u cmd err →
          ∃ (operated : List Pair) (free : Nat), MayHaveActed s e.request operated free
            ∧ ∀ x : State, x = unanswered s e u err operated free →
              exec cmd s = .next
                { x with
                  chain := { x.chain with ops := [] }
                  claims :=
                    { s.claims with
                      entries := s.claims.entries.set b (.own { c with retryAt := x.time.now + ms 5000 }) } })
      ∧ (∀ (e : Exchange) (o : ChainOp) (a : ChainAnswer),
          s.LoneExchange e → e.request = .readLine p → s.time.now ≤ e.lastAnswer → s.chain.ops = [o] →
          o.pair = p → o.kind = .retry → s.slotOf p = none →
          (a.buses.getLsbD b = true →
            exec (.exchangeAnswered a) s = .next
              { s with
                chain := { s.chain with exchange := none, ops := [] }
                claims :=
                  { s.claims with
                    entries := s.claims.entries.set b (.own { c with retryAt := s.time.now + ms 5000 }) } })
          ∧ (a.buses.getLsbD b = false →
            exec (.exchangeAnswered a) s = .next
              (({ s with
                  chain := { s.chain with exchange := none, ops := [] }
                  claims := { s.claims with entries := s.claims.entries.set b .free } }).offerRelease p)))

/-- What the exchanges of power-on come to. CHAIN CLEAR answered empties the drive set; unanswered or stuck it captures its error, may have
emptied any part of the drive set, and is sent a second time, and discovery follows the second try whatever its outcome (R3, R5, R6, R202). A
unit that answers becomes OK or ALARM, a silent one stays as it was with nothing captured, one whose answer sticks stays as it was with
CHAIN_STUCK captured, each stamped, and the next unit is polled; after unit 63 polling begins and the station is STARTING, or with a clash marked
captures it and is ISOLATED (R9, R202). The model's own choices in it: log 2, log 6, log 8 and log 29. -/
def Obligations.DiscoveryPollsEveryUnit : Prop :=
  ∀ (s : State) (e : Exchange), s.chain.exchange = some e →
    (∀ again : Bool, e.request = .chainClear → s.chain.discovery = some (.clearing again) →
      (∀ a : ChainAnswer, s.time.now ≤ e.lastAnswer →
        exec (.exchangeAnswered a) s = .next
          { s with
            chain :=
              { s.chain with
                driveSet := []
                discovery := some (.polling 0)
                exchange := some { request := .poll 0, begun := false, limit := s.time.now + ms 5 } } })
      ∧ (∀ (c : Instr) (err : ErrorDetail),
          (c = .answerStartTimeout ∧ e.begun = false ∧ err = .chainNoAnswer .chainClear none
            ∨ c = .answerEndTimeout ∧ e.begun = true ∧ err = .chainStuck .chainClear none) →
          ∃ (kept : List Pair) (free : Nat), kept.Sublist s.chain.driveSet
            ∧ exec c s = .next
                { (s.passTo e.limit).capture err with
                  free := free
                  chain :=
                    { s.chain with
                      driveSet := kept
                      discovery := some (if again then .polling 0 else .clearing true)
                      exchange :=
                        some
                          { request := if again then .poll 0 else .chainClear
                            begun := false
                            limit := max s.time.now e.limit + ms 5 } } }))
    ∧ ∀ (s' : State) (u : Nat) (a : ChainAnswer) (c : Instr),
      e.request = .poll u → s.chain.discovery = some (.polling u) → u < 64 → s.chain.units.length = 64 →
      (c = .exchangeAnswered a ∧ s.time.now ≤ e.lastAnswer ∧ s' = s
        ∨ c = .answerStartTimeout ∧ e.begun = false ∧ s' = s.passTo e.limit
        ∨ c = .answerEndTimeout ∧ e.begun = true
            ∧ s' = (s.passTo e.limit).capture (.chainStuck .poll (some u))) →
      ∀ units : List UnitEntry,
        units = s.chain.units.set u
          { s.unitAt u with
            state :=
              if c = .answerStartTimeout ∨ c = .answerEndTimeout then (s.unitAt u).state
              else if a.supplyGood = true ∧ a.alarm = false then .ok
              else .alarm
            lastPoll := s'.time.clock / 1000 } →
        (u < 63 →
          exec c s = .next
            { s' with
              chain :=
                { s.chain with
                  units := units
                  discovery := some (.polling (u + 1))
                  exchange := some { request := .poll (u + 1), begun := false, limit := s'.time.now + ms 5 } } })
        ∧ (u = 63 → ∀ x : Chain,
            x =
              { s.chain with
                units := units
                discovery := none
                exchange := none
                pollPointer := 63
                polling := true
                nextPoll := s'.time.now + ms 250 } →
          (s.claims.clashMark = none →
            exec c s = .next { s' with claims := { s.claims with station := .starting }, chain := x })
          ∧ (∀ k, s.claims.clashMark = some k → s.seq.queue = [] → s.accessSlot = none → s.claims.opening = none →
              s.line.flight = none →
            exec c s = .next
              { s'.capture (.stationClash k) with
                claims := { s.claims with station := .isolated, clashMark := none, joinUntil := none }
                chain := x }))

/-! ## Chapter 2: the desk line -/

/-- The line has been quiet for 16 symbol times and the station sends: a notice that comes into flight begins its first try at once (R19, R21). -/
abbrev SendsNow (s : State) : Prop :=
  s.line.busy = false ∧ s.line.endedAt + 80 ≤ s.time.now ∧ s.claims.station ≠ .starting ∧ s.claims.station ≠ .discovering

/-- The line with a notice come into flight: on a quiet line its first try has begun and the line is active; otherwise it waits (R21, R27). -/
def broughtIntoFlight (s : State) (tx : Tx) : DeskLine :=
  if SendsNow s then
    { s.line with
      flight := some { tx := tx, collisions := 0, phase := .trying s.time.now, withdrawn := false }
      busy := true
      startedAt := s.time.now }
  else { s.line with flight := some { tx := tx, collisions := 0, phase := .waitQuiet, withdrawn := false } }

/-- The line with a notice entered in a queue with room: on an idle transmitter it comes into flight, and otherwise it stands last (R27). -/
def noticeEntered (s : State) (tx : Tx) : DeskLine :=
  if s.line.flight = none ∧ s.line.queue = [] then broughtIntoFlight s tx
  else { s.line with queue := s.line.queue ++ [tx] }

/-- The line once a first try that waited for nothing more has begun (R21). -/
def firstTryBegun (s : State) : DeskLine :=
  match s.line.flight with
  | some f =>
    if f.phase = .waitQuiet ∧ SendsNow s then
      { s.line with
        flight := some { f with phase := .trying s.time.now }
        busy := true
        startedAt := s.time.now }
    else s.line
  | none => s.line

/-- The awaited list of a claim that takes a pair: the FIRM entries in conflict with it, which a free pair has in ROUTINE alone, by rising bus,
each with its station, pair and expiry (R41). -/
def yieldsAsked (s : State) (p : Pair) : List Awaited :=
  (List.range s.claims.entries.length).filterMap (fun b =>
    match s.entryAt b with
    | .peer c =>
      if (p.bus = b ∨ p.line = c.line) ∧ c.firm = true then
        some { station := c.station, pair := { bus := b, line := c.line }, expiry := c.expiry }
      else none
    | _ => none)

/-- The claim table without the PEER entries in conflict with a pair. -/
def conflictsRemoved (s : State) (p : Pair) : List Entry :=
  (List.range s.claims.entries.length).map (fun b =>
    match s.entryAt b with
    | .peer c => if p.bus = b ∨ p.line = c.line then .free else .peer c
    | e => e)

/-- A claim has taken a bus and is SENDING with its CLAIM in the queue, or in flight if the transmitter was idle: its FIRM conflicts have gone to
its awaited list, and its TENTATIVE ones are removed (R41). -/
def claimTaken (s : State) (line : Nat) (u : Urgency) (pref : Option Nat) (b : Nat) : State :=
  { s with
    line := noticeEntered s { notice := .claim u { bus := b, line := line }, tag := .plain }
    claims :=
      { s.claims with
        opening := some { line := line, urgency := u, pref := pref, placed := some b }
        entries :=
          (conflictsRemoved s { bus := b, line := line }).set b
            (.own
              { line := line
                urgency := u
                state := .sending
                withdrawn := false
                sentAt := 0
                limit := 0
                renewAt := 0
                retryAt := 0
                awaited := yieldsAsked s { bus := b, line := line }
                disturbances := [] }) } }

/-- A claim is WAITING, with its CLAIM held back or without one (R41). -/
def claimWaiting (s : State) (line : Nat) (u : Urgency) (pref : Option Nat) (claim : List Tx) : State :=
  { s with
    line := { s.line with heldClaims := s.line.heldClaims ++ claim }
    claims := { s.claims with opening := some { line := line, urgency := u, pref := pref, placed := none } } }

/-- A claim has been tested, in an ACTIVE station with no CLAIM held back (R41): it takes the candidate bus, if there is one and the queue takes
its CLAIM; a full queue has the CLAIM held back; and with no candidate the claim waits. -/
def claimTested (s : State) (line : Nat) (u : Urgency) (pref : Option Nat) : State :=
  match s.candidate line u pref with
  | none => claimWaiting s line u pref []
  | some b =>
    if s.line.queue.length < 16 then claimTaken s line u pref b
    else claimWaiting s line u pref [{ notice := .claim u { bus := b, line := line }, tag := .plain }]

/-- The active job is a sweep job in ACCESS, a pointer test of a running sweep that is not yet due again. -/
structure SweepInAccess (s : State) (j : Job) (info : SweepInfo) (d : Nat) : Prop where
  active : s.seq.active = .job j
  staged : s.seq.staged = .empty
  phase : j.phase = .access
  sweep : j.sweep = some info
  pointerTest : info.retest = false
  verdict : j.verdict = none
  state : s.sweep.state = .testing
  once : s.sweep.once = false
  stop : s.sweep.stopPending = false
  due : s.sweep.due = some d
  wait : s.time.clock < d

/-- The sweep job in the active slot has ended NO_BUS: its slot is empty, and the sweep waits with its pointer where it stood (R114, R177,
R181). -/
def sweepLost (s : State) : State :=
  { s with
    seq := { s.seq with active := .empty }
    sweep := { s.sweep with state := .interval, offer := false, guardPassed := false } }

/-- The claim in the making has left its entry of the table and waits again, its awaited pairs back in the table (R45). -/
def claimLost (x : Claims) (o : Opening) (b : Nat) (c : OwnClaim) : Claims :=
  { x with
    opening := some { o with placed := none }
    entries := c.awaited.foldl putBack (x.entries.set b .free) }

/-- A ROUTINE claim has left the table and ended (R45). -/
def claimEnded (x : Claims) (b : Nat) (c : OwnClaim) : Claims :=
  { x with opening := none, entries := c.awaited.foldl putBack (x.entries.set b .free) }

/-- The CLAIM of the claim in the making, waiting in the queue or for its try, has been withdrawn, and the head of the queue has come into flight
in the place of one in flight (R31); no notice is held back. -/
def ClaimStopped (s : State) (y : DeskLine) : Prop :=
  s.line.heldClaims = [] ∧ s.line.heldVerdicts = [] ∧ s.line.heldTickets = []
    ∧ ((∃ before tx after, s.line.flight.isSome = true ∧ s.line.queue = before ++ tx :: after ∧ tx.isClaim = true
          ∧ (∀ z ∈ before ++ after, z.isClaim = false) ∧ y = { s.line with queue := before ++ after })
      ∨ (∃ f, s.line.flight = some f ∧ f.tx.isClaim = true ∧ f.withdrawn = false
          ∧ (f.phase = .waitQuiet ∨ f.phase = .backoff) ∧ (∀ z ∈ s.line.queue, z.isClaim = false)
          ∧ (s.line.queue = [] ∧ y = { s.line with flight := none }
            ∨ ∃ first rest, s.line.queue = first :: rest ∧ y = { broughtIntoFlight s first with queue := rest })))

/-- The claim in the making, if there is one, has ended before it was HELD (R46, R62, R63): a WAITING claim leaves no CLAIM held back; in SENDING
its CLAIM is withdrawn and its entry leaves, or, with its try on the line, CLAIM and entry are left marked (R31), and the CLAIM counts for the end
of the reset that withdrew it (R206); in CONTEST or AWAIT_YIELD its entry leaves with a RELEASE. Its awaited pairs go back into the table. -/
def ClaimEndsUnheld (x w : State) : Prop :=
  x.claims.opening = none ∧ w = x
    ∨ ∃ o, x.claims.opening = some o ∧
      (o.placed = none
          ∧ w =
            { x with
              claims := { x.claims with opening := none }
              line := { x.line with heldClaims := x.line.heldClaims.filter (fun tx => !tx.isClaim) } }
        ∨ ∃ b c, o.placed = some b ∧ x.entryAt b = .own c ∧
          (c.state = .sending
              ∧ (∃ y, ClaimStopped x y ∧ w = { x with claims := claimEnded x.claims b c, line := y })
            ∨ c.state = .sending
              ∧ (∃ f since, x.line.flight = some f ∧ f.tx.isClaim = true ∧ f.withdrawn = false
                  ∧ f.phase = .trying since ∧ (∀ tx ∈ x.line.queue ++ x.line.heldClaims, tx.isClaim = false)
                  ∧ w =
                    { x with
                      claims :=
                        { x.claims with
                          opening := none
                          entries := x.claims.entries.set b (.own { c with withdrawn := true }) }
                      line :=
                        { x.line with
                          flight :=
                            some
                              { f with
                                tx :=
                                  { f.tx with
                                    tag := if x.claims.station = .resetting then .ofReset else f.tx.tag }
                                withdrawn := true } } })
            ∨ (c.state = .contest ∨ c.state = .awaitYield)
              ∧ w =
                ({ x with claims := claimEnded x.claims b c }).offerRelease { bus := b, line := o.line }))

/-- The orders of the queue that end, in queue order: each record enters the completion queue while it has room, and its order leaves; the others
keep their places with their records (R129, R133). The orders that stay, and the records that enter. -/
def ordersEnd (goes : QueuedOrder → Bool) (record : Order → Completion) (ends room : Nat) :
    List QueuedOrder → List QueuedOrder × List Completion
  | [] => ([], [])
  | q :: rest =>
    if goes q = true then
      match room with
      | 0 =>
        let l := ordersEnd goes record (ends + 1) 0 rest
        ({ q with waiting := some { record := record q.order, ended := ends } } :: l.1, l.2)
      | k + 1 =>
        let l := ordersEnd goes record (ends + 1) k rest
        (l.1, record q.order :: l.2)
    else
      let l := ordersEnd goes record ends room rest
      (q :: l.1, l.2)

/-- The sequencer after orders of its queue have ended. -/
def queueEnded (s : State) (goes : QueuedOrder → Bool) (record : Order → Completion) : Sequencer :=
  let l := ordersEnd goes record s.seq.ends (16 - s.seq.completions.length) s.seq.queue
  { s.seq with
    queue := l.1
    completions := s.seq.completions ++ l.2
    ends := s.seq.ends + (s.seq.queue.filter goes).length }

/-- The sequencer after the orders of its queue have ended STATION_ISOLATED. -/
def queueIsolated (s : State) : Sequencer :=
  queueEnded s (fun q => q.waiting.isNone) (fun o => queuedRecord s o .stationIsolated (some 1))

/-- The check and the fields of every notice this station builds read back, at every other station, as that notice from this station
(R25, R26, R208). -/
def Obligations.NoticesReadBack : Prop :=
  ∀ (station : Nat) (n : Notice), station ≤ 15 → n.InRange station →
    (noticeBytes station n).length = 10
      ∧ checkAgrees (noticeBytes station n) = true
      ∧ sourceOf (noticeBytes station n) = station
      ∧ readNotice (noticeBytes station n) = some n

/-- A first try begins 16 symbol times after the end of activity, and not in STARTING; a backoff of (s + 1) × 16 + (n − 1) × 256 symbol times
runs from that end (R19, R21, R23). A line that has gone low again waits. The model's own choices in it: log 2 and log 23. -/
def Obligations.TryBeginsAfterItsQuietTime : Prop :=
  ∀ (s : State) (f : Flight) (c : Instr) (symbols : Nat),
    s.line.flight = some f →
    (c = .quietWaitEnd ∧ f.phase = .waitQuiet ∧ symbols = 16
      ∨ c = .backoffEnd ∧ f.phase = .backoff
        ∧ symbols = (s.straps.station + 1) * 16 + (f.collisions - 1) * 256) →
    (s.line.busy = false → (c = .backoffEnd ∨ s.claims.station ≠ .starting ∧ s.claims.station ≠ .discovering) →
      exec c s = .next
        { s.passTo (s.line.endedAt + symbols * 5) with
          line :=
            { s.line with
              flight := some { f with phase := .trying (max s.time.now (s.line.endedAt + symbols * 5)) }
              busy := true
              startedAt := max s.time.now (s.line.endedAt + symbols * 5) } })
    ∧ ((s.line.busy = true ∨ c = .quietWaitEnd ∧ s.claims.station = .starting) → exec c s = .next s)

/-- A collision backs off a notice met by fewer than eight, with the count raised (R22, R23). The eighth drops the notice with LINE_JAM captured
(R24): a dropped ANNOUNCE begins the join period (R61), and a dropped CLAIM loses its claim, which waits and is tested again, or, ROUTINE, ends
with its sweep job (R42, R45, R114, R181). A notice withdrawn too late leaves with nothing captured (R31), the marked entry of a withdrawn CLAIM
with it and without a RELEASE (R46). The model's own choices in it: log 9, log 11, log 12 and log 23. -/
def Obligations.CollisionBacksOffOrDrops : Prop :=
  ∀ (s : State) (f : Flight) (since : Nat),
    s.line.flight = some f → f.phase = .trying since →
    (f.withdrawn = false → f.collisions < 7 →
      exec .collision s = .next
        { s with
          line :=
            { s.line with flight := some { f with collisions := f.collisions + 1, phase := .backoff } } })
    ∧ (s.line.Empty →
      ∀ (x t : State), x = { s with line := { s.line with flight := none } } →
        t = { s.capture (.lineJam f.tx.notice.kind) with line := { s.line with flight := none } } →
      ((∀ u p, f.tx.notice ≠ .claim u p) → f.tx.notice ≠ .announce →
        (f.withdrawn = false → 7 ≤ f.collisions → exec .collision s = .next t)
        ∧ (f.withdrawn = true → exec .collision s = .next x))
      ∧ (f.tx.notice = .announce → f.tx.tag = .joining → s.claims.station = .joining → f.withdrawn = false →
          7 ≤ f.collisions →
        exec .collision s = .next { t with claims := { s.claims with joinUntil := some (s.time.now + ms 1500) } })
      ∧ (∀ (u : Urgency) (p : Pair), f.tx.notice = .claim u p →
        (f.withdrawn = true →
          ((∀ c, s.entryAt p.bus = .own c → c.withdrawn = false) → exec .collision s = .next x)
          ∧ (∀ c, s.entryAt p.bus = .own c → c.withdrawn = true → c.line = p.line → s.claims.opening = none →
            exec .collision s = .next { x with claims := claimEnded s.claims p.bus c }))
        ∧ (∀ (c : OwnClaim) (o : Opening), f.withdrawn = false → 7 ≤ f.collisions → s.entryAt p.bus = .own c →
            s.claims.opening = some o → o.placed = some p.bus → o.urgency = u →
          (u ≠ .routine →
            exec .collision s = .next ({ t with claims := claimLost s.claims o p.bus c }).claimTest)
          ∧ (∀ j info d, u = .routine → SweepInAccess s j info d →
            exec .collision s = .next (sweepLost { t with claims := claimEnded s.claims p.bus c })))))

/-- A try is SENT 100 symbol times after it began: the line is free, and the next notice of the queue comes into flight and waits for 16 quiet
symbol times (R22, R27). A sent CLAIM opens its contest window or awaits its yields (R42), and a sent ANNOUNCE begins the join period (R61). A
CLAIM that was withdrawn too late sends nothing further for a claim that was defeated, whatever holds its pair by then (R31, R42); for the marked
entry of a claim that was withdrawn, a RELEASE is offered, of the reset if the reset withdrew the CLAIM, and the entry leaves (R46, R63, R206). The
model's own choices in it: log 2, log 11, log 12, log 23 and log 27. -/
def Obligations.SentNoticeTellsItsSource : Prop :=
  ∀ (s : State) (f : Flight) (since now : Nat),
    s.line.flight = some f → f.phase = .trying since → now = max s.time.now (since + 500) →
    s.line.heldClaims = [] → s.line.heldVerdicts = [] → s.line.heldTickets = [] →
    ∀ line : DeskLine,
      line =
        { s.line with
          busy := false
          endedAt := now
          flight :=
            s.line.queue.head?.map (fun tx => { tx := tx, collisions := 0, phase := .waitQuiet, withdrawn := false })
          queue := s.line.queue.tail } →
      ((∀ u p, f.tx.notice ≠ .claim u p) → f.tx.notice ≠ .announce →
        exec .noticeSent s = .next { s.passTo (since + 500) with line := line })
      ∧ (f.tx.notice = .announce → f.tx.tag = .joining → s.claims.station = .joining →
        exec .noticeSent s = .next
          { s.passTo (since + 500) with
            line := line
            claims := { s.claims with joinUntil := some (now + ms 1500) } })
      ∧ (∀ (u : Urgency) (p : Pair), f.tx.notice = .claim u p → f.withdrawn = true →
        ((∀ c, s.entryAt p.bus = .own c → c.withdrawn = true → c.line ≠ p.line) →
          exec .noticeSent s = .next { s.passTo (since + 500) with line := line })
        ∧ (∀ (c : OwnClaim) (queue : List Tx), s.entryAt p.bus = .own c → c.withdrawn = true → c.line = p.line →
            s.claims.opening = none → s.line.queue.length < 16 →
            queue = s.line.queue ++ [{ notice := .release p, tag := f.tx.tag }] →
          exec .noticeSent s = .next
            { s.passTo (since + 500) with
              line :=
                { line with
                  flight :=
                    queue.head?.map
                      (fun tx => { tx := tx, collisions := 0, phase := .waitQuiet, withdrawn := false })
                  queue := queue.tail }
              claims := claimEnded s.claims p.bus c }))
      ∧ (∀ (u : Urgency) (p : Pair) (c : OwnClaim) (o : Opening),
          f.tx.notice = .claim u p → f.withdrawn = false → s.entryAt p.bus = .own c → c.line = p.line →
          c.state = .sending → s.claims.opening = some o → o.placed = some p.bus →
          exec .noticeSent s = .next
            { s.passTo (since + 500) with
              line := line
              claims :=
                { s.claims with
                  entries :=
                    s.claims.entries.set p.bus
                      (.own
                        { c with
                          state := if c.awaited = [] then .contest else .awaitYield
                          sentAt := now
                          limit := now + ms 2000 }) } })

/-- The line goes low, and an abandoned reception ends at the line's last rise with nothing captured: activity that begins before the line has
been quiet moves that end too, whenever it ends, and the quiet time or a backoff counts from it afresh (R20, R21, R23). A heard notice whose check
differs, or that fails the sense test, captures NOTICE_CHECK and does nothing else; one that carries this station's number is a clash, marked in
RESETTING and discarded in ISOLATED (R25, R26, R35, R37). Elsewhere the clash is captured and the station enters ISOLATED: the queued orders end
STATION_ISOLATED, then the job in ACCESS with its claim, a sweep job handing over that outcome (R36, R62, R129). The model's own choices in it:
log 2, log 11, log 12, log 19 and log 23. -/
def Obligations.ReceptionsBadNoticesAndClashes : Prop :=
  (∀ s : State,
    (s.line.busy = false →
      exec .startSymbolTaken s = .next
        { s with line := { s.line with busy := true, startedAt := max s.time.now (s.line.endedAt + 80) } })
    ∧ (s.line.busy = true → exec .startSymbolTaken s = .next s)
    ∧ (s.onLine = false →
      exec .receptionAbandoned s = .next { s with line := { s.line with busy := false, endedAt := s.time.now } })
    ∧ (s.onLine = true → exec .receptionAbandoned s = .next s))
  ∧ ∀ (s : State) (bytes : List Byte), bytes.length = 10 → s.Hears → s.NothingToGrant →
    (checkAgrees bytes = false →
      exec (.noticeReceived bytes) s = .next (s.afterNotice.capture (.noticeCheck none)))
    ∧ (checkAgrees bytes = true → readNotice bytes = none →
      exec (.noticeReceived bytes) s = .next (s.afterNotice.capture (.noticeCheck (some (kindCode bytes)))))
    ∧ (∀ n, checkAgrees bytes = true → readNotice bytes = some n → sourceOf bytes = s.straps.station →
        (s.claims.station = .isolated → exec (.noticeReceived bytes) s = .next s.afterNotice)
        ∧ (s.claims.station = .resetting → s.claims.clashMark = none →
          exec (.noticeReceived bytes) s = .next
            { s.afterNotice with claims := { s.claims with clashMark := some n.kind } })
        ∧ ((s.claims.station = .starting ∨ s.claims.station = .joining ∨ s.claims.station = .active) →
          (s.seq.queue.map (fun q => q.order.tag)).Nodup →
          ∀ x w : State,
            x =
              { s.afterNotice.capture (.stationClash n.kind) with
                claims := { s.claims with station := .isolated, joinUntil := none }
                seq := queueIsolated s.afterNotice } →
            ClaimEndsUnheld x w →
          (s.accessSlot = none → exec (.noticeReceived bytes) s = .next w)
          ∧ (∀ j, s.seq.active = .job j → j.phase = .access → s.seq.staged = .empty →
            (j.sweep = none →
              exec (.noticeReceived bytes) s = .next { w with seq := orderEnded w j .stationIsolated (some 1) })
            ∧ (∀ info, j.sweep = some info →
              exec (.noticeReceived bytes) s = .next
                ({ w with seq := { w.seq with active := .empty } }.sweepOutcome info j.order.line j.verdict
                  .stationIsolated)))))

/-- A notice offered by a block: a renewal HOLD folds into a HOLD already queued for its pair; on an idle transmitter with an empty queue a notice
comes into flight at once, and its first try begins with it if the line is quiet and the station sends (R21); it stands behind the last of a queue
with room; and a full queue refuses it, its block keeping it, but for a renewal whose pair's HOLD it keeps already (R27, R29, R30). An asserting
HOLD stands behind the asserting HOLDs queued and ahead of every other notice, in place of its pair's renewal; a full queue pushes out its youngest
other notice, which its block keeps first of those it holds back, a pushed-out CLAIM losing its claim and a ROUTINE one being discarded (R28, R45,
R114). A place that frees takes the oldest notice held back; either of two blocks may have it; a CLAIM takes its pair if that is still free, over
its conflicts, and is discarded if not, its claim being tested again at once; with no pair free it waits on, or, ROUTINE, is NOT_FREE and ends its
sweep job LINE_BUSY or NO_BUS (R30, R41, R114, R116). The model's own choices in it: log 7, log 9, log 11, log 12 and log 45. -/
def Obligations.OfferedNoticesQueueInOrder : Prop :=
  (∀ (s : State) (tx : Tx),
    (foldsInto tx s.line.queue = true → s.line.flight.isSome = true → s.offer tx = s)
    ∧ (foldsInto tx s.line.queue = false → s.line.flight.isSome = true → s.line.queue.length < 16 →
        s.offer tx = { s with line := { s.line with queue := s.line.queue ++ [tx] } })
    ∧ (s.line.flight = none → s.line.queue = [] → s.offer tx = { s with line := broughtIntoFlight s tx })
    ∧ (16 ≤ s.line.queue.length → ∀ l v k, tx.notice = .verdict l v k →
        s.offer tx = { s with line := { s.line with heldVerdicts := s.line.heldVerdicts ++ [tx] } })
    ∧ (16 ≤ s.line.queue.length → ∀ i l st v, tx.notice = .ticket i l st v →
        s.offer tx = { s with line := { s.line with heldTickets := s.line.heldTickets ++ [tx] } })
    ∧ (16 ≤ s.line.queue.length → foldsInto tx s.line.queue = false →
        ((∃ p, tx.notice = .release p) ∨ (∃ u p, tx.notice = .hold u p false) ∨ tx.notice = .announce) →
      (foldsInto tx s.line.heldClaims = false →
        s.offer tx = { s with line := { s.line with heldClaims := s.line.heldClaims ++ [tx] } })
      ∧ (foldsInto tx s.line.heldClaims = true → s.offer tx = s)))
  ∧ (∀ (s : State) (u : Urgency) (p : Pair) (tx : Tx), tx = { notice := .hold u p true, tag := .plain } →
    ((∃ x ∈ s.line.queue, ∃ v, x.notice = .hold v p true) → s.assertHold u p = s)
    ∧ (s.line.flight = none → s.line.queue = [] → s.assertHold u p = { s with line := broughtIntoFlight s tx })
    ∧ ∀ ahead rest kept : List Tx, s.line.queue = ahead ++ rest →
      (∀ x ∈ ahead, ∃ v q, x.notice = .hold v q true ∧ q ≠ p) → (∀ x ∈ rest, ∀ v q, x.notice ≠ .hold v q true) →
      kept = rest.filter (fun x => !x.holdsPair p) →
      ((ahead ++ kept).length < 16 → s.line.flight.isSome = true →
        s.assertHold u p = { s with line := { s.line with queue := ahead ++ tx :: kept } })
      ∧ (∀ (mid : List Tx) (y : Tx) (x : DeskLine), 16 ≤ (ahead ++ kept).length → kept = mid ++ [y] →
          x = { s.line with queue := ahead ++ tx :: mid } →
        (∀ l v k, y.notice = .verdict l v k →
          s.assertHold u p = { s with line := { x with heldVerdicts := y :: s.line.heldVerdicts } })
        ∧ (∀ i l st v, y.notice = .ticket i l st v →
          s.assertHold u p = { s with line := { x with heldTickets := y :: s.line.heldTickets } })
        ∧ (((∃ q, y.notice = .release q) ∨ (∃ v q m, y.notice = .hold v q m) ∨ y.notice = .announce) →
          s.assertHold u p = { s with line := { x with heldClaims := y :: s.line.heldClaims } })
        ∧ (∀ (v : Urgency) (q : Pair) (o : Opening) (c : OwnClaim), y.notice = .claim v q → s.claims.opening = some o →
            o.placed = some q.bus → o.urgency = v → s.entryAt q.bus = .own c →
          (v ≠ .routine →
            s.assertHold u p =
              { s with
                line := { x with heldClaims := y :: s.line.heldClaims }
                claims := claimLost s.claims o q.bus c })
          ∧ (∀ j info d, v = .routine → SweepInAccess s j info d →
            s.assertHold u p = sweepLost { s with line := x, claims := claimEnded s.claims q.bus c }))))
  ∧ (∀ s : State, (s.line.flight.isSome = true ∨ s.line.queue = []) → s.holders = [] → s.lineMoves = s)
  ∧ (∀ (s : State) (first : Tx) (rest : List Tx) (x : DeskLine),
    s.line.flight = none → s.line.queue = first :: rest → x = broughtIntoFlight s first →
    (s.line.heldClaims = [] → s.line.heldVerdicts = [] → s.line.heldTickets = [] →
      s.lineMoves = { s with line := { x with queue := rest } })
    ∧ (rest.length = 15 →
    (∀ v vs, s.line.heldVerdicts = v :: vs → (∀ w ∈ s.line.heldVerdicts, ∃ l k m, w.notice = .verdict l k m) →
      (s.line.heldClaims = [] → s.line.heldTickets = [] →
        s.lineMoves = { s with line := { x with queue := rest ++ [v], heldVerdicts := vs } })
      ∧ (∀ k ks, s.line.heldClaims = [] → s.line.heldTickets = k :: ks →
          (∃ i l st w, k.notice = .ticket i l st w) →
        ∃ free,
          s.lineMoves = { s with free := free, line := { x with queue := rest ++ [v], heldVerdicts := vs } }
            ∨ s.lineMoves = { s with free := free, line := { x with queue := rest ++ [k], heldTickets := ks } }))
    ∧ (s.line.heldVerdicts = [] → s.line.heldTickets = [] → ∀ h hs, s.line.heldClaims = h :: hs →
      ((∃ p, h.notice = .release p) →
        s.lineMoves = { s with line := { x with queue := rest ++ [h], heldClaims := hs } })
      ∧ (∀ (u : Urgency) (p : Pair) (o : Opening), h.notice = .claim u p → s.claims.opening = some o → o.placed = none →
          o.line = p.line → o.urgency = u →
        (s.pairFree u p = true →
          s.lineMoves =
            { claimTaken s p.line u o.pref p.bus with
              line := { x with queue := rest ++ [h], heldClaims := hs } })
        ∧ (s.pairFree u p = false → hs = [] → (u ≠ .routine ∨ s.candidate p.line u o.pref ≠ none) →
            (s.claims.station = .active ∨ s.candidate p.line u o.pref = none) →
          s.lineMoves = claimTested { s with line := { x with queue := rest, heldClaims := [] } } p.line u o.pref)
        ∧ (∀ (id : SlotId) (j : Job) (info : SweepInfo), u = .routine → s.candidate p.line u o.pref = none →
            s.pairFree u p = false → hs = [] → s.accessSlot = some id → s.slot id = .job j → j.sweep = some info →
            SlotsStand s id →
          s.lineMoves =
            { s with
              line := { x with queue := rest, heldClaims := [] }
              claims := { s.claims with opening := none }
              seq := slotFilled s.seq id .empty }.sweepOutcome info j.order.line j.verdict
                (if ∃ e ∈ s.claims.entries, e.line = some p.line then .lineBusy else .noBus))))))

/-! ## What a job and its head go through, for the chapters that follow -/

/-- The head as it begins a FOREIGN stage (R72, R78). -/
def foreignBegun (h : Head) (now : Nat) : Head :=
  { h with
    state := .foreign
    source := .disconnected
    foreignClear := false
    activity := .sampling
    until_ := now + ms 40
    work := StageWork.none }

/-- The head as it begins a RESIST stage, with the OFF phase of configuration A (R75). -/
def resistBegun (h : Head) (now : Nat) : Head :=
  { h with
    state := .resist
    source := .zero
    config := some .a
    activity := .resistOff
    until_ := now + ms 16
    work := StageWork.none }

/-- The head as it begins a CAPACITY stage with the step of configuration A (R77): the source goes ON with the claim HELD, and the stage stops
otherwise (R69; what the source stays at then is log 21). -/
def capacityBegun (h : Head) (held : Bool) (now : Nat) : Head :=
  if held then
    { h with
      state := .capacity
      source := .on
      config := some .a
      activity := .capacityRecord
      until_ := now + 8192
      work := { StageWork.none with wasOn := true } }
  else { h with state := .onBus, source := .zero, config := none, activity := .idle, work := StageWork.none }

/-- The stage of a kind has been offered to a head idle on its bus (R72, R75, R77): without the foreign-clear mark a RESIST or a CAPACITY is
refused NEEDS_FOREIGN, and the inserted FOREIGN begins in its place (R78, R119). A step of another kind offers none. -/
def stageOffered (s : State) (j : Job) (k : StepKind) : State :=
  if k = .foreign then { s with head := foreignBegun s.head s.time.now }
  else if k = .resist ∨ k = .capacity then
    if s.head.foreignClear = true then
      { s with
        head :=
          if k = .resist then resistBegun s.head s.time.now
          else capacityBegun s.head s.headClaimHeld s.time.now }
    else { withActive s { j with inserted := true } with head := foreignBegun s.head s.time.now }
  else s

/-- The head's part of a release sequence, by what the head is doing (R79, R80): a head still connecting is taken off its bus with no discharge; a
discharge in hand runs to its end and the head then leaves; a relay already opening is left to open; anything else becomes a discharge of 20
ms, after which the head leaves. -/
def headLeaves (h : Head) (now : Nat) : Head :=
  match h.activity with
  | .connecting => { h with source := .disconnected, relay := none, activity := .opening, until_ := now + ms 5 }
  | .discharging _ => { h with source := .disconnected, activity := .discharging true }
  | .opening => h
  | _ =>
    { h with
      state := .discharge
      source := .disconnected
      config := none
      shunt := true
      activity := .discharging true
      until_ := now + ms 20
      work := StageWork.none }

/-- The results of the closing evaluation of a job on the head (R130): those of the readings held, for a desk order with some held, outside a
station reset. -/
def closingResults (s : State) (j : Job) : Option Results :=
  if j.sweep.isNone = true ∧ s.claims.station ≠ .resetting
      ∧ (s.head.heldForeign.isSome = true ∨ s.head.heldResist.isSome = true ∨ s.head.heldCapacity.isSome = true) then
    some (evaluate (s.evalInput j.order.line)).1
  else j.results

/-- The claim of a bus has become RELEASING and its disturbance records are dropped (R52, R54). -/
def claimReleased (x : Claims) (b : Nat) (c : OwnClaim) : Claims :=
  { x with entries := x.entries.set b (.own { c with state := .releasing, disturbances := [] }) }

/-- The release sequence of the active job has begun with the head on its bus: the closing evaluation is made, the claim is RELEASING, and the
head's part runs (R123, R130). -/
def releaseBegun (s : State) (j : Job) (b : Nat) (c : OwnClaim) : State :=
  { s with
    claims := claimReleased s.claims b c
    seq :=
      { s.seq with active := .job { j with results := closingResults s j, phase := .releasing, inserted := false } }
    head := headLeaves s.head s.time.now }

/-- The time of a suspension that ends joins the order's suspended time (R127, R131). -/
def suspensionEnded (j : Job) (clock : Nat) : Job :=
  if j.phase = .suspended then { j with suspended := j.suspended + (clock - j.suspendedAt) } else j

/-- The active job is abandoned at the head: its end status is set and its release sequence has begun (R80, R123). -/
def abandonedAtHead (s : State) (j : Job) (b : Nat) (c : OwnClaim) (status : EndStatus) (failing : Option Nat) : State :=
  releaseBegun s { suspensionEnded j s.time.clock with status := some status, failing := failing } b c

/-- What an evaluation returned has been delivered (R122): nothing without a verdict; for a home line to the Line Record Store, for another
line by a VERDICT notice with the kilohms of the worst resistance. -/
def delivered (s : State) (line : Nat) (r : Results) (v : Option Verdict) : State :=
  match v with
  | none => s
  | some k =>
    if s.isHome line = true then
      s.applyVerdict
        { line := line
          verdict := k
          tester := s.straps.station
          worst := r.resist.map (·.worst)
          length := r.capacity.bind (·.length) }
    else s.offerPlain (.verdict line k (kohmOf (r.resist.map (·.worst))))

/-- The active order is suspended before its step in hand (R126). -/
def suspendedNow (s : State) (j : Job) : State :=
  withActive s { j with phase := .suspended, suspendedAt := s.time.clock }

/-- The step in hand of the active job has begun, if it is no VERDICT step: a measuring stage is offered (R119), a HOLD counts its seconds (R121),
and a RELEASE begins the release sequence (R123). -/
def kindBegun (s : State) (j : Job) (b : Nat) (c : OwnClaim) : State :=
  match (j.order.stepAt j.step).kind with
  | .hold => withActive s { j with holdUntil := s.time.now + ms ((j.order.stepAt j.step).seconds * 1000) }
  | .release => releaseBegun s j b c
  | k => stageOffered (withActive s j) j k

/-- The step in hand of the active job has begun. A VERDICT step takes no time: the readings are evaluated, the verdict is delivered and becomes
the job's, and the next step follows, or the order is suspended before it (R117, R122, R126). -/
def stepBegun (s : State) (j : Job) (b : Nat) (c : OwnClaim) : State :=
  if (j.order.stepAt j.step).kind = .verdict then
    let e := evaluate (s.evalInput j.order.line)
    let i : Job := { j with verdict := if e.2.isSome = true then e.2 else j.verdict, step := j.step + 1 }
    if (j.order.stepAt i.step).marked = true then suspendedNow (delivered s j.order.line e.1 e.2) i
    else kindBegun (delivered s j.order.line e.1 e.2) i b c
  else kindBegun s j b c

/-- The step in hand of the active job is finished: the next begins, or the order is suspended before it (R117, R126). -/
def stepFollows (s : State) (j : Job) (b : Nat) (c : OwnClaim) : State :=
  if (j.order.stepAt (j.step + 1)).marked = true then suspendedNow s { j with step := j.step + 1 }
  else stepBegun s { j with step := j.step + 1 } b c

/-- The steps at a place and after it are no CONNECT, which stands first in every list (R109), and not VERDICT steps both. -/
abbrev PlainFrom (j : Job) (n : Nat) : Prop :=
  (j.order.stepAt n).kind ≠ .connect ∧ (j.order.stepAt (n + 1)).kind ≠ .connect
    ∧ ((j.order.stepAt n).kind = .verdict → (j.order.stepAt (n + 1)).kind ≠ .verdict)

/-- The active job holds the head with the HELD claim of a bus, on which no disturbance record stands. -/
structure OnItsBus (s : State) (j : Job) (b : Nat) (c : OwnClaim) : Prop where
  active : s.seq.active = .job j
  bus : j.bus = some b
  head : s.head.bus = some b
  entry : s.entryAt b = .own c
  held : c.state = .held
  undisturbed : c.disturbances = []

/-- The claim of a bus has become HELD: its first renewal is offered and the next falls 1,000 ms on, and the connect of its job, in the active
slot, is sent on an idle chain (R13, R43, R47, R114). -/
def claimHeld (x : State) (b : Nat) (c : OwnClaim) (j : Job) : State :=
  { ({ x with
        claims :=
          { x.claims with
            opening := none
            entries :=
              x.claims.entries.set b
                (.own { c with state := .held, awaited := [], renewAt := x.time.now + ms 1000 }) } }).offerRenewal
      c.urgency { bus := b, line := c.line } with
    seq :=
      { x.seq with
        active :=
          .job
            { j with
              phase := .connecting
              bus := some b
              accessWait := some (min 4294967295 (x.time.clock - j.order.submitted)) } }
    chain :=
      { x.chain with
        exchange := some { request := .operate { bus := b, line := c.line }, begun := false, limit := x.time.now + ms 5 }
        ops :=
          [{ pair := { bus := b, line := c.line }, kind := .connect, attempt := 1, stage := .acting, abandoned := false }] } }

/-! ## Chapter 3: claims -/

/-- The rank of an urgency, PRIORITY highest (R39). -/
def rankOf : Urgency → Nat
  | .routine => 0
  | .demand => 1
  | .priority => 2

/-- Precedence goes to the higher urgency, and between equal urgencies to the lower-numbered station; of two claims of different stations
exactly one has it (R39). -/
def Obligations.PrecedenceIsByUrgencyThenStation : Prop :=
  ∀ (u u' : Urgency) (station station' : Nat),
    (precedes u station u' station' = true
        ↔ rankOf u' < rankOf u ∨ rankOf u = rankOf u' ∧ station < station')
      ∧ (station ≠ station' → precedes u station u' station' = !precedes u' station' u station)

/-- A pair is free exactly as R41 says, entry by entry; ANY takes the lowest bus whose pair is free without a ROUTINE conflict, and if there
is none the lowest whose pair is free (R38, R41; the reading of ROUTINE conflict is log 9). -/
def Obligations.FreePairIsTheLowestAllowed : Prop :=
  ∀ (s : State) (line : Nat) (u : Urgency),
    (∀ bus, s.pairFree u { bus := bus, line := line } = true ↔
      ∀ b < s.claims.entries.length,
        match s.entryAt b with
        | .free => True
        | .own c => b ≠ bus ∧ c.line ≠ line
        | .peer c =>
          b = bus ∨ c.line = line →
            if c.firm = true then u ≠ .routine ∧ c.urgency = .routine
            else precedes c.urgency c.station u s.straps.station = false)
    ∧ (∀ bus, s.pairClean u { bus := bus, line := line } = true ↔
        s.pairFree u { bus := bus, line := line } = true
          ∧ ∀ b < s.claims.entries.length, ∀ c, s.entryAt b = .peer c → b = bus ∨ c.line = line → c.firm = false)
    ∧ (∀ bus, s.candidate line u none = some bus ↔
        bus < s.claims.entries.length
          ∧ (s.pairClean u { bus := bus, line := line } = true
                ∧ (∀ b < bus, s.pairClean u { bus := b, line := line } = false)
              ∨ s.pairFree u { bus := bus, line := line } = true
                ∧ (∀ b < s.claims.entries.length, s.pairClean u { bus := b, line := line } = false)
                ∧ (∀ b < bus, s.pairFree u { bus := b, line := line } = false)))
    ∧ (∀ pref bus, s.candidate line u (some pref) = some bus ↔
        bus = pref ∧ bus < s.claims.entries.length ∧ s.pairFree u { bus := bus, line := line } = true)

/-- The contest window closes 40 ms after the CLAIM was SENT: the claim becomes HELD, its first renewal is offered and the next falls 1,000 ms
on, and its job's connect is sent on an idle chain to a unit in OK (R13, R43, R47, R114). On a unit that is not, nothing is operated: the job ends
UNIT_DOWN, a sweep job handing over that outcome, and its claim leaves with a RELEASE (R15, R54, R123). The arbiter sends an OPERATE only while
its pair's claim is HELD; any other is removed unsent, its connect ends WITHDRAWN and the job's release goes to the chain (R8). The model's own
choices in it: log 2 and log 6. -/
def Obligations.ContestWindowEndsHeld : Prop :=
  (∀ (s : State) (b : Nat) (c : OwnClaim) (p : Pair) (rest : List ChainRequest),
    s.chain.exchange = none → s.chain.discovery = none → s.entryAt b = .own c → p = { bus := b, line := c.line } →
    s.chain.jobGroup = .operate p :: rest →
    (c.state = .held → c.withdrawn = false →
      s.pump =
        { s with
          chain :=
            { s.chain with
              jobGroup := rest
              exchange := some { request := .operate p, begun := false, limit := s.time.now + ms 5 } } })
    ∧ (∀ (j : Job) (o : ChainOp), c.state ≠ .held → rest = [] → s.chain.ops = [o] → o.pair = p →
        s.seq.active = .job j → j.bus = some b → j.order.line = c.line → j.nothingOperated = false →
        s.head.state = .offBus →
      (j.phase = .connecting →
        s.pump =
          { withActive s { j with phase := .releasing, inserted := false } with
            claims := { s.claims with entries := s.claims.entries.set b (.own { c with disturbances := [] }) }
            chain := releaseSent { s.chain with jobGroup := [] } p s.time.now })
      ∧ (j.phase = .releasing →
        s.pump = { s with chain := releaseSent { s.chain with jobGroup := [] } p s.time.now })))
  ∧ ∀ (s : State) (o : Opening) (b : Nat) (c : OwnClaim) (j : Job),
    s.claims.opening = some o → o.placed = some b → s.entryAt b = .own c → b < s.claims.entries.length →
    c.state = .contest → c.withdrawn = false → s.ChainIdle → s.chain.ops = [] →
    s.seq.active = .job j → j.phase = .access → j.bus = none → j.order.line = c.line →
    ∀ t, t = s.passTo (c.sentAt + ms 40) →
    ((s.unitAt (unitOf c.line)).state = .ok → exec .contestWindowEnd s = .next (claimHeld t b c j))
    ∧ ((s.unitAt (unitOf c.line)).state ≠ .ok → (s.head.state = .offBus ∨ s.head.bus ≠ some b) →
        s.claims.station ≠ .resetting → s.seq.staged = .empty →
        ∀ x : State,
          x =
            (({ t with
                claims :=
                  { s.claims with opening := none, entries := s.claims.entries.set b .free } }).offerRenewal
              c.urgency { bus := b, line := c.line }).offerRelease { bus := b, line := c.line } →
      (j.sweep = none →
        exec .contestWindowEnd s = .next
          { x with
            seq :=
              orderEnded x
                { j with
                  bus := some b
                  accessWait := some (min 4294967295 (x.time.clock - j.order.submitted)) } .unitDown (some 1) })
      ∧ (∀ info, j.sweep = some info →
        exec .contestWindowEnd s = .next
          ({ x with seq := { x.seq with active := .empty } }.sweepOutcome info j.order.line j.verdict .unitDown)))

/-- The AWAIT_YIELD limit passes with the awaited list not empty: a DEMAND or PRIORITY claim leaves its pair, returns to WAITING, and its
awaited pairs go back into the table (R44, R45). The awaited entry whose expiry comes first lapses with PEER_LAPSED: a claim still SENDING, or
with others left, goes on as it stands; with none left an AWAIT_YIELD claim inside its window contests for the rest of it, and past its 40 ms it
becomes HELD, its renewals begin and its job's connect is sent (R13, R42, R44, R47, R60, R114). The model's own choices in it: log 2, log 6, log
10 and log 11. -/
def Obligations.AwaitedYieldsRunOut : Prop :=
  ∀ (s : State) (b : Nat) (c : OwnClaim), s.entryAt b = .own c → b < s.claims.entries.length → b < 4 →
    (∀ o : Opening, s.claims.opening = some o → o.placed = some b → c.state = .awaitYield → c.awaited ≠ [] →
        o.urgency ≠ .routine →
      exec .awaitYieldLimit s = .next
        { s.passTo c.limit with
          claims :=
            { s.claims with
              opening := some { o with placed := none }
              entries := c.awaited.foldl putBack (s.claims.entries.set b .free) } })
    ∧ (∀ (a : Awaited) (rest left : List Awaited) (x : State) (put : OwnClaim → State), c.awaited = a :: rest →
        (∀ y ∈ rest, a.expiry ≤ y.expiry) →
        left = rest.filter (fun y => !(y.station == a.station && y.pair == a.pair)) →
        x = (s.passTo a.expiry).post (.peerLapsed a.station a.pair.bus a.pair.line) →
        (∀ c', put c' = { x with claims := { s.claims with entries := s.claims.entries.set b (.own c') } }) →
      (s.NothingToGrant →
        ((left ≠ [] ∨ c.state ≠ .awaitYield) →
          exec (.awaitedEntryExpiry b) s = .next (put { c with awaited := left }))
        ∧ (left = [] → c.state = .awaitYield → max s.time.now a.expiry < c.sentAt + ms 40 →
          exec (.awaitedEntryExpiry b) s = .next (put { c with awaited := [], state := .contest })))
      ∧ (∀ j, left = [] → c.state = .awaitYield → c.sentAt + ms 40 ≤ max s.time.now a.expiry → c.withdrawn = false →
          s.seq.active = .job j → j.phase = .access → j.bus = none → j.order.line = c.line → s.ChainIdle →
          s.chain.ops = [] → (s.unitAt (unitOf c.line)).state = .ok →
        exec (.awaitedEntryExpiry b) s = .next (claimHeld x b c j)))

/-- Every 1,000 ms a claim in HELD, RELEASING or STUCK offers a renewal HOLD (R47). The first disturbance record to reach its deadline ends there
(R52); with the last of a claim the RUNNING job on an idle head offers its measuring stage again, a FOREIGN going before it, and a job that is
SUSPENDED, READY or on another step, or whose head is in a DISCHARGE, changes nothing (R78, R82, R124). A PEER entry whose expiry passes is removed
with PEER_LAPSED (R60), and a WAITING claim is tested, which takes the pair it finds free, its CLAIM queued or on an idle transmitter in flight
(R21, R27, R41); the join period ends with the station ACTIVE (R61). The model's own choices in it: log 2, log 9 and log 21. -/
def Obligations.ClaimTimersRunOut : Prop :=
  ∀ s : State,
    (∀ (b : Nat) (c : OwnClaim), s.entryAt b = .own c → b < s.claims.entries.length → b < 4 →
      ((c.state = .held ∨ c.state = .releasing ∨ c.state = .stuck) →
        exec (.holdInterval b) s = .next
          (({ s.passTo c.renewAt with
              claims :=
                { s.claims with
                  entries := s.claims.entries.set b (.own { c with renewAt := c.renewAt + ms 1000 }) } }).offerRenewal
            c.urgency { bus := b, line := c.line }))
      ∧ (∀ (d : Disturbance) (rest left : List Disturbance) (t : State), c.disturbances = d :: rest →
          (∀ x ∈ rest, d.deadline ≤ x.deadline) →
          left = rest.filter (fun x => !(x.station == d.station && x.pair == d.pair)) →
          t =
            { s.passTo d.deadline with
              claims := { s.claims with entries := s.claims.entries.set b (.own { c with disturbances := left }) } } →
        ((left ≠ [] ∨ s.head.state ≠ .onBus ∨ ∀ j, s.seq.active = .job j → j.phase ≠ .running) →
          exec (.disturbanceDeadline b) s = .next t)
        ∧ (∀ j, left = [] → s.head.state = .onBus → s.seq.active = .job j → j.phase = .running → j.bus = some b →
            s.head.bus = some b → s.head.hazardFound = false →
          exec (.disturbanceDeadline b) s = .next (stageOffered t j (j.order.stepAt j.step).kind))))
    ∧ (∀ (b : Nat) (c : PeerClaim) (x : State), b < 4 → s.entryAt b = .peer c →
        x =
          { (s.passTo c.expiry).post (.peerLapsed c.station b c.line) with
            claims := { s.claims with entries := s.claims.entries.set b .free } } →
      ((∀ o, s.claims.opening = some o →
          o.placed ≠ none ∨ s.claims.station ≠ .active ∨ s.line.heldClaims.any Tx.isClaim = true) →
        exec (.peerEntryExpiry b) s = .next x)
      ∧ (∀ o, s.claims.opening = some o → o.placed = none → s.claims.station = .active →
          s.line.heldClaims.any Tx.isClaim = false → (s.line.flight.isSome = true ∨ s.line.queue = []) →
        exec (.peerEntryExpiry b) s = .next (claimTested x o.line o.urgency o.pref)))
    ∧ (∀ t, s.claims.joinUntil = some t → s.claims.station = .joining →
      exec .joinPeriodEnd s = .next
        { s.passTo t with claims := { s.claims with station := .active, joinUntil := none } })

/-- A heard notice that passes the filter is posted as a HEARD report with its bytes 0 to 7 (R197, R208). -/
def offeredToFilter (x : State) (station : Nat) (n : Notice) : State :=
  if x.reports.filter.passes n = true then x.post (.heard ((noticeBytes station n).take 8)) else x

/-- The claims of this station that an ANNOUNCE calls up, each as its urgency and pair, by rising bus. -/
def standingClaims (s : State) : List (Urgency × Pair) :=
  (List.range s.claims.entries.length).filterMap (fun b =>
    match s.entryAt b with
    | .own c =>
      if c.state = .held ∨ c.state = .releasing ∨ c.state = .stuck then
        some (c.urgency, { bus := b, line := c.line })
      else none
    | _ => none)

/-- A heard CLAIM, HOLD or RELEASE of another station that no own claim stands against changes the PEER entries alone, and expires 3,000 ms on; an
ANNOUNCE offers one renewal HOLD for each claim in HELD, RELEASING or STUCK (R48); a TICKET for another's line changes the foreign ticket cache
alone, and one for a home line nothing; a VERDICT for a home line is applied with its kilohms as the worst resistance, and one for another's line
changes nothing (R33, R56 to R59, R141, R170). Each that passes the filter is then posted as a HEARD report (R197). The foreign ticket cache after
a notice, by the table of R170: an entry of its ident is removed by CLOSED and otherwise updated at the back, the line's other entry leaving;
without one, CLOSED changes nothing, and a new entry goes to the back in place of the line's or, in a full cache, of the front one. The model's
own choices in it: log 2, log 13, log 20 and log 36. -/
def Obligations.HeardNoticeGoesToItsBlock : Prop :=
  (∀ (cache : List ForeignTicket) (e : ForeignTicket),
    (∀ before x after, cache = before ++ x :: after → x.ident = e.ident → (∀ y ∈ before ++ after, y.ident ≠ e.ident) →
      (e.state = .closed → cacheHear cache e = before ++ after)
      ∧ (e.state ≠ .closed → (∀ y ∈ before ++ after, y.line ≠ e.line) → cacheHear cache e = before ++ after ++ [e])
      ∧ (∀ front y back, e.state ≠ .closed → before ++ after = front ++ y :: back → y.line = e.line →
          (∀ z ∈ front ++ back, z.line ≠ e.line) →
        cacheHear cache e = front ++ back ++ [e]))
    ∧ ((∀ x ∈ cache, x.ident ≠ e.ident) →
      (e.state = .closed → cacheHear cache e = cache)
      ∧ (∀ before x after, e.state ≠ .closed → cache = before ++ x :: after → x.line = e.line →
          (∀ y ∈ before ++ after, y.line ≠ e.line) → cache.length ≤ 32 →
        cacheHear cache e = before ++ after ++ [e])
      ∧ (e.state ≠ .closed → (∀ x ∈ cache, x.line ≠ e.line) → cache.length < 32 → cacheHear cache e = cache ++ [e])
      ∧ (∀ x rest, e.state ≠ .closed → (∀ y ∈ cache, y.line ≠ e.line) → cache = x :: rest → cache.length = 32 →
        cacheHear cache e = rest ++ [e])))
  ∧ ∀ (s : State) (station : Nat) (n : Notice),
    s.Hears → s.NothingToGrant → station ≤ 15 → station ≠ s.straps.station → n.InRange station →
    ∀ (t : State) (c : Instr), t = s.afterNotice → c = .noticeReceived (noticeBytes station n) →
      (s.claims.opening = none → (∀ e ∈ s.claims.entries, e.own? = none) →
        (∀ u p, n = .claim u p →
          exec c s = .next
            (offeredToFilter
              { t with
                claims :=
                  { s.claims with
                    entries :=
                      hearClaim { station := station, urgency := u, pair := p, firm := false } (t.time.now + ms 3000)
                        s.claims.entries } }
              station n))
        ∧ (∀ u p m, n = .hold u p m →
          exec c s = .next
            (offeredToFilter
              { t with
                claims :=
                  { s.claims with
                    entries :=
                      hearClaim { station := station, urgency := u, pair := p, firm := true } (t.time.now + ms 3000)
                        s.claims.entries } }
              station n))
        ∧ (∀ p, n = .release p →
          (∀ q, s.entryAt p.bus = .peer q → q.station = station → q.line = p.line →
            exec c s = .next
              (offeredToFilter
                { t with claims := { s.claims with entries := s.claims.entries.set p.bus .free } } station n))
          ∧ ((∀ q, s.entryAt p.bus = .peer q → q.station ≠ station ∨ q.line ≠ p.line) →
            exec c s = .next (offeredToFilter t station n))))
      ∧ (n = .announce →
        exec c s = .next
          (offeredToFilter ((standingClaims s).foldl (fun x y => x.offerRenewal y.1 y.2) t) station n))
      ∧ (∀ i l st v, n = .ticket i l st v →
        (s.isHome l = false →
          exec c s = .next
            (offeredToFilter
              { t with
                tickets :=
                  { s.tickets with
                    cache :=
                      cacheHear s.tickets.cache
                        { ident := i, line := l, state := st, heardAt := t.time.clock / 1000 } } }
              station n))
        ∧ (s.isHome l = true → exec c s = .next (offeredToFilter t station n)))
      ∧ (∀ l v k, n = .verdict l v k →
        (s.isHome l = false → exec c s = .next (offeredToFilter t station n))
        ∧ (s.isHome l = true →
          exec c s = .next
            (offeredToFilter
              (t.applyVerdict
                { line := l
                  verdict := v
                  tester := station
                  worst :=
                    some
                      (if k = 0 then { ohms := 10, mark := .atOrBelow }
                       else if k = 65535 then { ohms := 999999999, mark := .openLine }
                       else { ohms := k * 1000, mark := .none })
                  length := none })
              station n)))

/-- The PEER entries after a CLAIM (`firm` off) or a HOLD (`firm` on) of a station for a pair that no OWN entry conflicts with, entry by
entry (R57, R58): it is placed if it prevails over every conflicting entry of other stations, which then leave. A HOLD that does not leaves the
table unchanged; a CLAIM that does not is still set against the entries of its own station (log 13). -/
def Obligations.PeerEntriesFollowClaimsAndHolds : Prop :=
  ∀ (es : List Entry) (station expiry : Nat) (u : Urgency) (p : Pair) (firm : Bool),
    p.bus < es.length → ownConflict p es = false →
    ∀ (es' : List Entry) (wins : Prop),
      es' = hearClaim { station := station, urgency := u, pair := p, firm := firm } expiry es →
      (wins ↔ ∀ b < es.length, ∀ c, es.getD b .free = .peer c → c.station ≠ station →
        (b = p.bus ∨ c.line = p.line) →
        if firm = true then c.firm = false ∨ precedes u station c.urgency c.station = true
        else c.firm = false ∧ precedes u station c.urgency c.station = true) →
      es'.length = es.length
        ∧ (wins →
            es'.getD p.bus .free
                = .peer { station := station, line := p.line, urgency := u, firm := firm, expiry := expiry }
              ∧ ∀ b < es.length, b ≠ p.bus →
                  es'.getD b .free =
                    match es.getD b .free with
                    | .peer c => if c.line = p.line then .free else .peer c
                    | e => e)
        ∧ (¬ wins → firm = true → es' = es)
        ∧ (¬ wins → firm = false → ∀ b < es.length,
            es'.getD b .free =
              match es.getD b .free with
              | .peer c =>
                if c.station ≠ station then .peer c
                else if b = p.bus ∧ c.line = p.line then
                  .peer { c with urgency := u, firm := firm, expiry := expiry }
                else if b = p.bus ∨ c.line = p.line then .free
                else .peer c
              | e => e)

/-- The head after DISTURBED (R81): an idle or connecting head loses the foreign-clear mark, a discharge or an opening relay runs on, and a stage
stops, with a discharge of 20 ms if its source has been ON. -/
def headAfterDisturbance (h : Head) (now : Nat) : Head :=
  match h.activity with
  | .idle => { h with foreignClear := false }
  | .connecting => { h with foreignClear := false }
  | .discharging _ => h
  | .opening => h
  | _ =>
    { h with
      state := if h.work.wasOn = true then .discharge else .onBus
      source := .disconnected
      config := none
      shunt := h.work.wasOn
      foreignClear := false
      activity := if h.work.wasOn = true then .discharging false else .idle
      until_ := if h.work.wasOn = true then now + ms 20 else h.until_
      work := StageWork.none }

/-- The job of a slot has been handed DISTURBED (R124). -/
def disturbedJob (j : Job) : Job := { j with disturbed := true, inserted := false }

/-- An awaited list that a station and pair join, or where they have their expiry refreshed (R42, R43, R44). -/
def awaitedWith (l : List Awaited) (station : Nat) (p : Pair) (expiry : Nat) : List Awaited :=
  if ∃ a ∈ l, a.station = station ∧ a.pair = p then
    l.map (fun a => if a.station = station ∧ a.pair = p then { a with expiry := expiry } else a)
  else l ++ [{ station := station, pair := p, expiry := expiry }]

/-- The claims after a lost claim has left them and the notice that defeated it has been taken into the table (R45). -/
def defeatTaken (x : Claims) (h : HeardClaim) (now : Nat) : Claims :=
  { x with entries := hearClaim h (now + ms 3000) x.entries }

/-- What this station's claims do with a conflicting notice of another station, conflicting by its bus or by the line alone (R38). A claim in HELD,
RELEASING or STUCK asserts against a CLAIM and stands (R49), but a ROUTINE claim in HELD yields to a DEMAND or PRIORITY one, its sweep job
abandoned (R50). A claim in HELD keeps its pair against a HOLD it has precedence over, records the disturbance for 500 ms and disturbs its job and
the job's head, wherever the job stands (R51, R52, R81, R124); it loses its pair to any other HOLD, its job ending ACCESS_LOST at the head or at
the chain (R51, R125). A claim in RELEASING or STUCK lets a HOLD pass (R53). A claim in the making is lost to a CLAIM with precedence and to a HOLD
it may not ask to yield, its own CLAIM withdrawn, the notice taken into the table, and the claim tested again or, ROUTINE, ended with its sweep
job; a ROUTINE HOLD joins the awaited list of any other, awaited entries are refreshed, and a RELEASE takes its entry off the list, the last one
making an AWAIT_YIELD claim contest or HELD (R42 to R45). The model's own choices in it: log 2, log 6, log 9, log 11, log 12, log 13, log 31
and log 46. -/
def Obligations.StandingClaimAnswersConflicts : Prop :=
  ∀ (s : State) (b station : Nat) (c : OwnClaim) (u : Urgency) (p : Pair),
    s.Hears → s.NothingToGrant → station ≤ 15 → station ≠ s.straps.station → p.bus ≤ 3 → p.line ≤ 16383 →
    (∀ n : Notice, s.reports.filter.passes n = false) → s.entryAt b = .own c → c.withdrawn = false →
    (p.bus = b ∨ p.line = c.line) → (∀ b' < s.claims.entries.length, b' ≠ b → (s.entryAt b').own? = none) →
    ∀ (t : State) (mine : Pair) (hear : Notice → Host.Outcome State Fault Refusal) (put : OwnClaim → Claims),
      t = s.afterNotice → mine = { bus := b, line := c.line } →
      (∀ n, hear n = exec (.noticeReceived (noticeBytes station n)) s) →
      (∀ c', put c' = { s.claims with entries := s.claims.entries.set b (.own c') }) →
      (s.claims.opening = none →
        ((c.state = .held ∧ (c.urgency ≠ .routine ∨ u = .routine) ∨ c.state = .releasing ∨ c.state = .stuck) →
          s.line.flight = none → s.line.queue = [] →
          hear (.claim u p) = .next
            { t with
              line :=
                { t.line with
                  flight :=
                    some
                      { tx := { notice := .hold c.urgency mine true, tag := .plain }
                        collisions := 0
                        phase := .waitQuiet
                        withdrawn := false } } })
        ∧ (∀ (n : Notice) (status : EndStatus) (failing : Job → Option Nat), c.state = .held →
            (n = .claim u p ∧ c.urgency = .routine ∧ u ≠ .routine ∧ status = .yielded ∧ (∀ j, failing j = none)
              ∨ (∃ m, n = .hold u p m) ∧ precedes c.urgency s.straps.station u station = false
                ∧ (∀ d ∈ c.disturbances, d.station ≠ station ∨ d.pair ≠ p) ∧ status = .accessLost
                ∧ (∀ j, failing j = some j.step)) →
          (∀ j, s.seq.active = .job j → j.bus = some b → j.order.line = c.line → s.head.bus = some b →
              s.head.state ≠ .offBus →
            hear n = .next (abandonedAtHead t j b c status (failing j)))
          ∧ (∀ j, (∀ i, s.seq.active = .job i → i.bus ≠ some b ∨ i.order.line ≠ c.line) → s.seq.staged = .job j →
              j.phase = .ready → j.bus = some b → j.order.line = c.line → j.nothingOperated = false → s.ChainIdle →
              s.chain.ops = [] →
            hear n = .next
              { t with
                claims := claimReleased s.claims b c
                chain := releaseSent s.chain mine t.time.now
                seq :=
                  { s.seq with
                    staged :=
                      .job
                        { j with
                          status := some status
                          failing := failing j
                          phase := .releasing
                          inserted := false } } }))
        ∧ (∀ (m : Bool) (x : State), c.state = .held →
          ((∃ d ∈ c.disturbances, d.station = station ∧ d.pair = p) → hear (.hold u p m) = .next t)
          ∧ (precedes c.urgency s.straps.station u station = true →
              (∀ d ∈ c.disturbances, d.station ≠ station ∨ d.pair ≠ p) →
              x =
                { t with
                  claims :=
                    put
                      { c with
                        disturbances :=
                          c.disturbances ++ [{ station := station, pair := p, deadline := t.time.now + ms 500 }] } } →
            (s.slotOf mine = none → hear (.hold u p m) = .next x)
            ∧ (∀ j, s.seq.active = .job j → j.bus = some b → j.order.line = c.line →
              hear (.hold u p m) = .next
                { withActive x (disturbedJob j) with
                  head :=
                    if s.head.bus = some b ∧ s.head.state ≠ .offBus then headAfterDisturbance s.head t.time.now
                    else s.head })
            ∧ (∀ j, (∀ i, s.seq.active = .job i → i.bus ≠ some b ∨ i.order.line ≠ c.line) → s.seq.staged = .job j →
                j.bus = some b → j.order.line = c.line →
              hear (.hold u p m) = .next { x with seq := { s.seq with staged := .job (disturbedJob j) } })))
        ∧ ((c.state = .releasing ∨ c.state = .stuck) → ∀ m, hear (.hold u p m) = .next t))
      ∧ (∀ o : Opening, s.claims.opening = some o → o.placed = some b → c.disturbances = [] →
        ∀ (known yields wins : Prop),
          (known ↔ ∃ a ∈ c.awaited, a.station = station ∧ a.pair = p) →
          (yields ↔ u = .routine ∧ c.urgency ≠ .routine) →
          (wins ↔ precedes u station c.urgency s.straps.station = true) →
        (∀ (n : Notice) (h : HeardClaim) (y : DeskLine), (c.state = .awaitYield → ¬ known) →
            (n = .claim u p ∧ h = { station := station, urgency := u, pair := p, firm := false } ∧ wins
              ∨ (∃ m, n = .hold u p m) ∧ h = { station := station, urgency := u, pair := p, firm := true } ∧ ¬ yields) →
            (c.state = .sending ∧ ClaimStopped t y
              ∨ (c.state = .contest ∨ c.state = .awaitYield) ∧ y = t.line) →
          (o.urgency ≠ .routine →
            hear n = .next
              ({ t with line := y, claims := defeatTaken (claimLost s.claims o b c) h t.time.now }).claimTest)
          ∧ (∀ j info d, o.urgency = .routine → SweepInAccess t j info d →
            hear n = .next
              (sweepLost { t with line := y, claims := defeatTaken (claimEnded s.claims b c) h t.time.now })))
        ∧ (¬ wins → (c.state = .sending ∨ c.state = .contest ∨ c.state = .awaitYield ∧ ¬ known) →
          hear (.claim u p) = .next t)
        ∧ (∀ n expiry, expiry = t.time.now + ms 3000 →
            (c.state = .awaitYield ∧ known ∧ (n = .claim u p ∨ ∃ m, n = .hold u p m)
              ∨ (c.state = .sending ∨ c.state = .awaitYield) ∧ yields ∧ (∃ m, n = .hold u p m)) →
          hear n = .next { t with claims := put { c with awaited := awaitedWith c.awaited station p expiry } })
        ∧ (∀ m, c.state = .contest → yields →
          hear (.hold u p m) = .next
            { t with
              claims :=
                put
                  { c with
                    awaited := awaitedWith c.awaited station p (t.time.now + ms 3000)
                    state := .awaitYield
                    limit := t.time.now + ms 2000 } })
        ∧ (∀ left : List Awaited, known → p.bus < s.claims.entries.length →
            (∀ q, s.entryAt p.bus = .peer q → q.station ≠ station ∨ q.line ≠ p.line) →
            left = c.awaited.filter (fun a => !(a.station == station && a.pair == p)) →
          ((c.state = .sending ∨ c.state = .awaitYield ∧ left ≠ []) →
            hear (.release p) = .next { t with claims := put { c with awaited := left } })
          ∧ (c.state = .awaitYield → left = [] → t.time.now < c.sentAt + ms 40 →
            hear (.release p) = .next { t with claims := put { c with awaited := [], state := .contest } })
          ∧ (∀ j, c.state = .awaitYield → left = [] → c.sentAt + ms 40 ≤ t.time.now → s.seq.active = .job j →
              j.phase = .access → j.bus = none → j.order.line = c.line → s.ChainIdle → s.chain.ops = [] →
              (s.unitAt (unitOf c.line)).state = .ok →
            hear (.release p) = .next (claimHeld t b c j))))

/-! ## Chapter 4: the measurement head -/

/-- The head comes onto its bus 25 ms after the connect was taken, with its marks clear, and the READY job begins its second step at once, a RESIST
or a CAPACITY behind an inserted FOREIGN (R66, R72, R78, R117 to R119); a discharge ends with the shunt removed, and the bus relay is released or
the head is back on its bus, where a RUNNING job has its stage offered again unless a disturbance record stands (R79, R81, R82); 5 ms after its
release the contacts are open and the head is OFF_BUS, the job's release is asked for at the chain, and a job in the staged slot that has not begun
its own release changes places with it, taking the free head at once if it is READY (R67, R83, R112, R118, R123). The model's own choices in it:
log 2 and log 6. -/
def Obligations.HeadConnectsDischargesAndLeaves : Prop :=
  ∀ (s : State) (j : Job) (b now : Nat), s.seq.active = .job j → j.bus = some b → now = max s.time.now s.head.until_ →
    (∀ c, s.head.activity = .connecting → OnItsBus s j b c → j.phase = .ready → PlainFrom j (j.step + 1) →
        s.NothingToGrant →
      exec .headConnected s = .next
        (stepFollows
          { s.passTo s.head.until_ with
            head :=
              { s.head with
                state := .onBus
                source := .disconnected
                shunt := false
                foreignClear := false
                hazardFound := false
                activity := .idle } }
          { j with phase := .running } b c))
    ∧ (s.head.activity = .discharging true →
      exec .dischargeEnd s = .next
        { s.passTo s.head.until_ with
          head := { s.head with shunt := false, relay := none, activity := .opening, until_ := now + ms 5 } })
    ∧ (∀ t : State, s.head.activity = .discharging false →
        t =
          { s.passTo s.head.until_ with head := { s.head with shunt := false, state := .onBus, activity := .idle } } →
      ((j.phase ≠ .running ∨ s.disturbed (some b) = true) → exec .dischargeEnd s = .next t)
      ∧ (∀ c, j.phase = .running → s.head.bus = some b → s.head.hazardFound = false → s.entryAt b = .own c →
          c.disturbances = [] →
        exec .dischargeEnd s = .next (stageOffered t j (j.order.stepAt j.step).kind)))
    ∧ (∀ (p : Pair) (x : State) (freed : Job), s.head.activity = .opening → j.phase = .releasing →
        j.nothingOperated = false → (s.chain.exchange.isSome = true ∨ s.ChainIdle) →
        p = { bus := b, line := j.order.line } → (∀ o ∈ s.chain.ops, o.pair ≠ p) → freed = { j with headFreed := true } →
        x = { s.passTo s.head.until_ with head := Head.offBus, chain := releaseAsked s.chain p now } →
      ((∀ k, s.seq.staged = .job k → k.phase = .releasing) →
        exec .busRelayOpen s = .next (withActive x freed))
      ∧ (∀ k, s.seq.staged = .job k → k.phase ≠ .releasing →
        (k.phase ≠ .ready →
          exec .busRelayOpen s = .next { x with seq := { s.seq with active := .job k, staged := .job freed } })
        ∧ (∀ b', k.phase = .ready → k.bus = some b' →
          exec .busRelayOpen s = .next
            { x with
              seq := { s.seq with active := .job k, staged := .job freed }
              head := headTaken k b' now })))

/-- A FOREIGN stage ends 40 ms after it began. With no pair beyond a hazard limit its readings are held with the foreign-clear mark, and the job's
next step follows: a stage, a HOLD, a VERDICT delivered at once, the release sequence, or a suspension before a marked step (R72, R117, R119, R121
to R123, R126, R130); after an inserted FOREIGN the refused stage begins (R75, R77, R78). With a pair beyond one, the hazard-found mark is set,
the job ends HAZARD_ABORT with the pairs that tripped and its release sequence begins with the discharge (R73, R79, R120, R123). The model's own
choice in it: log 2. -/
def Obligations.ForeignStageClearsOrAborts : Prop :=
  ∀ (s : State) (j : Job) (b : Nat) (tg rg tr : List Int) (r : ForeignReadings),
    tg.length = 80 → rg.length = 80 → tr.length = 80 → r = foreignReadings tg rg tr →
    s.head.activity = .sampling → s.head.state = .foreign → s.head.bus = some b → s.seq.active = .job j →
    j.bus = some b → j.phase = .running → s.NothingToGrant →
    (∀ (c : OwnClaim) (x : State), r.tripped.any = false → OnItsBus s j b c → s.head.hazardFound = false →
        x =
          { s.passTo s.head.until_ with
            head :=
              { s.head with
                state := .onBus
                activity := .idle
                heldForeign := some r
                foreignClear := true
                work := StageWork.none } } →
      (j.inserted = false → PlainFrom j (j.step + 1) →
        exec (.foreignStageEnd tg rg tr) s = .next (stepFollows x j b c))
      ∧ (j.inserted = true → ((j.order.stepAt j.step).kind = .resist ∨ (j.order.stepAt j.step).kind = .capacity) →
        exec (.foreignStageEnd tg rg tr) s = .next
          (stageOffered (withActive x { j with inserted := false }) { j with inserted := false }
            (j.order.stepAt j.step).kind)))
    ∧ (r.tripped.any = true →
      ∃ (t : State) (i : Job),
        exec (.foreignStageEnd tg rg tr) s = .next t
          ∧ t.seq.active = .job i ∧ i.phase = .releasing ∧ i.status = some .hazardAbort ∧ i.failing = some j.step
          ∧ i.hazard = some (.foreign r.tripped) ∧ i.verdict = some .hazard ∧ i.order = j.order
          ∧ t.head =
              { s.head with
                state := .discharge
                source := .disconnected
                config := none
                shunt := true
                heldForeign := some r
                foreignClear := false
                hazardFound := true
                activity := .discharging true
                until_ := max s.time.now s.head.until_ + ms 20
                work := StageWork.none })

/-- A RESIST configuration (R75, R76): its OFF phase turns the source ON only with the claim HELD and the line foreign-clear (R69), and
otherwise the stage stops; its settle lasts 50 ms and its ON reading 16 ms; A and B are followed by the next OFF phase, and C ends the stage
with the readings of all three held, the job's next step following (R117, R119, R121 to R123, R126). The model's own choices in it: log 2 and log
21. -/
def Obligations.ResistStageRunsItsConfigurations : Prop :=
  ∀ (s : State) (current voltage : List Int) (k : HeadConfig) (now : Nat),
    current.length = 16 → voltage.length = 16 → s.head.state = .resist → s.head.config = some k →
    now = max s.time.now s.head.until_ →
    ∀ (i v : List Int), i = recordRun 60000000 current → v = recordRun 250000 voltage →
      (s.head.activity = .resistOff → |meanOf v| ≤ 60000 →
        exec (.resistOffPhaseEnd current voltage) s = .next
          (if s.headClaimHeld = true ∧ s.head.foreignClear = true then
            { s.passTo s.head.until_ with
              head :=
                { s.head with
                  source := .on
                  activity := .resistSettle
                  until_ := now + ms 50
                  work :=
                    { s.head.work with
                      off := some (meanOf i, meanOf v)
                      overrange := s.head.work.overrange || (runOver 60000000 i || runOver 250000 v)
                      wasOn := true } } }
           else
            { s.passTo s.head.until_ with
              head := { s.head with state := .onBus, config := none, activity := .idle, work := StageWork.none } }))
      ∧ (s.head.activity = .resistSettle →
        exec .resistSettleEnd s = .next
          { s.passTo s.head.until_ with head := { s.head with activity := .resistOn, until_ := now + ms 16 } })
      ∧ (∀ (off : Int × Int) (next : HeadConfig), s.head.activity = .resistOn → s.head.work.off = some off →
          (k = .a ∧ next = .b ∨ k = .b ∧ next = .c) →
          exec (.resistOnReadingEnd current) s = .next
            { s.passTo s.head.until_ with
              head :=
                { s.head with
                  source := .zero
                  config := some next
                  activity := .resistOff
                  until_ := now + ms 16
                  work :=
                    { s.head.work with
                      off := none
                      resist :=
                        s.head.work.resist ++ [{ iOff := off.1, vOff := off.2, iOn := meanOf i }]
                      overrange := s.head.work.overrange || runOver 60000000 i } } })
      ∧ (∀ (off : Int × Int) (a c : ResistReading) (j : Job) (b : Nat) (own : OwnClaim), s.head.activity = .resistOn →
          s.head.work.off = some off → k = .c → s.head.work.resist = [a, c] → OnItsBus s j b own → j.phase = .running →
          s.head.hazardFound = false → PlainFrom j (j.step + 1) → s.NothingToGrant →
          exec (.resistOnReadingEnd current) s = .next
            (stepFollows
              { s.passTo s.head.until_ with
                head :=
                  { s.head with
                    state := .onBus
                    source := .disconnected
                    config := none
                    heldResist :=
                      some
                        { a := a
                          b := c
                          c := { iOff := off.1, vOff := off.2, iOn := meanOf i }
                          overrange := s.head.work.overrange || runOver 60000000 i }
                    activity := .idle
                    work := StageWork.none } }
              j b own))

/-- An OFF lead voltage beyond 60,000 mV is a hazard found in RESIST: the job ends HAZARD_ABORT with the configuration and the voltage, and its
release sequence begins with the discharge (R76, R79, R120). The model's own choice in it: log 2. -/
def Obligations.OffPhaseHazardAborts : Prop :=
  ∀ (s : State) (current voltage : List Int) (k : HeadConfig) (j : Job) (b : Nat),
    current.length = 16 → voltage.length = 16 → s.head.state = .resist → s.head.config = some k →
    s.head.activity = .resistOff → s.head.bus = some b → s.seq.active = .job j → j.bus = some b →
    j.phase = .running → s.NothingToGrant →
    ∀ (v : List Int), v = recordRun 250000 voltage → 60000 < |meanOf v| →
      ∃ (t : State) (i : Job),
        exec (.resistOffPhaseEnd current voltage) s = .next t
          ∧ t.seq.active = .job i ∧ i.phase = .releasing ∧ i.status = some .hazardAbort ∧ i.failing = some j.step
          ∧ i.hazard = some (.resist k (meanOf v)) ∧ i.verdict = some .hazard ∧ i.order = j.order
          ∧ t.head =
              { s.head with
                state := .discharge
                source := .disconnected
                config := none
                shunt := true
                foreignClear := false
                hazardFound := true
                activity := .discharging true
                until_ := max s.time.now s.head.until_ + ms 20
                work := StageWork.none }

/-- A CAPACITY configuration (R77): its record of 256 samples is followed by 20 ms of drain with the shunt applied; the next configuration's
step turns the source ON only with the claim HELD and the line foreign-clear (R69), and otherwise the stage stops; C ends the stage with the
three runs held, the job's next step following (R117, R119, R121 to R123, R126). The model's own choices in it: log 2 and log 21. -/
def Obligations.CapacityStageRunsItsConfigurations : Prop :=
  ∀ (s : State) (current : List Int) (k : HeadConfig) (now : Nat),
    current.length = 256 → s.head.state = .capacity → s.head.config = some k → now = max s.time.now s.head.until_ →
    (s.head.activity = .capacityRecord →
      exec (.capacityRecordEnd current) s = .next
        { s.passTo s.head.until_ with
          head :=
            { s.head with
              source := .zero
              shunt := true
              activity := .capacityDrain
              until_ := now + ms 20
              work :=
                { s.head.work with
                  runs := s.head.work.runs ++ [recordRun 60000000 current]
                  overrange := s.head.work.overrange || runOver 60000000 (recordRun 60000000 current) } } })
    ∧ (∀ next, s.head.activity = .capacityDrain → (k = .a ∧ next = .b ∨ k = .b ∧ next = .c) →
        exec .capacityDrainEnd s = .next
          (if s.headClaimHeld = true ∧ s.head.foreignClear = true then
            { s.passTo s.head.until_ with
              head :=
                { s.head with
                  shunt := false
                  config := some next
                  source := .on
                  activity := .capacityRecord
                  until_ := now + 8192
                  work := { s.head.work with wasOn := true } } }
           else
            { s.passTo s.head.until_ with
              head :=
                { s.head with
                  shunt := false
                  state := .onBus
                  config := none
                  activity := .idle
                  work := StageWork.none } }))
    ∧ (∀ (x y z : List Int) (j : Job) (b : Nat) (c : OwnClaim), s.head.activity = .capacityDrain → k = .c →
        s.head.work.runs = [x, y, z] → OnItsBus s j b c → j.phase = .running → s.head.hazardFound = false →
        PlainFrom j (j.step + 1) → s.NothingToGrant →
        exec .capacityDrainEnd s = .next
          (stepFollows
            { s.passTo s.head.until_ with
              head :=
                { s.head with
                  state := .onBus
                  source := .disconnected
                  config := none
                  shunt := false
                  heldCapacity := some { a := x, b := y, c := z, overrange := s.head.work.overrange }
                  activity := .idle
                  work := StageWork.none } }
            j b c))

/-! ## Chapter 5: the loop arithmetic -/

/-- `q` is the quotient of `n` by `d` rounded half away from zero: no whole number is nearer, and of two equally near it is the one farther from
zero (R87). -/
def IsRounded (n d q : Int) : Prop := |2 * (n - q * d)| ≤ d ∧ (|2 * (n - q * d)| = d → |n| < |q * d|)

/-- What a FOREIGN stage makes of the 80 voltages met on a pair: samples kept within the range, their mean, the root of their mean square
deviation, and whether a hazard limit is passed (R70, R73, R88, R89). -/
def PairReduced (met samples : List Int) (dc : Int) (ac : Nat) (trips : Bool) : Prop :=
  samples = met.map (fun x => max (-250000) (min 250000 x))
    ∧ IsRounded samples.sum 80 dc
    ∧ 80 * (ac : Int) ^ 2 ≤ (samples.map (fun x => (x - dc) ^ 2)).sum
    ∧ (samples.map (fun x => (x - dc) ^ 2)).sum < 80 * ((ac : Int) + 1) ^ 2
    ∧ (trips = true ↔ 60000 < |dc| ∨ 50000 < ac ∨ ∃ x ∈ met, 250000 ≤ |x|)

/-- Quotients are rounded half away from zero (R87), and a FOREIGN stage's six values, the pairs beyond a hazard limit and the OVERRANGE flag are
formed from its 240 samples (R70, R73, R88, R89). -/
def Obligations.ForeignReductionAndHazardTest : Prop :=
  (∀ n d q : Int, 0 < d → (roundDiv n d = q ↔ IsRounded n d q))
    ∧ ∀ (tg rg tr : List Int) (r : ForeignReadings),
      tg.length = 80 → rg.length = 80 → tr.length = 80 → r = foreignReadings tg rg tr →
      PairReduced tg r.samplesTG r.values.dcTG r.values.acTG r.tripped.tg
        ∧ PairReduced rg r.samplesRG r.values.dcRG r.values.acRG r.tripped.rg
        ∧ PairReduced tr r.samplesTR r.values.dcTR r.values.acTR r.tripped.tr
        ∧ (r.overrange = true ↔ ∃ x ∈ tg ++ rg ++ tr, 250000 ≤ |x|)

/-- The conductance of a configuration, in pS, and whether it flags OVERRANGE (R90, R91). -/
def IsConductance (setting net g : Int) (flag : Bool) : Prop :=
  ∃ drop : Int, IsRounded net 500 drop ∧
    ((setting - drop < 100 → g = 100000000000 ∧ flag = true)
      ∧ (100 ≤ setting - drop → net ≤ 0 → g = 0 ∧ flag = false)
      ∧ (100 ≤ setting - drop → 0 < net →
          ∃ q : Int, IsRounded (net * 1000000) (setting - drop) q ∧ g = min 100000000000 q
            ∧ (flag = true ↔ 100000000000 < q)))

/-- One pair value of the delta solve: half a sum, rounded, from 0 to the limit (R92). -/
def IsHalf (limit sum x : Int) : Prop := ∃ h : Int, IsRounded sum 2 h ∧ x = min limit (max 0 h)

/-- The resistance reported for a pair's conductance (R93). -/
def IsResistance (g : Int) (r : Resistance) : Prop :=
  (g < 1000 → r = { ohms := 999999999, mark := .openLine })
    ∧ (100000000000 ≤ g → r = { ohms := 10, mark := .atOrBelow })
    ∧ (1000 ≤ g → g < 100000000000 →
        r.mark = .none ∧ ∃ q : Int, IsRounded 1000000000000 g q ∧ (r.ohms : Int) = min 999999999 q)

/-- A resistance is no greater than another: OPEN is greater than every other, and of two equal values the at-or-below one counts as the less
(R94). -/
def NoGreater (x y : Resistance) : Prop :=
  y.mark = .openLine
    ∨ x.mark ≠ .openLine ∧ (x.ohms < y.ohms ∨ x.ohms = y.ohms ∧ (x.mark = .atOrBelow ∨ y.mark ≠ .atOrBelow))

/-- The resistances of held RESIST readings: net currents, conductances, the delta solve, the three resistances, and the least of them as the
worst resistance, with its kilohms (R90 to R94). -/
def Obligations.ResistancesFollowFromTheReadings : Prop :=
  ∀ (setting : Int) (r : ResistReadings) (x : ResistResults) (flag : Bool),
    10000 ≤ setting → setting ≤ 100000 → solveResist setting r = (x, flag) →
    (∃ (a b c tr tg rg : Int) (fa fb fc : Bool),
      IsConductance setting (r.a.iOn - r.a.iOff) a fa ∧ IsConductance setting (r.b.iOn - r.b.iOff) b fb
        ∧ IsConductance setting (r.c.iOn - r.c.iOff) c fc ∧ flag = (fa || fb || fc)
        ∧ IsHalf 100000000000 (a + b - c) tr ∧ IsHalf 100000000000 (a + c - b) tg
        ∧ IsHalf 100000000000 (b + c - a) rg
        ∧ IsResistance tr x.tr ∧ IsResistance tg x.tg ∧ IsResistance rg x.rg)
    ∧ (x.worst = x.tr ∨ x.worst = x.tg ∨ x.worst = x.rg)
    ∧ NoGreater x.worst x.tr ∧ NoGreater x.worst x.tg ∧ NoGreater x.worst x.rg
    ∧ kohmOf none = 65535
    ∧ (x.worst.mark = .openLine → kohmOf (some x.worst) = 65535)
    ∧ (x.worst.mark = .atOrBelow → kohmOf (some x.worst) = 0)
    ∧ (x.worst.mark = .none → kohmOf (some x.worst) = min 65535 (x.worst.ohms / 1000))

/-- The capacitance of a configuration, in pF, and whether it flags OVERRANGE: the charge above the mean of the last 16 samples, over the source
setting (R95). -/
def IsCapacitance (setting : Int) (run : List Int) (c : Int) (flag : Bool) : Prop :=
  ∃ final q : Int, IsRounded (run.drop 240).sum 16 final
    ∧ IsRounded ((run.sum - 256 * final) * 100) setting q
    ∧ c = min 10000000 (max 0 q) ∧ (flag = true ↔ 10000000 < q)

/-- The capacitances, imbalance and length of held CAPACITY readings (R92, R95 to R97). -/
def Obligations.CapacitancesFollowFromTheReadings : Prop :=
  ∀ (setting : Int) (perKm : Nat) (r : CapacityReadings) (x : CapacityResults) (flag : Bool),
    10000 ≤ setting → setting ≤ 100000 → 20000 ≤ perKm → perKm ≤ 80000 →
    r.a.length = 256 → r.b.length = 256 → r.c.length = 256 → solveCapacity setting perKm r = (x, flag) →
    (∃ (a b c : Int) (fa fb fc : Bool),
      IsCapacitance setting r.a a fa ∧ IsCapacitance setting r.b b fb ∧ IsCapacitance setting r.c c fc
        ∧ flag = (fa || fb || fc)
        ∧ IsHalf 10000000 (a + b - c) x.tr ∧ IsHalf 10000000 (a + c - b) x.tg ∧ IsHalf 10000000 (b + c - a) x.rg)
    ∧ x.imbalance ≤ 100
    ∧ (x.tg = 0 → x.rg = 0 → x.imbalance = 100)
    ∧ (0 < max x.tg x.rg →
        x.imbalance * max x.tg x.rg ≤ min x.tg x.rg * 100
          ∧ min x.tg x.rg * 100 < (x.imbalance + 1) * max x.tg x.rg)
    ∧ (x.tr < 1000 → x.length = none)
    ∧ (1000 ≤ x.tr → ∃ m : Nat, m * perKm ≤ x.tr * 1000 ∧ x.tr * 1000 < (m + 1) * perKm
        ∧ x.length = some (min 65535 m))

/-- A resistance is at or below a threshold, OPEN never (R93, R102). -/
def AtOrBelow (r : Resistance) (threshold : Nat) : Prop := r.mark ≠ .openLine ∧ r.ohms ≤ threshold

/-- The test of each class (R100 to R104); CLEAR asks only that some readings are held (R99). -/
def ClassApplies (hazardFound : Bool) (r : Results) (st : Settings) : Verdict → Prop
  | .hazard => hazardFound = true
  | .foreign =>
    ∃ v, r.foreign = some v
      ∧ ((st.foreign : Int) < |v.dcTG| ∨ (st.foreign : Int) < |v.dcRG| ∨ (st.foreign : Int) < |v.dcTR|
        ∨ st.foreign < v.acTG ∨ st.foreign < v.acRG ∨ st.foreign < v.acTR)
  | .loop => ∃ x, r.resist = some x ∧ AtOrBelow x.tr st.loop
  | .ground => ∃ x, r.resist = some x ∧ (AtOrBelow x.tg st.ground ∨ AtOrBelow x.rg st.ground)
  | .lowInsulation =>
    ∃ x, r.resist = some x
      ∧ (AtOrBelow x.tr st.insulation ∨ AtOrBelow x.tg st.insulation ∨ AtOrBelow x.rg st.insulation)
  | .openLead => ∃ c, r.capacity = some c ∧ 1000 ≤ c.tr ∧ c.imbalance < st.imbalance
  | .marginal =>
    ∃ x, r.resist = some x
      ∧ (AtOrBelow x.tr (2 * st.insulation) ∨ AtOrBelow x.tg (2 * st.insulation)
        ∨ AtOrBelow x.rg (2 * st.insulation))
  | .clear => r.foreign ≠ none ∨ r.resist ≠ none ∨ r.capacity ≠ none

/-- The verdict is the first class of the ranking that applies, and there is none when nothing is held and no hazard was found (R98 to R104); the
bucket weight of each class (R106). -/
def Obligations.VerdictIsTheFirstClassThatApplies : Prop :=
  (∀ (i : EvalInput) (r : Results) (v : Option Verdict), evaluate i = (r, v) →
    (∀ k, v = some k ↔
        ClassApplies i.hazardFound r i.settings k
          ∧ ∀ k' : Verdict, k'.code < k.code → ¬ ClassApplies i.hazardFound r i.settings k')
      ∧ r.foreign = i.foreign.map (·.values)
      ∧ r.resist = i.resist.map (fun x => (solveResist i.setting x).1)
      ∧ r.capacity = i.capacity.map (fun x => (solveCapacity i.setting i.perKm x).1)
      ∧ (r.overrange = true ↔
          (∃ x, i.foreign = some x ∧ x.overrange = true)
            ∨ (∃ x, i.resist = some x ∧ (x.overrange = true ∨ (solveResist i.setting x).2 = true))
            ∨ (∃ x, i.capacity = some x ∧ (x.overrange = true ∨ (solveCapacity i.setting i.perKm x).2 = true))))
    ∧ [Verdict.hazard, .foreign, .loop, .ground, .lowInsulation, .openLead, .marginal, .clear].map Verdict.weight
        = [8, 6, 2, 6, 3, 4, 1, 0]

/-! ## Chapter 6: orders -/

/-- The walk steps over a line without counting it: its class is excluded, or not selected in this pass (R179). -/
abbrev PassedOver (s : State) (line : Nat) : Prop :=
  (s.recordOf line).repetition = 0 ∨ s.sweep.pass % (s.recordOf line).repetition ≠ (s.recordOf line).offset

/-- The walk steps over a line and counts it as a skip: selected, but with the hazard mark or on a unit that is not OK (R179). -/
abbrev Skipped (s : State) (line : Nat) : Prop :=
  ¬ PassedOver s line ∧ ((s.recordOf line).hazard = true ∨ (s.unitAt (line / 256)).state ≠ .ok)

/-- The state with its sweep changed and a SWEEP_STATE report posted of the sweep as it then stands (R188). -/
def sweepMoved (s : State) (x : Sweep) (cause : SweepCause) : State :=
  { s with sweep := x }.post (.sweepState cause x.state x.pointer x.pass x.skip)

/-- A sweep STOPPED by the desk (R185). -/
def stoppedSweep (x : Sweep) : Sweep :=
  { x with state := .stopped, due := none, offer := false, guardPassed := false, stopPending := false }

/-- The pointer has stepped past the last home line (R180): it stands on the first, PASS_END is posted with the pass just ended and its skip
count, and the pass is counted. -/
def sweepWrapped (q : State) : State :=
  { q.post
      (.sweepState .passEnd q.sweep.state (q.straps.base * 256) q.sweep.pass q.sweep.skip) with
    sweep :=
      { q.sweep with pointer := q.straps.base * 256, pass := (q.sweep.pass + 1) % 65536, skip := 0 } }

/-- A sweep job as it enters its slot: a retest or a pointer test (R116). -/
def sweepTest (s : State) (line : Nat) (retest : Bool) : Job :=
  newJob
    { tag := 0
      line := line
      urgency := .routine
      pref := none
      volts := 50
      steps :=
        [.connect, .foreign, .resist, .capacity, .verdict, .release].map
          (fun k => { kind := k, marked := false, seconds := 0 })
      submitted := s.time.clock }
    (some { retest := retest, pass := s.sweep.pass })

/-- A slot can take a new job, and the active job is not one that waits READY for a head that is free (R112). -/
abbrev SlotFree (s : State) : Prop :=
  s.seq.active = .empty
    ∨ s.seq.staged = .empty ∧ 2 ≤ s.straps.buses
      ∧ ∀ j, s.seq.active = .job j → j.phase = .ready → s.head.state ≠ .offBus

/-- The slots with a new job: in the active slot, or behind it in the staged one; it changes slots at once with an active job that has handed
HEAD_FREE (R112). -/
def slotTaken (q : Sequencer) (k : Job) : Sequencer :=
  match q.active with
  | .empty => { q with active := .job k }
  | .donePending _ => { q with staged := .job k }
  | .job j =>
    if j.phase = .releasing ∧ j.headFreed = true then { q with active := .job k, staged := .job j }
    else { q with staged := .job k }

/-- The first queued order that has not ended and whose line no entry carries (R113). -/
abbrev OrderReady (s : State) (before after : List QueuedOrder) (o : Order) : Prop :=
  s.seq.queue = before ++ { order := o, waiting := none } :: after
    ∧ (∀ x ∈ before, x.waiting ≠ none ∨ ∃ e ∈ s.claims.entries, e.line = some x.order.line)
    ∧ (∀ x ∈ before ++ after, x.order.tag ≠ o.tag) ∧ ∀ e ∈ s.claims.entries, e.line ≠ some o.line

/-- A queued order has been taken and its claim requested (R41, R113). -/
def orderTaken (s : State) (queue : List QueuedOrder) (o : Order) : State :=
  { claimTested s o.line o.urgency o.pref with seq := slotTaken { s.seq with queue := queue } (newJob o none) }

/-- The sweep offer is taken, of those that stand, ahead of the queued orders with its guard passed, and otherwise while no order that has not
ended is queued and no desk order's job is in a slot (R113). -/
abbrev OfferTaken (s : State) : Prop :=
  s.sweep.offer = true ∧ s.sweepInSlot = false
    ∧ (s.sweep.guardPassed = true ∨ (∀ q ∈ s.seq.queue, q.waiting ≠ none) ∧ s.deskInSlot = false)

/-- No ticket's retest is overdue (R162). -/
abbrev NoneOverdue (s : State) : Prop := ∀ x ∈ s.tickets.table, ∀ m ∈ x.retestDue, s.time.clock / 1000 < m

/-- The overdue ticket whose retest is due earliest, the first in the table among equals (R162). -/
abbrev FirstOverdue (s : State) (before after : List Ticket) (k : Ticket) (m : Nat) : Prop :=
  s.tickets.table = before ++ k :: after ∧ k.retestDue = some m ∧ m ≤ s.time.clock / 1000
    ∧ (∀ x ∈ before, ∀ n ∈ x.retestDue, m < n) ∧ ∀ x ∈ after, ∀ n ∈ x.retestDue, m ≤ n

/-- A sweep job has been made and its claim requested (R113, R116, R177): the sweep is TESTING, but stays in HALTED_COMPLETE (R184), and its next
test is due one interval on. With no pair free the claim is refused NOT_FREE and the job ends LINE_BUSY or NO_BUS by its line (R40, R114). -/
def sweepTaken (s : State) (line : Nat) (retest : Bool) (x : Sweep) : State :=
  let q : State :=
    { s with
      sweep :=
        { x with
          state := if s.sweep.state = .haltedComplete then .haltedComplete else .testing
          due := some (s.time.clock + s.sweep.interval * 1000)
          offer := false
          guardPassed := false } }
  if (s.candidate line .routine none).isSome = true then
    { claimTested q line .routine none with seq := slotTaken s.seq (sweepTest s line retest) }
  else
    q.sweepOutcome { retest := retest, pass := s.sweep.pass } line none
      (if ∃ e ∈ s.claims.entries, e.line = some line then .lineBusy else .noBus)

/-- A sweep job whose claim is refused ends with no other job coming into its slot. -/
abbrev MayBeRefused (s : State) (line : Nat) : Prop :=
  (s.candidate line .routine none).isSome = true ∨ s.seq.staged = .empty

/-- The offer has been taken and no job made. The walk went round a range of excluded lines, with its wrap (R179, R180), or was halted at the wrap
by stop-on-complete (R180); the once option found its line not to be tested, stepped over it with a skip and stopped the sweep (R187); or a
complete halt found no retest overdue, its due time then one interval on (R184; log 38). -/
def NothingTaken (s t : State) : Prop :=
  s.sweep.state = .seeking ∧ s.sweep.once = false ∧ (NoneOverdue s ∨ s.sweep.pointerOwed = true)
      ∧ s.sweep.pointer ≤ s.straps.lastLine
      ∧ (s.sweep.onComplete = false
            ∧ (∀ line, s.straps.firstLine ≤ line → line ≤ s.straps.lastLine → (s.recordOf line).repetition = 0)
            ∧ t =
              { sweepWrapped s with
                sweep :=
                  { (sweepWrapped s).sweep with
                    state := .interval
                    pointer := s.sweep.pointer
                    due := some (s.time.clock + s.sweep.interval * 1000)
                    offer := false
                    guardPassed := false
                    pointerOwed := false } }
          ∨ s.sweep.onComplete = true ∧ s.sweep.stopPending = false
            ∧ (∀ line, s.sweep.pointer ≤ line → line ≤ s.straps.lastLine → (s.recordOf line).repetition = 0)
            ∧ t =
              sweepMoved (sweepWrapped s)
                { (sweepWrapped s).sweep with
                  state := .haltedComplete
                  due := some (s.time.clock + s.sweep.interval * 1000)
                  offer := false
                  guardPassed := false
                  pointerOwed := false } .completeHalt)
    ∨ (s.sweep.state = .seeking ∧ s.sweep.once = true
      ∧ ((s.recordOf s.sweep.pointer).hazard = true ∨ (s.unitAt (s.sweep.pointer / 256)).state ≠ .ok)
      ∧ ∃ q : State,
        (s.sweep.pointer < s.straps.lastLine
            ∧ q = { s with sweep := { s.sweep with pointer := s.sweep.pointer + 1, skip := s.sweep.skip + 1 } }
          ∨ s.straps.lastLine ≤ s.sweep.pointer
            ∧ q = sweepWrapped { s with sweep := { s.sweep with skip := s.sweep.skip + 1 } })
        ∧ t = sweepMoved q { stoppedSweep q.sweep with pointerOwed := false } .onceDone)
    ∨ (s.sweep.state = .haltedComplete ∧ NoneOverdue s
      ∧ t =
        { s with
          sweep :=
            { s.sweep with
              due := some (s.time.clock + s.sweep.interval * 1000)
              offer := false
              guardPassed := false
              pointerOwed := false } })

/-- The first queued order that has not ended and whose line no entry carries is taken into a free slot (R112, R113), but for a sweep offer with
its guard passed, which goes ahead (R176); with no order waiting and no desk job in a slot any offer is taken. A retest of the overdue ticket comes
first, and in HALTED_COMPLETE nothing else is tested (R162, R178, R184). Otherwise the walk steps from the pointer over the lines not to be tested,
counting its skips, to the line it tests (R179); with the once option on it tests the line at the pointer whatever its class and the pass (R187). A
take that makes no job leaves the slot to the first order (R177, R178, R180). The job's claim is requested at once and tested (R41, R116): it takes
the candidate bus over its conflicts, awaiting the FIRM ROUTINE ones, its CLAIM queued, or on an idle transmitter in flight, with its first try
begun on a quiet line (R21, R27), or has its CLAIM held back by a full queue; with no pair free a DEMAND or PRIORITY claim waits, and a ROUTINE one
is refused, its job ending LINE_BUSY or NO_BUS (R40, R114). No access starts while one is in hand or the station is not ACTIVE (R113). The model's
own choices in it: log 3, log 9, log 32 and log 38. -/
def Obligations.AccessStartTakesTheFirstOrder : Prop :=
  ∀ s : State,
    ((s.claims.station ≠ .active ∨ s.accessBusy = true) → exec .accessStart s = .next s)
    ∧ (s.claims.station = .active → s.accessBusy = false → s.line.heldClaims.any Tx.isClaim = false →
        (s.line.flight.isSome = true ∨ s.line.queue = []) → SlotFree s →
      (∀ (before after : List QueuedOrder) (o : Order), OrderReady s before after o →
          (s.sweep.offer = false ∨ s.sweep.guardPassed = false ∨ s.sweepInSlot = true) →
        exec .accessStart s = .next (orderTaken s (before ++ after) o))
      ∧ (OfferTaken s → s.straps.firstLine ≤ s.sweep.pointer → 1 ≤ s.straps.units →
        (∀ (before after : List Ticket) (k : Ticket) (m : Nat), FirstOverdue s before after k m →
            (s.sweep.state = .haltedComplete
              ∨ s.sweep.state = .seeking ∧ s.sweep.once = false ∧ s.sweep.pointerOwed = false) →
            MayBeRefused s k.line →
          exec .accessStart s = .next (sweepTaken s k.line true s.sweep))
        ∧ (∀ (p k : Nat), s.sweep.state = .seeking → s.sweep.once = false →
            (NoneOverdue s ∨ s.sweep.pointerOwed = true) →
            p = s.sweep.pointer + k → p ≤ s.straps.lastLine →
            (∀ i < k, PassedOver s (s.sweep.pointer + i) ∨ Skipped s (s.sweep.pointer + i)) →
            ¬ PassedOver s p → ¬ Skipped s p → MayBeRefused s p →
          exec .accessStart s = .next
            (sweepTaken s p false
              { s.sweep with
                pointer := p
                skip :=
                  s.sweep.skip + ((List.range k).filter (fun i => decide (Skipped s (s.sweep.pointer + i)))).length
                pointerOwed := false }))
        ∧ (s.sweep.state = .seeking → s.sweep.once = true →
            (s.recordOf s.sweep.pointer).hazard = false → (s.unitAt (s.sweep.pointer / 256)).state = .ok →
            MayBeRefused s s.sweep.pointer →
          exec .accessStart s = .next
            (sweepTaken s s.sweep.pointer false { s.sweep with pointerOwed := false }))
        ∧ (∀ t, NothingTaken s t →
          ((∀ q ∈ s.seq.queue, q.waiting ≠ none ∨ ∃ e ∈ s.claims.entries, e.line = some q.order.line) →
            exec .accessStart s = .next t)
          ∧ (∀ (before after : List QueuedOrder) (o : Order), OrderReady s before after o →
            exec .accessStart s = .next (orderTaken t (before ++ after) o)))))

/-- The limits of an order: an access wait limit that passes while it is queued ends it LINE_BUSY or NO_BUS by its line (R115), and one that passes
while it is in ACCESS ends it so with its claim (R46); a HOLD step ends after its duration, and the order is suspended before a marked step or
begins a second HOLD whatever its head does, and begins any other step with its head idle on its bus (R117, R119, R121 to R123, R126); a suspension
that reaches its limit ends the order SUSPEND_EXPIRED at its marked step, its release sequence beginning at the head (R127, R130). The model's own
choices in it: log 2, log 11, log 12, log 21 and log 30. -/
def Obligations.OrderLimitsRunOut : Prop :=
  ∀ s : State, s.time.InRange →
    (∀ (before after : List QueuedOrder) (o : Order) (t : State),
      s.seq.queue = before ++ { order := o, waiting := none } :: after →
      (∀ x ∈ before ++ after, x.order.tag ≠ o.tag) → s.seq.completions.length < 16 → o.tag < 65536 →
      o.submitted + s.settings.accessWait * 1000 ≤ 4294967295000 →
      t = s.passClockTo (o.submitted + s.settings.accessWait * 1000) →
      exec (.accessWaitLimit o.tag) s = .next
        { t with
          seq :=
            { s.seq with
              queue := before ++ after
              completions :=
                s.seq.completions
                  ++ [queuedRecord t o
                      (if ∃ e ∈ s.claims.entries, e.line = some o.line then .lineBusy else .noBus) (some 1)]
              ends := s.seq.ends + 1 } })
    ∧ (∀ (j : Job) (t w : State), s.seq.active = .job j → j.phase = .access → j.sweep = none → s.seq.staged = .empty →
        (∀ q ∈ s.seq.queue, q.order.tag ≠ j.order.tag) → s.claims.station = .active → j.order.tag < 65536 →
        j.order.submitted + s.settings.accessWait * 1000 ≤ 4294967295000 →
        t = s.passClockTo (j.order.submitted + s.settings.accessWait * 1000) → ClaimEndsUnheld t w →
      exec (.accessWaitLimit j.order.tag) s = .next
        { w with
          seq :=
            orderEnded w j
              (if ∃ e ∈ s.claims.entries, e.line = some j.order.line then .lineBusy else .noBus) (some 1) })
    ∧ (∀ (j : Job) (t : State), s.seq.active = .job j → j.phase = .running → (j.order.stepAt j.step).kind = .hold →
        s.NothingToGrant → t = s.passTo j.holdUntil →
      ((j.order.stepAt (j.step + 1)).marked = true →
        exec .holdStepEnd s = .next
          { t with
            seq :=
              { s.seq with
                active := .job { j with step := j.step + 1, phase := .suspended, suspendedAt := t.time.clock } } })
      ∧ ((j.order.stepAt (j.step + 1)).marked = false → (j.order.stepAt (j.step + 1)).kind = .hold →
        exec .holdStepEnd s = .next
          { t with
            seq :=
              { s.seq with
                active :=
                  .job
                    { j with
                      step := j.step + 1
                      holdUntil := t.time.now + ms ((j.order.stepAt (j.step + 1)).seconds * 1000) } } }))
    ∧ (∀ (j : Job) (b : Nat) (c : OwnClaim), OnItsBus s j b c → j.phase = .running →
        (j.order.stepAt j.step).kind = .hold → s.head.state = .onBus → s.head.hazardFound = false →
        PlainFrom j (j.step + 1) → s.NothingToGrant →
      exec .holdStepEnd s = .next (stepFollows (s.passTo j.holdUntil) j b c))
    ∧ (∀ (j : Job) (b : Nat) (c : OwnClaim), s.seq.active = .job j → j.phase = .suspended → s.NothingToGrant →
        j.bus = some b → s.head.bus = some b → s.head.state ≠ .offBus → s.entryAt b = .own c → c.state = .held →
        j.suspendedAt + s.settings.suspend * 1000 ≤ 4294967295000 →
      exec .suspendLimit s = .next
        (abandonedAtHead (s.passClockTo (j.suspendedAt + s.settings.suspend * 1000)) j b c .suspendExpired
          (some j.step)))

/-- The fields of an order record lie in their ranges (R109, section 12.4). -/
abbrev OrderFieldsInRange (o : OrderRecord) (buses : Nat) : Prop :=
  o.tag ≠ 0 ∧ o.line ≤ 16383 ∧ (o.urgency = 1 ∨ o.urgency = 2) ∧ (o.busPref = 255 ∨ o.busPref < buses)
    ∧ ∀ e ∈ o.entries.take o.count, e.kind = 6 → 1 ≤ e.seconds ∧ e.seconds ≤ 600

/-- The kind code of the step entry at a place, counted from 0. -/
def kindAt (o : OrderRecord) (i : Nat) : Nat := (o.entries.map StepEntry.kind).getD i 0

/-- The step list of an order record, whose step kinds are 1 CONNECT, 2 FOREIGN, 3 RESIST, 4 CAPACITY, 5 VERDICT, 6 HOLD and 7 RELEASE, keeps the
rules of a list (R109, section 12.1). -/
abbrev StepListKeepsRules (o : OrderRecord) : Prop :=
  (1 ≤ o.count ∧ o.count ≤ 12)
    ∧ (∀ i < o.count, 1 ≤ kindAt o i ∧ kindAt o i ≤ 7)
    ∧ (kindAt o 0 = 1 ∧ (o.entries.map StepEntry.mark).getD 0 0 = 0)
    ∧ ∀ i < o.count,
        (0 < i → kindAt o i ≠ 1) ∧ (kindAt o i = 7 → i + 1 = o.count)
          ∧ (kindAt o i = 5 → ∃ m < i, kindAt o m = 2 ∨ kindAt o m = 3 ∨ kindAt o m = 4)

/-- An order in the queue or a slot, or a record that waits there, holds a tag (R109). -/
abbrev TagIsHeld (s : State) (tag : Nat) : Prop :=
  (∃ q ∈ s.seq.queue, q.order.tag = tag) ∨ s.seq.active.tag? = some tag ∨ s.seq.staged.tag? = some tag

/-- The checks of SUBMIT ORDER, in order: the first that fails gives the response and leaves no trace in the sequencer, and an order that
passes them all is accepted (R109). The model's own choice in it: log 16. -/
def Obligations.SubmitOrderIsCheckedInOrder : Prop :=
  ∀ (s : State) (o : OrderRecord), o.wellFormed = true → s.TakesCommands →
    (s.claims.station ≠ .active → exec (.submitOrder o) s = .next { s with port := plainResponse .state })
    ∧ (s.claims.station = .active →
      (¬ OrderFieldsInRange o s.straps.buses →
        exec (.submitOrder o) s = .next { s with port := plainResponse .badArgument })
      ∧ (OrderFieldsInRange o s.straps.buses →
        (¬ StepListKeepsRules o → exec (.submitOrder o) s = .next { s with port := plainResponse .badOrder })
        ∧ (StepListKeepsRules o →
          ((s.unitAt (o.line / 256)).state = .absent →
            exec (.submitOrder o) s = .next { s with port := plainResponse .badLine })
          ∧ ((s.unitAt (o.line / 256)).state ≠ .absent →
            (TagIsHeld s o.tag → exec (.submitOrder o) s = .next { s with port := plainResponse .tagInUse })
            ∧ (¬ TagIsHeld s o.tag →
              (8 ≤ s.seq.queue.length → exec (.submitOrder o) s = .next { s with port := plainResponse .full })
              ∧ (s.seq.queue.length < 8 →
                ∃ t, exec (.submitOrder o) s = .next t ∧ t.port = plainResponse .accepted
                  ∧ TagIsHeld t o.tag))))))

/-- An accepted order keeps its voltage clamped to 10 to 100, holds a RELEASE at the end of its list, is stamped with the clock, and enters a
PRIORITY order behind the last PRIORITY order, a DEMAND order at the back (R108, R110, R111). The model's own choice in it: log 16. -/
def Obligations.AcceptedOrderEntersTheQueue : Prop :=
  ∀ (s : State) (o : OrderRecord) (before after : List QueuedOrder) (steps : List Step) (q : QueuedOrder),
    o.wellFormed = true → s.claims.station = .active → OrderFieldsInRange o s.straps.buses → StepListKeepsRules o →
    (s.unitAt (o.line / 256)).state ≠ .absent → ¬ TagIsHeld s o.tag → s.seq.queue.length < 8 →
    s.seq.queue = before ++ after → (∀ x ∈ before, x.order.urgency = .priority) →
    (∀ x ∈ after, x.order.urgency = .demand) →
    some steps =
      (o.entries.take o.count).mapM (fun e =>
        ([StepKind.connect, .foreign, .resist, .capacity, .verdict, .hold, .release][e.kind - 1]?).map
          (fun k => { kind := k, marked := e.mark != 0, seconds := if e.kind = 6 then e.seconds else 0 })) →
    q =
      { order :=
          { tag := o.tag
            line := o.line
            urgency := if o.urgency = 2 then .priority else .demand
            pref := if o.busPref = 255 then none else some o.busPref
            volts := max 10 (min 100 o.volts)
            steps :=
              if steps.getLast?.map (·.kind) = some .release then steps
              else steps ++ [{ kind := .release, marked := false, seconds := 0 }]
            submitted := s.time.clock }
        waiting := none } →
    exec (.submitOrder o) s = .next
      { s with
        seq :=
          { s.seq with
            queue := if o.urgency = 2 then before ++ q :: after else before ++ after ++ [q] }
        port := plainResponse .accepted }

/-- CANCEL ORDER by where the order stands: queued, its record enters the completion queue or waits in its place; in ACCESS, in either slot, its
claim ends and it with it (R46); in CONNECTING or READY in either slot, with the head not its own, it is abandoned at the chain: its release is
asked for at once where no connect runs, where the connect's request waits, which is withdrawn, and where its settle runs; a connect whose exchange
is on the chain goes on, abandoned (R8, R123). In the active slot with the head connecting, on its bus, in a stage or in a discharge it is
abandoned there, and what finished is evaluated (R79, R130); releasing, or ended with its record waiting, STATE; held nowhere, UNKNOWN_TAG (R80,
R123, R128, R132, R133). RESUME ORDER begins the marked step of a suspended order, whatever its kind (R119, R121 to R123); another known order
answers NOT_SUSPENDED, wherever it stands, an unknown one UNKNOWN_TAG (R127). The model's own choices in it: log 6, log 11, log 12, log 14, log 16
and log 21. -/
def Obligations.CancelAndResumeAnswerByWhereTheOrderStands : Prop :=
  ∀ (s : State) (tag : Nat), s.TakesCommands → tag < 65536 →
    (∀ (before after : List QueuedOrder) (o : Order), o.tag = tag →
      s.seq.queue = before ++ { order := o, waiting := none } :: after →
      (∀ x ∈ before ++ after, x.order.tag ≠ tag) →
      (s.seq.completions.length < 16 →
        exec (.cancelOrder tag) s = .next
          { s with
            seq :=
              { s.seq with
                queue := before ++ after
                completions := s.seq.completions ++ [queuedRecord s o .cancelled none]
                ends := s.seq.ends + 1 }
            port := plainResponse .accepted })
      ∧ (16 ≤ s.seq.completions.length →
        exec (.cancelOrder tag) s = .next
          { s with
            seq :=
              { s.seq with
                queue :=
                  before
                    ++ { order := o
                         waiting :=
                           some { record := queuedRecord s o .cancelled none, ended := s.seq.ends } } :: after
                ends := s.seq.ends + 1 }
            port := plainResponse .accepted }))
    ∧ (∀ (j : Job) (b : Nat), (∀ q ∈ s.seq.queue, q.order.tag ≠ tag) → s.seq.active = .job j → j.sweep = none →
        j.order.tag = tag →
      (∀ c, (j.phase = .ready ∨ j.phase = .running ∨ j.phase = .suspended) → s.NothingToGrant → j.bus = some b →
        s.head.bus = some b → s.head.state ≠ .offBus → s.entryAt b = .own c → c.state = .held →
        exec (.cancelOrder tag) s = .next
          { abandonedAtHead s j b c .cancelled none with port := plainResponse .accepted })
      ∧ (j.phase = .suspended → (j.order.stepAt j.step).kind = .hold → s.NothingToGrant →
        exec (.resumeOrder tag) s = .next
          { s with
            seq :=
              { s.seq with
                active :=
                  .job
                    { j with
                      phase := .running
                      suspended := j.suspended + (s.time.clock - j.suspendedAt)
                      holdUntil := s.time.now + ms ((j.order.stepAt j.step).seconds * 1000) } }
            port := plainResponse .accepted })
      ∧ (∀ c, j.phase = .suspended → OnItsBus s j b c → s.head.state = .onBus → s.head.hazardFound = false →
          PlainFrom j j.step → s.NothingToGrant →
        exec (.resumeOrder tag) s = .next
          { stepBegun { s with port := none } { suspensionEnded j s.time.clock with phase := .running } b c with
            port := plainResponse .accepted }))
    ∧ (∀ (id : SlotId) (j : Job), (∀ q ∈ s.seq.queue, q.order.tag ≠ tag) → s.slot id = .job j →
        (id = .staged → s.seq.active.tag? ≠ some tag) → j.sweep = none → j.order.tag = tag →
      (j.phase = .releasing → exec (.cancelOrder tag) s = .next { s with port := plainResponse .state })
      ∧ (∀ w, j.phase = .access → SlotsStand s id → ClaimEndsUnheld s w →
        exec (.cancelOrder tag) s = .next
          { w with seq := orderEndedIn id w j .cancelled none, port := plainResponse .accepted })
      ∧ (∀ (b : Nat) (c : OwnClaim) (p : Pair) (t : Chain → State), (j.phase = .connecting ∨ j.phase = .ready) →
          (id = .staged ∨ s.head.bus ≠ some b ∨ s.head.state = .offBus) → j.bus = some b → j.nothingOperated = false →
          s.entryAt b = .own c → c.state = .held → p = { bus := b, line := j.order.line } →
          (∀ x, t x =
            { s with
              seq :=
                slotFilled s.seq id
                  (.job { j with status := some .cancelled, failing := none, phase := .releasing, inserted := false })
              claims := claimReleased s.claims b c
              chain := x
              port := plainResponse .accepted }) →
        ((∀ o ∈ s.chain.ops, o.pair ≠ p) → (s.chain.exchange.isSome = true ∨ s.ChainIdle) →
          exec (.cancelOrder tag) s = .next (t (releaseAsked s.chain p s.time.now)))
        ∧ (∀ (o : ChainOp) (waits settles : Prop), s.opOf p = some o → o.kind = .connect →
            (waits ↔ .operate p ∈ s.chain.jobGroup ∨ .readLine p ∈ s.chain.jobGroup) →
            (settles ↔ ∃ m, o.stage = .settling m) →
          ((waits ∨ settles) → (s.chain.exchange.isSome = true ∨ s.ChainIdle) →
            exec (.cancelOrder tag) s = .next
              (t
                (releaseAsked
                  { s.chain with
                    jobGroup := s.chain.jobGroup.filter (fun r => r != .operate p && r != .readLine p) }
                  p s.time.now)))
          ∧ (¬ waits → ¬ settles → s.NothingToGrant →
            exec (.cancelOrder tag) s = .next
              (t
                { s.chain with
                  ops := s.chain.ops.filter (fun x => x.pair != p) ++ [{ o with abandoned := true }] })))))
    ∧ (((∃ q ∈ s.seq.queue, q.order.tag = tag ∧ q.waiting ≠ none) → (∀ q ∈ s.seq.queue, q.order.tag = tag →
          q.waiting ≠ none) →
        exec (.cancelOrder tag) s = .next { s with port := plainResponse .state })
      ∧ (∀ w, (∀ q ∈ s.seq.queue, q.order.tag ≠ tag) →
          (s.seq.active = .donePending w ∨ s.seq.active.tag? ≠ some tag ∧ s.seq.staged = .donePending w) →
          w.record.tag = tag →
        exec (.cancelOrder tag) s = .next { s with port := plainResponse .state }))
    ∧ (TagIsHeld s tag →
        (∀ j, s.seq.active = .job j → j.sweep = none → j.order.tag = tag → j.phase ≠ .suspended) →
      exec (.resumeOrder tag) s = .next { s with port := plainResponse .notSuspended })
    ∧ (¬ TagIsHeld s tag →
      exec (.cancelOrder tag) s = .next { s with port := plainResponse .unknownTag }
        ∧ exec (.resumeOrder tag) s = .next { s with port := plainResponse .unknownTag })

/-- A reading command answers with the oldest entry and leaves its queue as it is; the entry is removed when the last byte has been clocked out,
a waiting record then entering the completion queue, and the overrun flag is cleared unless a discard came meanwhile; a select released before
then removes nothing (R133, R191, R195, R209). A completion record has 88 bytes, with its order's fields first and its flags, ident and times from
byte 65 (section 12.5), and a report entry 15, its kind and six bytes of time first (section 12.6). The model's own choice in it: log 16. -/
def Obligations.FinishedReadsRemoveTheOldest : Prop :=
  (∀ c : Completion,
    (completionBytes c).length = 88
      ∧ (completionBytes c).take 7 =
          bytesOf 2 c.tag
            ++ [byte c.status.code, byte c.step, byte (c.failing.getD 0), byte (c.bus.getD 255),
              match c.verdict with | some v => byte v.code | none => 0]
      ∧ ((completionBytes c).drop 65).take 16 =
          [if c.results.any (·.overrange) = true then 1 else 0, if c.disturbed = true then 1 else 0]
            ++ bytesOf 2 (c.ident.getD 0) ++ bytesOf 4 c.accessWait ++ bytesOf 4 c.connected ++ bytesOf 4 c.suspended)
  ∧ (∀ r : Report, (∀ bytes, r.content = .heard bytes → bytes.length = 8) →
    (reportBytes r).length = 15 ∧ (reportBytes r).take 7 = byte r.content.code :: bytesOf 6 r.time)
  ∧ ∀ s : State,
    (s.TakesCommands →
      (∀ c rest, s.seq.completions = c :: rest →
        exec .readCompletion s = .next
          { s with
            port := some { response := [1, 0, 88] ++ completionBytes c, reading := .completion, discarded := false } })
      ∧ (s.seq.completions = [] → exec .readCompletion s = .next { s with port := plainResponse .empty })
      ∧ (∀ r rest, s.reports.queue = r :: rest → (∀ bytes, r.content = .heard bytes → bytes.length = 8) →
        exec .readReport s = .next
          { s with
            port :=
              some
                { response := [1, 0, 16, if s.reports.overrun then 1 else 0] ++ reportBytes r
                  reading := .report false
                  discarded := false } })
      ∧ (s.reports.queue = [] →
        exec .readReport s = .next
          { s with
            port :=
              some
                { response := [12, 0, 1, if s.reports.overrun then 1 else 0]
                  reading := .reportEmpty
                  discarded := false } }))
    ∧ (∀ t : Transaction, s.port = some t →
      (t.reading = .nothing → exec .responseCompleted s = .next { s with port := none })
      ∧ (∀ c rest, t.reading = .completion → s.seq.completions = c :: rest → s.seq.active = .empty →
          s.seq.staged = .empty →
        ((∀ q ∈ s.seq.queue, q.waiting = none) →
          exec .responseCompleted s = .next { s with port := none, seq := { s.seq with completions := rest } })
        ∧ (∀ (before after : List QueuedOrder) (o : Order) (w : Waiting),
            s.seq.queue = before ++ { order := o, waiting := some w } :: after →
            (∀ x ∈ before ++ after, ∀ y, x.waiting = some y → w.ended < y.ended) → rest.length < 16 →
          exec .responseCompleted s = .next
            { s with
              port := none
              seq := { s.seq with completions := rest ++ [w.record], queue := before ++ after } }))
      ∧ (∀ gone, t.reading = .report gone →
        exec .responseCompleted s = .next
          { s with
            port := none
            reports :=
              { s.reports with
                queue := if gone then s.reports.queue else s.reports.queue.tail
                overrun := t.discarded } }))
    ∧ exec .selectReleased s = .next { s with port := none }

/-! ## Chapter 7: line records -/

/-- A verdict's record has its bucket decayed to minute `t` by whole periods since its stamp, and not at all when the clock stands behind the
stamp; a bucket left empty takes `t` as its stamp (R142). The level then rises by the class's weight. -/
def Obligations.BucketDecaysByWholePeriods : Prop :=
  ∀ (r r' : LineRecord) (d : Delivery) (seconds t period : Nat), 0 < period → r' = r.judged d seconds t period →
    ∃ decayed : Nat,
      r'.level = min 255 (decayed + d.verdict.weight)
        ∧ (t < r.stamp → decayed = r.level ∧ r'.stamp = t)
        ∧ (∀ k, r.stamp ≤ t → k * period ≤ t - r.stamp → t - r.stamp < (k + 1) * period →
            decayed = r.level - k
              ∧ (0 < decayed → r'.stamp = r.stamp + k * period)
              ∧ (decayed = 0 → r'.stamp = t))

/-- A line record as a verdict leaves it, with its bucket given (R140, R143, R145). -/
def recordAfter (r : LineRecord) (d : Delivery) (seconds level stamp : Nat) : LineRecord :=
  { r with
    tested := true
    verdict := some d.verdict
    time := some seconds
    tester := some d.tester
    worst := d.worst
    length := d.length
    level := level
    stamp := stamp
    hazard := d.verdict == .hazard }

/-- A verdict for a home line is put in its record, its bucket decayed and raised by the class's weight up to 255 (R140, R142, R143, R145);
the Ticket Table then opens a ticket at the open threshold or on HAZARD, and updates or clears or reopens the line's live ticket (R157 to
R160, R165, R166). A full table discards its oldest CLOSED ticket for the new one; full of live tickets it sets the line's pending mark and
captures TICKET_TABLE_FULL (R167). A pending line gets its ticket at its next verdict, unless that is CLEAR at or below the clear level,
which gives it up (R168). While a clear runs nothing is applied (R151). -/
def Obligations.AppliedVerdictOpensAndMovesTickets : Prop :=
  ∀ (s : State) (d : Delivery) (r r' : LineRecord) (now level : Nat), recordsWf s.records.table = true →
    r = s.recordOf d.line → now = s.time.clock / 1000 →
    level = min 255 ((decayBucket r.level r.stamp (now / 60) s.settings.decay).1 + d.verdict.weight) →
    r' = recordAfter r d now level (decayBucket r.level r.stamp (now / 60) s.settings.decay).2 →
    (s.records.clear.isSome = true → s.applyVerdict d = s)
    ∧ (s.records.clear = none → r.ticket = none → r.pending = false → d.verdict ≠ .hazard →
        level < s.settings.openLevel →
      s.applyVerdict d = { s with records := { s.records with table := putRecord s.records.table d.line r' } })
    ∧ (s.records.clear = none → r.ticket = none → r.pending = true → d.verdict = .clear →
        level ≤ s.settings.clearLevel →
      s.applyVerdict d =
        { s with records := { s.records with table := putRecord s.records.table d.line { r' with pending := false } } })
    ∧ (s.records.clear = none → r.ticket = none →
        (r.pending = true ∧ ¬ (d.verdict = .clear ∧ level ≤ s.settings.clearLevel)
          ∨ r.pending = false ∧ (d.verdict = .hazard ∨ s.settings.openLevel ≤ level)) →
      (128 ≤ s.tickets.table.length → (∀ x ∈ s.tickets.table, x.state ≠ .closed) →
        s.applyVerdict d =
          { s with
            records :=
              { s.records with
                table := putRecord s.records.table d.line { r' with pending := true } } }.capture
            (.ticketTableFull d.line))
      ∧ (∀ (room : List Ticket) (serial ident : Nat) (t : Ticket),
          (s.tickets.table.length < 128 ∧ room = s.tickets.table
            ∨ 128 ≤ s.tickets.table.length
              ∧ ∃ before x after, s.tickets.table = before ++ x :: after ∧ room = before ++ after
                ∧ x.state = .closed ∧ ∀ y ∈ before, y.state ≠ .closed) →
          serial = (if s.tickets.serial < 4095 then s.tickets.serial + 1 else 1) →
          (∀ x ∈ room, x.ident % 4096 ≠ serial) → ident = s.straps.station * 4096 + serial →
          t =
            { ident := ident
              line := d.line
              state := .opened
              opening := d.verdict
              latest := d.verdict
              openedAt := now
              changedAt := now
              tests := 1
              retestDue := some (now + s.settings.retest * 60)
              cause := none
              deadline := none } →
        s.applyVerdict d =
          (({ s with
              tickets := { s.tickets with table := room ++ [t], serial := serial }
              records :=
                { s.records with
                  table :=
                    putRecord s.records.table d.line { r' with ticket := some ident, pending := false } } }).offerPlain
            (.ticket ident d.line .opened d.verdict)).post
              (.ticketChange ident d.line none .opened d.verdict
                (if d.verdict = Verdict.hazard then TicketCause.hazard else TicketCause.threshold))))
    ∧ (∀ (before after : List Ticket) (t t' : Ticket), s.records.clear = none → r.ticket = some t.ident →
        s.tickets.table = before ++ t :: after → (∀ x ∈ before ++ after, x.ident ≠ t.ident) →
        t' =
          { t with
            latest := d.verdict
            tests := min 65535 (t.tests + 1)
            retestDue := some (now + s.settings.retest * 60) } →
        ∀ base : State,
        base = { s with records := { s.records with table := putRecord s.records.table d.line r' } } →
      ((t.state = .opened ∨ t.state = .held) → d.verdict ≠ .clear →
        s.applyVerdict d = { base with tickets := { s.tickets with table := before ++ t' :: after } })
      ∧ ((t.state = .opened ∨ t.state = .held) → d.verdict = .clear → level ≤ s.settings.clearLevel →
        s.applyVerdict d =
          (({ base with
              tickets :=
                { s.tickets with
                  table :=
                    before
                      ++ { t' with
                           state := .cleared
                           changedAt := now
                           deadline := some (now + s.settings.clearHold * 60) } :: after } }).offerPlain
            (.ticket t.ident t.line .cleared .clear)).post
              (.ticketChange t.ident t.line (some t.state) .cleared .clear .clear))
      ∧ (t.state = .cleared → (d.verdict = .hazard ∨ s.settings.openLevel ≤ level) →
        s.applyVerdict d =
          (({ base with
              tickets :=
                { s.tickets with
                  table :=
                    before ++ { t' with state := .opened, changedAt := now, deadline := none } :: after } }).offerPlain
            (.ticket t.ident t.line .opened d.verdict)).post
              (.ticketChange t.ident t.line (some .cleared) .opened d.verdict
                (if d.verdict = Verdict.hazard then TicketCause.hazard else TicketCause.threshold))))

/-- A bucket's level and stamp as the decay of R142 gives them at a minute: unchanged level when the clock stands behind the stamp, and otherwise
less by the whole periods since it, an empty bucket being stamped with the minute. -/
def DecaysTo (r : LineRecord) (minute period level stamp : Nat) : Prop :=
  (minute < r.stamp → level = r.level ∧ stamp = minute)
    ∧ (∀ k, r.stamp ≤ minute → k * period ≤ minute - r.stamp → minute - r.stamp < (k + 1) * period →
        level = r.level - k ∧ (0 < level → stamp = r.stamp + k * period) ∧ (level = 0 → stamp = minute))

/-- The 28 bytes of a line record with the bucket level and stamp given (R207, section 12.7). -/
def recordLayout (line : Nat) (r : LineRecord) (level stamp : Nat) : List Byte :=
  bytesOf 2 line
    ++ [if r.tested = true then 1 else 0, match r.verdict with | some v => byte v.code | none => 0]
    ++ bytesOf 4 (r.time.getD 0)
    ++ [byte (r.tester.getD 255)]
    ++ (match r.worst with
        | none => [0, 0, 0, 0, 0]
        | some w =>
          (if w.mark = .openLine then 3 else if w.mark = .atOrBelow then 2 else 1) :: bytesOf 4 w.ohms)
    ++ (match r.length with
        | none => [0, 0, 0]
        | some m => 1 :: bytesOf 2 m)
    ++ [byte level] ++ bytesOf 4 stamp ++ bytesOf 2 (r.ticket.getD 0)
    ++ [if r.pending = true then 1 else 0, if r.hazard = true then 1 else 0, byte r.repetition, byte r.offset]

/-- READ LINE RECORD, both READ TICKET commands and READ FOREIGN TICKETS change nothing but the response: BUSY while a clear runs, a refusal in
the order of their checks, or the record as it stands, the bucket of a line record decayed to the present minute on a copy (R142, R148, R163,
R171, R207, R209). The model's own choice in it: log 16. -/
def Obligations.StoresAreReadWithoutChange : Prop :=
  ∀ s : State, s.TakesCommands →
    (∀ line, line < 65536 →
      (s.records.clear.isSome = true → exec (.readLineRecord line) s = .next { s with port := plainResponse .busy })
      ∧ (s.records.clear = none → (line / 256 < s.straps.base ∨ s.straps.base + s.straps.units ≤ line / 256) →
        exec (.readLineRecord line) s = .next { s with port := plainResponse .notHome })
      ∧ (∀ level stamp, s.records.clear = none → s.straps.base ≤ line / 256 →
          line / 256 < s.straps.base + s.straps.units → 0 < s.settings.decay →
          DecaysTo (s.recordOf line) (s.time.clock / 1000 / 60) s.settings.decay level stamp →
        exec (.readLineRecord line) s = .next
          { s with
            port :=
              some
                { response := [1, 0, 28] ++ recordLayout line (s.recordOf line) level stamp
                  reading := .nothing
                  discarded := false } }))
    ∧ (∀ ident, ident < 65536 →
      (s.records.clear.isSome = true →
        exec (.readTicketByIdent ident) s = .next { s with port := plainResponse .busy })
      ∧ (s.records.clear = none →
        (ident % 4096 = 0 → exec (.readTicketByIdent ident) s = .next { s with port := plainResponse .badArgument })
        ∧ (ident % 4096 ≠ 0 → ident / 4096 ≠ s.straps.station →
          exec (.readTicketByIdent ident) s = .next { s with port := plainResponse .notHome })
        ∧ (ident % 4096 ≠ 0 → ident / 4096 = s.straps.station → (∀ t ∈ s.tickets.table, t.ident ≠ ident) →
          exec (.readTicketByIdent ident) s = .next { s with port := plainResponse .unknownTag })
        ∧ (∀ (before after : List Ticket) (t : Ticket), ident % 4096 ≠ 0 → ident / 4096 = s.straps.station →
            s.tickets.table = before ++ t :: after → t.ident = ident → (∀ x ∈ before, x.ident ≠ ident) →
          exec (.readTicketByIdent ident) s = .next
            { s with
              port :=
                some
                  { response := [1, 0, 25] ++ ticketBytes before.length s.tickets.table.length t
                    reading := .nothing
                    discarded := false } })))
    ∧ (∀ place, place < 256 →
      (s.records.clear.isSome = true →
        exec (.readTicketByPlace place) s = .next { s with port := plainResponse .busy })
      ∧ (s.records.clear = none →
        (127 < place → exec (.readTicketByPlace place) s = .next { s with port := plainResponse .badArgument })
        ∧ (place ≤ 127 → s.tickets.table.length ≤ place →
          exec (.readTicketByPlace place) s = .next { s with port := plainResponse .empty })
        ∧ (∀ (before after : List Ticket) (t : Ticket), place ≤ 127 → s.tickets.table = before ++ t :: after →
            before.length = place →
          exec (.readTicketByPlace place) s = .next
            { s with
              port :=
                some
                  { response := [1, 0, 25] ++ ticketBytes place s.tickets.table.length t
                    reading := .nothing
                    discarded := false } })))
    ∧ (s.records.clear.isSome = true →
        exec .readForeignTickets s = .next { s with port := plainResponse .busy })
    ∧ (s.records.clear = none → s.tickets.cache.length ≤ 32 →
        exec .readForeignTickets s = .next
          { s with
            port :=
              some
                { response :=
                    [1, byte ((1 + 10 * s.tickets.cache.length) / 256), byte (1 + 10 * s.tickets.cache.length),
                      byte s.tickets.cache.length]
                      ++ s.tickets.cache.flatMap foreignTicketBytes
                  reading := .nothing
                  discarded := false } })

/-- SET LINE CLASS is checked in order, and gives the class to the named lines and changes nothing else of any record (R147). CLEAR RECORDS is
taken with no clear running, the sweep STOPPED and both slots empty, and answered BUSY otherwise; it empties the tickets and takes idents and
pending marks from every record at once (R149, R150). Each unit step clears one unit's records but for their class, and the last ends the clear
(R150). The model's own choices in it: log 2, log 16 and log 26. -/
def Obligations.ClassesAreSetAndRecordsCleared : Prop :=
  ∀ s : State, recordsWf s.records.table = true →
    (∀ first count repetition offset : Nat, s.TakesCommands → first < 65536 → count < 65536 → repetition < 256 →
        offset < 256 →
        ∀ c : Instr, c = .setLineClass first count repetition offset →
        ∀ good : Prop, good =
          ((1 ≤ count ∧ count ≤ 4096)
            ∧ (repetition = 0 ∧ offset = 0
              ∨ repetition ∈ [1, 2, 4, 8, 16, 32, 64] ∧ offset < repetition)) →
        ∀ home : Prop, home =
          (s.straps.base ≤ first / 256 ∧ (first + count - 1) / 256 < s.straps.base + s.straps.units) →
      (s.records.clear.isSome = true → exec c s = .next { s with port := plainResponse .busy })
      ∧ (s.records.clear = none → ¬ good → exec c s = .next { s with port := plainResponse .badArgument })
      ∧ (s.records.clear = none → good → ¬ home → exec c s = .next { s with port := plainResponse .notHome })
      ∧ (s.records.clear = none → good → home →
        ∃ table, exec c s = .next
            { s with records := { s.records with table := table }, port := plainResponse .accepted }
          ∧ ∀ line,
              lookRecord table line =
                (if first ≤ line ∧ line < first + count then
                  { s.recordOf line with repetition := repetition, offset := offset }
                 else s.recordOf line)))
    ∧ (s.TakesCommands →
      (s.records.clear.isSome = true ∨ s.sweep.state ≠ .stopped ∨ s.seq.active ≠ .empty ∨ s.seq.staged ≠ .empty →
        exec .clearRecords s = .next { s with port := plainResponse .busy })
      ∧ (s.records.clear = none → s.sweep.state = .stopped → s.seq.active = .empty → s.seq.staged = .empty →
        ∃ table, exec .clearRecords s = .next
            { s with
              tickets := { s.tickets with table := [] }
              records := { table := table, clear := some 0, clearAt := s.time.now + ms 8 }
              port := plainResponse .accepted }
          ∧ ∀ line, lookRecord table line = { s.recordOf line with ticket := none, pending := false }))
    ∧ (∀ done, s.records.clear = some done →
      ∃ table, exec .clearUnitStep s = .next
          { s.passTo s.records.clearAt with
            records :=
              { table := table
                clear := if s.straps.units ≤ done + 1 then none else some (done + 1)
                clearAt := s.records.clearAt + ms 8 } }
        ∧ ∀ line,
            lookRecord table line =
              (if line / 256 = s.straps.base + done then
                { LineRecord.powerOn with
                  repetition := (s.recordOf line).repetition
                  offset := (s.recordOf line).offset }
               else s.recordOf line))

/-! ## Chapter 8: tickets -/

/-- The state with a ticket changed in its place, its notice offered and its report posted (R155, R165, R166). -/
def ticketMoved (s : State) (before after : List Ticket) (t t' : Ticket) (cause : TicketCause) : State :=
  ({ s with tickets := { s.tickets with table := before ++ t' :: after } }.offerPlain
    (.ticket t.ident t.line t'.state t'.latest)).post
      (.ticketChange t.ident t.line (some t.state) t'.state t'.latest cause)

/-- A closed ticket, with its closing cause and time (R161, R164). -/
def closedTicket (t : Ticket) (now : Nat) (cause : TicketCause) : Ticket :=
  { t with state := .closed, changedAt := now, retestDue := none, cause := some cause, deadline := none }

/-- ASSIGN TICKET makes an OPEN ticket HELD; CLOSE TICKET closes a live ticket with cause DESK, and the clear-hold deadline a CLEARED one with
cause AUTO, each taking the ident from the line's record; every change offers a TICKET notice and posts a TICKET_CHANGE report (R161, R163,
R164). A ticket in another state answers STATE, and a command that names no ticket of the table is refused in the order of R163. The model's own
choices in it: log 2 and log 16. -/
def Obligations.TicketsAreAssignedAndClosed : Prop :=
  (∀ (s : State) (before after : List Ticket) (t : Ticket),
    s.tickets.table = before ++ t :: after → (∀ x ∈ before ++ after, x.ident ≠ t.ident) → t.ident < 65536 →
    (s.TakesCommands → s.records.clear = none → t.ident % 4096 ≠ 0 → t.ident / 4096 = s.straps.station →
      (t.state = .opened →
        exec (.assignTicket t.ident) s = .next
          { ticketMoved { s with port := none } before after t
              { t with state := .held, changedAt := s.time.clock / 1000 } .assign with
            port := plainResponse .accepted })
      ∧ (t.state ≠ .opened → exec (.assignTicket t.ident) s = .next { s with port := plainResponse .state })
      ∧ (t.state ≠ .closed →
        exec (.closeTicket t.ident) s = .next
          { ticketMoved
              { s with
                port := none
                records :=
                  { s.records with
                    table := putRecord s.records.table t.line { s.recordOf t.line with ticket := none } } }
              before after t (closedTicket t (s.time.clock / 1000) .desk) .desk with
            port := plainResponse .accepted })
      ∧ (t.state = .closed → exec (.closeTicket t.ident) s = .next { s with port := plainResponse .state }))
    ∧ (∀ (deadline : Nat) (u : State), s.time.InRange → t.state = .cleared → t.deadline = some deadline →
        deadline * 1000 ≤ 4294967295000 → u = s.passClockTo (deadline * 1000) →
      exec (.clearHoldDeadline t.ident) s = .next
        (ticketMoved
          { u with
            records :=
              { s.records with
                table := putRecord s.records.table t.line { s.recordOf t.line with ticket := none } } }
          before after t (closedTicket t (u.time.clock / 1000) .auto) .auto)))
  ∧ ∀ (s : State) (i : Nat) (c : Instr), (c = .assignTicket i ∨ c = .closeTicket i) → s.TakesCommands → i < 65536 →
      (s.records.clear.isSome = true → exec c s = .next { s with port := plainResponse .busy })
      ∧ (s.records.clear = none → i % 4096 = 0 → exec c s = .next { s with port := plainResponse .badArgument })
      ∧ (s.records.clear = none → i % 4096 ≠ 0 → i / 4096 ≠ s.straps.station →
        exec c s = .next { s with port := plainResponse .notHome })
      ∧ (s.records.clear = none → i % 4096 ≠ 0 → i / 4096 = s.straps.station → (∀ x ∈ s.tickets.table, x.ident ≠ i) →
        exec c s = .next { s with port := plainResponse .unknownTag })

/-! ## Chapter 9: the sweep -/

/-- How a sweep goes on after a job's outcome whose pointer has been dealt with: STOPPED with a stop pending (R185) or after the once option's test
(R187), and otherwise SEEKING or INTERVAL by its due time (R177). -/
def SweepGoesOn (q t : State) : Prop :=
  (q.sweep.stopPending = true → t = sweepMoved q (stoppedSweep q.sweep) .stop)
    ∧ (q.sweep.stopPending = false → q.sweep.once = true → t = sweepMoved q (stoppedSweep q.sweep) .onceDone)
    ∧ (∀ d, q.sweep.stopPending = false → q.sweep.once = false → q.sweep.due = some d →
        t =
          { q with
            sweep :=
              { q.sweep with
                state := if d ≤ q.time.clock then .seeking else .interval
                offer := decide (d ≤ q.time.clock)
                guardPassed := false } })

/-- The pointer advances and the sweep goes on (R177, R181), but for the halt at a wrap of a sweep that stops on complete, with no once option
and no stop pending (R180, R184). -/
def SweepAdvances (q t : State) : Prop :=
  (q.sweep.pointer < q.straps.lastLine →
    SweepGoesOn { q with sweep := { q.sweep with pointer := q.sweep.pointer + 1 } } t)
    ∧ (q.straps.lastLine ≤ q.sweep.pointer →
      (q.sweep.onComplete = true → q.sweep.once = false → q.sweep.stopPending = false →
        t =
          sweepMoved (sweepWrapped q)
            { (sweepWrapped q).sweep with
              state := .haltedComplete
              due := some (q.time.clock + q.sweep.interval * 1000)
              offer := false
              guardPassed := false } .completeHalt)
      ∧ ((q.sweep.onComplete = false ∨ q.sweep.once = true ∨ q.sweep.stopPending = true) →
        SweepGoesOn (sweepWrapped q) t))

/-- In INTERVAL an offer stands when the clock reaches the due time (R176); in HALTED_COMPLETE one stands if a ticket is overdue then, and
otherwise the due time moves on by one interval (R184); an offer that has waited for the guard time is marked (R176). The model's own choice in
it: log 2. -/
def Obligations.SweepFallsDueByTheClock : Prop :=
  ∀ (s : State) (d : Nat), s.time.InRange → s.sweep.due = some d →
    (∀ t, d ≤ 4294967295000 → t = s.passClockTo d →
      (s.sweep.state = .interval →
        exec .sweepDue s = .next
          { t with sweep := { s.sweep with state := .seeking, offer := true, guardPassed := false } })
      ∧ (s.sweep.state = .haltedComplete → s.sweep.offer = false → s.sweepInSlot = false →
        ((∃ x ∈ s.tickets.table, ∃ m, x.retestDue = some m ∧ m ≤ t.time.clock / 1000) →
          exec .sweepDue s = .next { t with sweep := { s.sweep with offer := true, guardPassed := false } })
        ∧ ((∀ x ∈ s.tickets.table, ∀ m, x.retestDue = some m → t.time.clock / 1000 < m) →
          exec .sweepDue s = .next
            { t with sweep := { s.sweep with due := some (d + s.sweep.interval * 1000) } })))
    ∧ (d + s.settings.guard * 1000 ≤ 4294967295000 → s.sweep.offer = true → s.sweep.guardPassed = false →
      exec .sweepGuard s = .next
        { s.passClockTo (d + s.settings.guard * 1000) with sweep := { s.sweep with guardPassed := true } })

/-- SWEEP START is checked in order and sets the sweep SEEKING from its start line with its first test due at once (R175); SWEEP STOP is ACCEPTED
in every state and waits for a job that runs (R185); SWEEP CONTINUE steps past the line of an error halt, takes up the walk after a complete halt,
and answers STATE in any other state or with a stop pending (R186). A sweep job's outcome posts its verdict other than CLEAR (R188) and moves the
sweep: a pointer test's verdict advances the pointer, or under stop-on-error halts the sweep on its line, a line out of reach advances it with a
skip, and contention leaves it (R181, R182); past the last line the pass ends with its report, and a sweep that stops on complete halts there
(R180); a retest leaves the pointer, and without a verdict owes it the next turn, but not in a complete halt, which stands (R183, R184). The sweep
then seeks or waits by its due time (R177), or enters STOPPED: with cause STOP where a stop is pending, which no halt forestalls (R185), and with
cause ONCE_DONE after the test of the once option (R187). The model's own choices in it: log 16 and log 39. -/
def Obligations.SweepCommandsMoveTheSweep : Prop :=
  (∀ (s : State) (info : SweepInfo) (line : Nat) (v : Option Verdict) (status : EndStatus) (q : State),
    q =
      (match v with
       | none => s
       | some .clear => s
       | some k =>
         s.post
           (.sweepResult line k info.retest info.pass (if info.retest then (s.recordOf line).ticket else none))) →
    (info.retest = true →
      (s.sweep.state = .testing →
        SweepGoesOn { q with sweep := { s.sweep with pointerOwed := s.sweep.pointerOwed || v.isNone } }
          (s.sweepOutcome info line v status))
      ∧ (s.sweep.state = .haltedComplete →
        s.sweepOutcome info line v status =
          if s.sweep.stopPending = true then sweepMoved q (stoppedSweep s.sweep) .stop else q))
    ∧ (s.sweep.state = .testing → info.retest = false →
      (∀ k, v = some k →
        (s.sweep.onError = true → s.sweep.once = false → s.sweep.stopPending = false → k ≠ .clear → k ≠ .marginal →
          s.sweepOutcome info line v status =
            sweepMoved q
              { s.sweep with state := .haltedError, due := none, offer := false, guardPassed := false } .errorHalt)
        ∧ ((s.sweep.onError = false ∨ s.sweep.once = true ∨ s.sweep.stopPending = true ∨ k = .clear ∨ k = .marginal) →
          SweepAdvances q (s.sweepOutcome info line v status)))
      ∧ (v = none →
        (status ∈ [.lineBusy, .unitDown, .accessFault, .releaseFault] →
          SweepAdvances { s with sweep := { s.sweep with skip := s.sweep.skip + 1 } }
            (s.sweepOutcome info line v status))
        ∧ (status ∈ [.yielded, .noBus, .accessLost, .stationIsolated] →
          SweepGoesOn s (s.sweepOutcome info line v status)))))
  ∧ ∀ (s : State), s.TakesCommands →
    ∀ (q : State), q = { s with port := none } →
    (∀ (r : SweepStartRecord) (x : Sweep), r.wellFormed = true →
      (s.records.clear.isSome = true → exec (.sweepStart r) s = .next { s with port := plainResponse .busy })
      ∧ (s.records.clear = none → s.sweep.state ≠ .stopped →
        exec (.sweepStart r) s = .next { s with port := plainResponse .state })
      ∧ (s.records.clear = none → s.sweep.state = .stopped →
        (16383 < r.start → r.start ≠ 65535 →
          exec (.sweepStart r) s = .next { s with port := plainResponse .badArgument })
        ∧ (r.start ≤ 16383 → (r.start / 256 < s.straps.base ∨ s.straps.base + s.straps.units ≤ r.start / 256) →
          exec (.sweepStart r) s = .next { s with port := plainResponse .notHome })
        ∧ ((r.start = 65535
              ∨ r.start ≤ 16383 ∧ s.straps.base ≤ r.start / 256 ∧ r.start / 256 < s.straps.base + s.straps.units) →
            x =
              { s.sweep with
                state := .seeking
                pointer := if r.start = 65535 then s.sweep.pointer else r.start
                skip := 0
                onComplete := decide (r.onComplete ≠ 0)
                onError := decide (r.onError ≠ 0)
                once := decide (r.once ≠ 0)
                interval := if r.interval = 65535 then s.sweep.interval else max 1 (min 3600 r.interval)
                due := some s.time.clock
                offer := true
                guardPassed := false
                pointerOwed := false
                stopPending := false } →
          exec (.sweepStart r) s = .next { sweepMoved q x .start with port := plainResponse .accepted })))
    ∧ ((s.sweep.state = .stopped → exec .sweepStop s = .next { s with port := plainResponse .accepted })
      ∧ ((s.sweep.state = .interval ∨ s.sweep.state = .seeking ∨ s.sweep.state = .haltedError
            ∨ s.sweep.state = .haltedComplete ∧ (s.sweep.offer = true ∨ s.sweepInSlot = false)) →
        exec .sweepStop s = .next
          { sweepMoved q (stoppedSweep s.sweep) .stop with port := plainResponse .accepted })
      ∧ ((s.sweep.state = .testing
            ∨ s.sweep.state = .haltedComplete ∧ s.sweep.offer = false ∧ s.sweepInSlot = true) →
        exec .sweepStop s = .next
          { s with sweep := { s.sweep with stopPending := true }, port := plainResponse .accepted }))
    ∧ ((s.sweep.stopPending = true ∨ s.sweep.state ≠ .haltedError ∧ s.sweep.state ≠ .haltedComplete) →
      exec .sweepContinue s = .next { s with port := plainResponse .state })
    ∧ (s.sweep.stopPending = false → s.sweep.state = .haltedError →
        s.sweep.pointer + 1 < (s.straps.base + s.straps.units) * 256 →
      exec .sweepContinue s = .next
        { sweepMoved q
            { s.sweep with
              state := .interval
              pointer := s.sweep.pointer + 1
              due := some (s.time.clock + s.sweep.interval * 1000) }
            .continued with
          port := plainResponse .accepted })
    ∧ (∀ x : Sweep, s.sweep.stopPending = false → s.sweep.state = .haltedError →
        s.sweep.pointer + 1 = (s.straps.base + s.straps.units) * 256 → s.sweep.onComplete = true →
        s.sweep.once = false →
        x = { s.sweep with pointer := s.straps.base * 256, pass := (s.sweep.pass + 1) % 65536, skip := 0 } →
      exec .sweepContinue s = .next
        { sweepMoved
            (q.post
              (.sweepState .passEnd .haltedError (s.straps.base * 256) s.sweep.pass s.sweep.skip))
            { x with
              state := .haltedComplete
              due := some (s.time.clock + s.sweep.interval * 1000)
              offer := false
              guardPassed := false }
            .completeHalt with
          port := plainResponse .accepted })
    ∧ (s.sweep.stopPending = false → s.sweep.state = .haltedComplete →
      ((∃ j : Job, s.seq.active = .job j ∧ j.sweep.isSome = true) →
        exec .sweepContinue s = .next
          { sweepMoved q { s.sweep with state := .testing } .continued with port := plainResponse .accepted })
      ∧ (s.sweepInSlot = false → s.sweep.offer = true →
        exec .sweepContinue s = .next
          { sweepMoved q { s.sweep with state := .seeking } .continued with port := plainResponse .accepted })
      ∧ (∀ d, s.sweepInSlot = false → s.sweep.offer = false → s.sweep.due = some d → s.time.clock < d →
        exec .sweepContinue s = .next
          { sweepMoved q { s.sweep with state := .interval, offer := false, guardPassed := false } .continued with
            port := plainResponse .accepted }))

/-! ## Chapter 10: the desk port and reports -/

/-- A report is stamped and enters at the back; a full queue discards its oldest and sets the overrun flag, and a read being clocked out
sees the discard (R195). An error captured becomes the first-error record or sets the more-errors flag, its kind joins the kind set, and an
ERROR report is posted (R198). -/
def Obligations.ReportsQueueAndErrorsAreCaptured : Prop :=
  ∀ s : State,
    (∀ c : ReportContent,
      (s.reports.queue.length < 64 →
        s.post c =
          { s with
            reports := { s.reports with queue := s.reports.queue ++ [{ time := s.time.clock, content := c }] } })
      ∧ (64 ≤ s.reports.queue.length →
        ∀ r : ReportUnit,
          r =
            { s.reports with
              queue := s.reports.queue.tail ++ [{ time := s.time.clock, content := c }]
              overrun := true } →
          ((s.port = none ∨ ∃ t, s.port = some t ∧ (t.reading = .nothing ∨ t.reading = .completion)) →
            s.post c = { s with reports := r })
          ∧ (∀ t gone, s.port = some t → t.reading = .report gone →
            s.post c = { s with reports := r, port := some { t with reading := .report true, discarded := true } })
          ∧ (∀ t, s.port = some t → t.reading = .reportEmpty →
            s.post c = { s with reports := r, port := some { t with discarded := true } })))
    ∧ (∀ (d : ErrorDetail) (kinds : List ErrorKind),
        kinds = (if d.kind ∈ s.reports.kinds then s.reports.kinds else s.reports.kinds ++ [d.kind]) →
      (s.reports.first = none →
        s.capture d =
          { s with
            reports := { s.reports with first := some { detail := d, time := s.time.clock }, kinds := kinds } }.post
          (.error d true))
      ∧ (s.reports.first ≠ none →
        s.capture d = { s with reports := { s.reports with more := true, kinds := kinds } }.post (.error d false)))

/-- SET FILTER replaces the filter or answers BAD_ARGUMENT, and a notice passes by its kind and its line under the mask (R197); SET CRITICAL
LEVEL keeps its value, and the critical flag and the desk interrupt are levels of what stands (R196, R200); CLEAR ERRORS empties the capture,
and with POLL RESTART it restarts halted polling at the unit under the poll pointer (R12, R199). The model's own choices in it: log 6 and log
16. -/
def Obligations.ReportingCommandsTakeEffect : Prop :=
  ∀ s : State, s.TakesCommands →
    (∀ (marks : List Nat) (value mask : Nat), marks.length = 6 → (∀ m ∈ marks, m < 256) → value < 65536 → mask < 65536 →
      ((16383 < value ∨ 16383 < mask) →
        exec (.setFilter marks value mask) s = .next { s with port := plainResponse .badArgument })
      ∧ (value ≤ 16383 → mask ≤ 16383 →
        exec (.setFilter marks value mask) s = .next
          { s with
            reports :=
              { s.reports with
                filter :=
                  { accept := marks.map (fun m => decide (m ≠ 0))
                    value := BitVec.ofNat 14 value
                    mask := BitVec.ofNat 14 mask } }
            port := plainResponse .accepted }))
    ∧ (∀ (f : HeardFilter) (n : Notice),
        f.passes n = true ↔
          f.accept.getD (n.kind.code - 1) false = true
            ∧ (n = .announce ∨ ∃ l, n.line = some l ∧ BitVec.ofNat 14 l &&& f.mask = f.value &&& f.mask))
    ∧ (∀ level, level < 256 →
        exec (.setCriticalLevel level) s = .next
          { s with reports := { s.reports with critical := level }, port := plainResponse .accepted })
    ∧ (criticalFlag s.reports = true
        ↔ 1 ≤ s.reports.critical ∧ s.reports.critical ≤ 64 ∧ s.reports.critical ≤ s.reports.queue.length)
    ∧ (deskInterrupt s = true ↔
        s.seq.completions ≠ []
          ∨ criticalFlag s.reports = true
          ∨ (s.reports.critical = 0 ∨ 64 < s.reports.critical) ∧ s.reports.queue ≠ []
          ∨ s.reports.overrun = true ∨ s.reports.first ≠ none)
    ∧ (∀ r : ReportUnit, r = { s.reports with first := none, more := false, kinds := [] } →
      (s.chain.polling = true → s.NothingToGrant →
        exec .clearErrors s = .next { s with reports := r, port := plainResponse .accepted }
          ∧ exec .pollRestart s = .next { s with port := plainResponse .accepted })
      ∧ (∀ x : Chain, s.chain.polling = false → s.ChainIdle →
          x =
            { s.chain with
              polling := true
              nextPoll := s.time.now + ms 250
              exchange :=
                some
                  { request := .poll s.chain.pollPointer
                    begun := false
                    limit := s.time.now + ms 5 } } →
        exec .clearErrors s = .next { s with chain := x, reports := r, port := plainResponse .accepted }
          ∧ exec .pollRestart s = .next { s with chain := x, port := plainResponse .accepted }))

/-- The desk port's checks: a malformed command is answered BAD_ARGUMENT at any time; in unit discovery every command but READ STATUS, and in
RESETTING every command, is answered BUSY and changes nothing (R192). READ STATUS answers with the snapshot otherwise (R193, R209), in which a
slot's six bytes are its contents, tag, phase, step and bus (R136, section 12.8). The model's own choices in it: log 16 and log 40, and in the
slots log 41 and log 42. -/
def Obligations.DeskPortChecksEveryCommand : Prop :=
  (slotBytes .empty = [0, 0, 0, 0, 0, 255]
    ∧ (∀ w : Waiting,
        slotBytes (.donePending w) =
          [1] ++ bytesOf 2 w.record.tag ++ [0, byte w.record.step, byte (w.record.bus.getD 255)])
    ∧ (∀ j : Job, j.sweep = none →
        slotBytes (.job j) =
          [2] ++ bytesOf 2 j.order.tag ++ [byte j.phase.code, byte j.step, byte (j.bus.getD 255)])
    ∧ (∀ j : Job, j.sweep.isSome = true →
        slotBytes (.job j) = [3, 0, 0, byte j.phase.code, byte j.step, byte (j.bus.getD 255)])
    ∧ [Phase.access, .connecting, .ready, .running, .suspended, .releasing].map Phase.code = [1, 2, 3, 4, 5, 6])
  ∧ ∀ s : State,
    (∀ code length : Nat, code < 256 → length < 256 → commandLength code ≠ some (max 2 length) →
      exec (.badCommand code length) s = .next { s with port := plainResponse .badArgument })
    ∧ (∀ (c : Instr) (bytes : List Byte), c.wellFormed = true → encodeCommand c = some bytes →
        (∀ code length, c ≠ .badCommand code length) →
        (s.claims.station = .discovering ∧ c ≠ .readStatus ∨ s.claims.station = .resetting) →
      exec c s = .next { s with port := plainResponse .busy })
    ∧ (s.claims.station ≠ .resetting →
      exec .readStatus s = .next
        { s with
          port :=
            some
              { response := 1 :: (bytesOf 2 (statusBytes s).length ++ statusBytes s)
                reading := .nothing
                discarded := false } })

/-! ## Chapter 11: the station -/

/-- The value of a strap group: the lowest fitted position, 0 with none fitted (R201). -/
abbrev IsStrapped {w : Nat} (mask : BitVec w) (n : Nat) : Prop :=
  ((∀ i < w, mask.getLsbD i = false) ∧ n = 0)
    ∨ (n < w ∧ mask.getLsbD n = true ∧ ∀ i < n, mask.getLsbD i = false)

/-- The access wait limits of the queued orders that the clock has passed have taken effect, in queue order (R115, R194). -/
def waitsPassed (s : State) : State :=
  { s with
    seq :=
      queueEnded s
        (fun q => q.waiting.isNone && decide (q.order.submitted + s.settings.accessWait * 1000 ≤ s.time.clock))
        (fun o => queuedRecord s o (if ∃ e ∈ s.claims.entries, e.line = some o.line then .lineBusy else .noBus) (some 1)) }

/-- The access wait limit of the order in ACCESS has taken effect, if the clock has passed it (R115, R194). -/
def AccessWaitApplied (y z : State) : Prop :=
  z = y
      ∧ (∀ id j, y.accessSlot = some id → y.slot id = .job j → j.sweep = none →
        y.time.clock < j.order.submitted + y.settings.accessWait * 1000)
    ∨ ∃ id j w, y.accessSlot = some id ∧ y.slot id = .job j ∧ j.sweep = none
      ∧ j.order.submitted + y.settings.accessWait * 1000 ≤ y.time.clock ∧ SlotsStand y id ∧ ClaimEndsUnheld y w
      ∧ z =
        { w with
          seq :=
            orderEndedIn id w j
              (if ∃ e ∈ y.claims.entries, e.line = some j.order.line then .lineBusy else .noBus) (some 1) }

/-- The suspend limit has taken effect, if the clock has passed it (R127, R194). -/
def SuspensionApplied (y z : State) : Prop :=
  z = y
      ∧ (∀ j, y.seq.active = .job j → j.phase = .suspended →
        y.time.clock < j.suspendedAt + y.settings.suspend * 1000)
    ∨ ∃ j b c, y.seq.active = .job j ∧ j.phase = .suspended
      ∧ j.suspendedAt + y.settings.suspend * 1000 ≤ y.time.clock ∧ j.bus = some b ∧ y.head.bus = some b
      ∧ y.head.state ≠ .offBus ∧ y.entryAt b = .own c ∧ c.state = .held
      ∧ z = abandonedAtHead y j b c .suspendExpired (some j.step)

/-- A ticket has been closed by its clear-hold deadline (R161, R165, R166). -/
def closedByClock (s : State) (t : Ticket) : State :=
  ({ s with
      tickets :=
        { s.tickets with
          table :=
            s.tickets.table.map (fun (x : Ticket) =>
              if x.ident = t.ident then closedTicket x (s.time.clock / 1000) .auto else x) }
      records :=
        { s.records with
          table := putRecord s.records.table t.line { s.recordOf t.line with ticket := none } } }.offerPlain
    (.ticket t.ident t.line .closed t.latest)).post
      (.ticketChange t.ident t.line (some t.state) .closed t.latest .auto)

/-- The clear-hold deadlines that the clock has passed have taken effect, in table order (R161, R194). -/
def clearHoldsPassed (s : State) : State :=
  (s.tickets.table.filter (fun t =>
    t.state == .cleared && t.deadline.any (fun d => decide (d ≤ s.time.clock / 1000)))).foldl closedByClock s

/-- The sweep's due time has taken effect, if the clock has passed it (R176, R177, R184, R194): an INTERVAL sweep seeks; in HALTED_COMPLETE with
neither an offer nor a job an overdue ticket makes an offer, and with none overdue the due time moves on by whole intervals past the clock. -/
def duePassed (s : State) : State :=
  match s.sweep.due with
  | none => s
  | some d =>
    let i := s.sweep.interval * 1000
    if s.time.clock < d then s
    else if s.sweep.state = .interval then
      { s with sweep := { s.sweep with state := .seeking, offer := true, guardPassed := false } }
    else if s.sweep.state = .haltedComplete ∧ s.sweep.offer = false ∧ s.sweepInSlot = false then
      if ∃ t ∈ s.tickets.table, ∃ m ∈ t.retestDue, m ≤ s.time.clock / 1000 then
        { s with sweep := { s.sweep with offer := true, guardPassed := false } }
      else { s with sweep := { s.sweep with due := some (d + ((s.time.clock - d) / i + 1) * i) } }
    else s

/-- The guard time has taken effect, if the clock has passed it (R176, R194). -/
def guardPast (s : State) : State :=
  if s.sweep.offer = true ∧ s.sweep.guardPassed = false
      ∧ ∃ d ∈ s.sweep.due, d + s.settings.guard * 1000 ≤ s.time.clock then
    { s with sweep := { s.sweep with guardPassed := true } }
  else s

/-- Power-on takes the straps and puts every block at its power-on values with the first CHAIN CLEAR sent; the units keep what they have operated
but for what a request cut short on the chain may have changed (R1, R137, R201, R202). SET TIME sets the clock, and every limit it passes takes
effect at once: the access wait limits of the queued orders and of the order in ACCESS, the suspend limit, the clear-hold deadlines, the sweep's
due time and its guard time (R115, R127, R161, R176, R177, R194). LOAD SETTINGS replaces every setting, clamped, in STARTING alone (R105, R172,
R203), and JOIN leaves STARTING with an ANNOUNCE (R204), which an idle transmitter has in flight at once; a first try that waited in STARTING
begins now, if the line is quiet (R21, R27). The model's own choices in it: log 5, log 6, log 11, log 12, log 16, log 18, log 30, log 33, log 34,
log 35 and log 43. -/
def Obligations.PowerOnTimeSettingsAndJoin : Prop :=
  (∀ (s : State) (m : StrapMasks) (station buses base units : Nat),
      IsStrapped m.station station → IsStrapped m.buses buses → IsStrapped m.baseUnit base →
      IsStrapped m.units units →
    ∃ (operated : List Pair) (free : Nat),
      exec (.powerOn m) s = .next
        { State.reset with
          straps :=
            { station := station
              buses := buses + 1
              base := base
              units := if 64 < base + (units + 1) then 64 - base else units + 1 }
          chain := { Chain.powerOn with driveSet := operated }
          claims := { State.reset.claims with entries := List.replicate (buses + 1) .free }
          sweep := Sweep.powerOn (base * 256)
          free := free
          pending := s.pending }
      ∧ (∀ p ∈ operated, p ∈ s.chain.driveSet ∨ ∃ e, s.chain.exchange = some e ∧ e.request = .operate p)
      ∧ (∀ p ∈ s.chain.driveSet,
          (∀ e, s.chain.exchange = some e → e.request ≠ .release p ∧ e.request ≠ .chainClear) → p ∈ operated)
      ∧ (s.chain.exchange = none → operated = s.chain.driveSet ∧ free = s.free))
  ∧ ∀ s : State, s.TakesCommands →
    (∀ (n : Nat) (y z : State), n < 4294967296 → (s.seq.queue.map (fun q => q.order.tag)).Nodup → s.NothingToGrant →
        AccessWaitApplied (waitsPassed { s with time := { s.time with clock := n * 1000 }, port := none }) y →
        SuspensionApplied y z →
      exec (.setTime n) s = .next
        { guardPast (duePassed (clearHoldsPassed z)) with port := plainResponse .accepted })
    ∧ (∀ (r : SettingsRecord) (openLevel : Nat), r.wellFormed = true → openLevel = max 1 (min 255 r.openLevel) →
      (s.claims.station ≠ .starting → exec (.loadSettings r) s = .next { s with port := plainResponse .state })
      ∧ (s.claims.station = .starting →
        exec (.loadSettings r) s = .next
          { s with
            settings :=
              { foreign := max 1000 (min 50000 r.foreign)
                loop := max 100 (min 10000 r.loop)
                ground := max 1000 (min 500000 r.ground)
                insulation := max 100000 (min 50000000 r.insulation)
                imbalance := max 10 (min 95 r.imbalance)
                gauge := r.gauge.map (fun g => max 20000 (min 80000 g))
                accessWait := max 1 (min 300 r.accessWait)
                suspend := max 10 (min 600 r.suspend)
                decay := max 1 (min 1440 r.decay)
                openLevel := openLevel
                clearLevel := if openLevel ≤ min 254 r.clearLevel then openLevel - 1 else min 254 r.clearLevel
                clearHold := max 10 (min 10080 r.clearHold)
                retest := max 1 (min 1440 r.retest)
                guard := max 10 (min 600 r.guard) }
            chain :=
              { s.chain with
                units := List.zipWith (fun u g => { u with gauge := min 3 g }) s.chain.units r.gaugeIndex }
            port := plainResponse .accepted }))
    ∧ (s.claims.station ≠ .starting → exec .join s = .next { s with port := plainResponse .state })
    ∧ (s.claims.station = .starting → ∀ (t : State) (announce : Tx),
        t = { s with claims := { s.claims with station := .joining }, port := plainResponse .accepted } →
        announce = { notice := .announce, tag := .joining } →
      (s.line.flight = none → s.line.queue = [] →
        exec .join s = .next { t with line := broughtIntoFlight t announce })
      ∧ (s.line.flight.isSome = true → s.line.queue.length < 16 →
        exec .join s = .next
          { t with line := { firstTryBegun t with queue := s.line.queue ++ [announce] } })
      ∧ (s.line.flight.isSome = true → 16 ≤ s.line.queue.length →
        exec .join s = .next
          { t with line := { firstTryBegun t with heldClaims := s.line.heldClaims ++ [announce] } }))

/-- A notice in flight or waiting whose join period has been abandoned begins none (R205). -/
def joinAbandoned (x : DeskLine) : DeskLine :=
  let plain (tx : Tx) : Tx := { tx with tag := if tx.tag = .joining then .plain else tx.tag }
  { x with
    flight := x.flight.map (fun f => { f with tx := plain f.tx })
    queue := x.queue.map plain
    heldClaims := x.heldClaims.map plain }

/-- A station reset empties the slot at once: it holds no job, or one in ACCESS (R134). -/
abbrev SlotDiscarded (x : Slot) : Prop := ∀ j, x = .job j → j.phase = .access

/-- STATION RESET is answered STATE in STARTING; otherwise the station enters RESETTING, its orders and records are discarded, with a job in ACCESS
and a claim in the making, the sweep is STOPPED without a report, and a job at the head begins its release sequence from wherever the head stands,
with no closing evaluation, a READY job in the staged slot its release at the chain (R46, R63, R79, R80, R84, R134, R174, R205). The reset ends
when both slots are empty and nothing of it is left to send, no RELEASE of it and no CLAIM it withdrew, and until then RESET_END changes nothing:
the queues, reports and capture are emptied and the station joins, its ANNOUNCE in flight at once on an idle transmitter (R21, R27), or with a
clash mark is ISOLATED and captures it; any other notice in flight, a CLAIM withdrawn before the reset with it, runs on past the end (R32, R37,
R206). The model's own choices in it: log 3, log 6, log 11, log 12, log 15, log 16 and log 27. -/
def Obligations.StationResetBeginsAndEnds : Prop :=
  ∀ s : State,
    (s.claims.station = .starting → exec .stationReset s = .next { s with port := plainResponse .state })
    ∧ (s.TakesCommands → s.claims.station ≠ .starting → s.NothingToGrant →
        ∀ x w : State,
          x =
            { s with
              claims := { s.claims with station := .resetting, joinUntil := none, clashMark := none }
              line := joinAbandoned s.line
              seq := { s.seq with queue := [], completions := [] }
              sweep :=
                { s.sweep with
                  state := .stopped
                  due := none
                  offer := false
                  guardPassed := false
                  pointerOwed := false
                  stopPending := false }
              port := plainResponse .accepted } →
          ClaimEndsUnheld x w →
        (SlotDiscarded s.seq.active → SlotDiscarded s.seq.staged →
          exec .stationReset s = .next { w with seq := { w.seq with active := .empty, staged := .empty } })
        ∧ (∀ (j : Job) (b : Nat) (own : OwnClaim), s.seq.active = .job j → SlotDiscarded s.seq.staged →
            (j.phase = .ready ∨ j.phase = .running ∨ j.phase = .suspended) → j.bus = some b → s.head.bus = some b →
            s.head.state ≠ .offBus → w.entryAt b = .own own → own.state = .held →
          exec .stationReset s = .next
            { w with
              claims := claimReleased w.claims b own
              seq :=
                { w.seq with
                  active := .job { suspensionEnded j s.time.clock with phase := .releasing, inserted := false }
                  staged := .empty }
              head := headLeaves s.head s.time.now })
        ∧ (∀ (j : Job) (b : Nat) (own : OwnClaim), SlotDiscarded s.seq.active → s.seq.staged = .job j →
            j.phase = .ready → j.bus = some b → j.nothingOperated = false → w.entryAt b = .own own → own.state = .held →
            s.ChainIdle → s.chain.ops = [] →
          exec .stationReset s = .next
            { w with
              claims := claimReleased w.claims b own
              seq :=
                { w.seq with active := .job { j with phase := .releasing, inserted := false }, staged := .empty }
              chain := releaseSent s.chain { bus := b, line := j.order.line } s.time.now }))
    ∧ (s.claims.station ≠ .resetting → exec .resetEnd s = .next s)
    ∧ ((s.seq.active ≠ .empty ∨ s.seq.staged ≠ .empty ∨ (∃ f, s.line.flight = some f ∧ f.tx.tag = .ofReset)
          ∨ ∃ tx ∈ s.line.queue ++ s.line.heldClaims, tx.tag = .ofReset) →
        exec .resetEnd s = .next s)
    ∧ (s.claims.station = .resetting → s.seq.active = .empty → s.seq.staged = .empty → s.seq.queue = [] →
        s.claims.opening = none → (∀ f, s.line.flight = some f → f.tx.tag ≠ .ofReset) →
        (∀ tx ∈ s.line.queue ++ s.line.heldClaims, tx.tag ≠ .ofReset) →
        ∀ (r : ReportUnit) (x : DeskLine) (t u : State) (announce : Tx),
          announce = { notice := .announce, tag := .joining } →
          r = { s.reports with queue := [], overrun := false, first := none, more := false, kinds := [] } →
          x = { s.line with queue := [], heldClaims := [], heldVerdicts := [], heldTickets := [] } →
          t = { s with claims := { s.claims with station := .joining }, line := x, reports := r } →
          u = { s with line := x } →
        (s.claims.clashMark = none →
          (s.line.flight = none → exec .resetEnd s = .next { t with line := broughtIntoFlight t announce })
          ∧ (s.line.flight.isSome = true →
            exec .resetEnd s = .next { t with line := { firstTryBegun t with queue := [announce] } }))
        ∧ (∀ k, s.claims.clashMark = some k →
          exec .resetEnd s = .next
            { s with
              claims := { s.claims with station := .isolated, joinUntil := none, clashMark := none }
              line := firstTryBegun u
              reports :=
                { r with
                  queue := [{ time := s.time.clock, content := .error (.stationClash k) true }]
                  first := some { detail := .stationClash k, time := s.time.clock }
                  kinds := [.stationClash] } }))

end Statements
end

