-- ==== Sys2Proof/Laws/State.lean ====
section
/-! SUPPORT. For each named update of State, what each field reads after it: all true by definition. -/

namespace Sys2Proof.Machine

@[simp] theorem State.setStraps_straps (s : State) (x : Straps) : (s.setStraps x).straps = x := rfl
@[simp] theorem State.setStraps_settings (s : State) (x : Straps) : (s.setStraps x).settings = s.settings := rfl
@[simp] theorem State.setStraps_time (s : State) (x : Straps) : (s.setStraps x).time = s.time := rfl
@[simp] theorem State.setStraps_chain (s : State) (x : Straps) : (s.setStraps x).chain = s.chain := rfl
@[simp] theorem State.setStraps_line (s : State) (x : Straps) : (s.setStraps x).line = s.line := rfl
@[simp] theorem State.setStraps_claims (s : State) (x : Straps) : (s.setStraps x).claims = s.claims := rfl
@[simp] theorem State.setStraps_head (s : State) (x : Straps) : (s.setStraps x).head = s.head := rfl
@[simp] theorem State.setStraps_seq (s : State) (x : Straps) : (s.setStraps x).seq = s.seq := rfl
@[simp] theorem State.setStraps_records (s : State) (x : Straps) : (s.setStraps x).records = s.records := rfl
@[simp] theorem State.setStraps_tickets (s : State) (x : Straps) : (s.setStraps x).tickets = s.tickets := rfl
@[simp] theorem State.setStraps_sweep (s : State) (x : Straps) : (s.setStraps x).sweep = s.sweep := rfl
@[simp] theorem State.setStraps_reports (s : State) (x : Straps) : (s.setStraps x).reports = s.reports := rfl
@[simp] theorem State.setStraps_port (s : State) (x : Straps) : (s.setStraps x).port = s.port := rfl
@[simp] theorem State.setStraps_free (s : State) (x : Straps) : (s.setStraps x).free = s.free := rfl
@[simp] theorem State.setStraps_pending (s : State) (x : Straps) : (s.setStraps x).pending = s.pending := rfl
@[simp] theorem State.setSettings_straps (s : State) (x : Settings) : (s.setSettings x).straps = s.straps := rfl
@[simp] theorem State.setSettings_settings (s : State) (x : Settings) : (s.setSettings x).settings = x := rfl
@[simp] theorem State.setSettings_time (s : State) (x : Settings) : (s.setSettings x).time = s.time := rfl
@[simp] theorem State.setSettings_chain (s : State) (x : Settings) : (s.setSettings x).chain = s.chain := rfl
@[simp] theorem State.setSettings_line (s : State) (x : Settings) : (s.setSettings x).line = s.line := rfl
@[simp] theorem State.setSettings_claims (s : State) (x : Settings) : (s.setSettings x).claims = s.claims := rfl
@[simp] theorem State.setSettings_head (s : State) (x : Settings) : (s.setSettings x).head = s.head := rfl
@[simp] theorem State.setSettings_seq (s : State) (x : Settings) : (s.setSettings x).seq = s.seq := rfl
@[simp] theorem State.setSettings_records (s : State) (x : Settings) : (s.setSettings x).records = s.records := rfl
@[simp] theorem State.setSettings_tickets (s : State) (x : Settings) : (s.setSettings x).tickets = s.tickets := rfl
@[simp] theorem State.setSettings_sweep (s : State) (x : Settings) : (s.setSettings x).sweep = s.sweep := rfl
@[simp] theorem State.setSettings_reports (s : State) (x : Settings) : (s.setSettings x).reports = s.reports := rfl
@[simp] theorem State.setSettings_port (s : State) (x : Settings) : (s.setSettings x).port = s.port := rfl
@[simp] theorem State.setSettings_free (s : State) (x : Settings) : (s.setSettings x).free = s.free := rfl
@[simp] theorem State.setSettings_pending (s : State) (x : Settings) : (s.setSettings x).pending = s.pending := rfl
@[simp] theorem State.setTime_straps (s : State) (x : Time) : (s.setTime x).straps = s.straps := rfl
@[simp] theorem State.setTime_settings (s : State) (x : Time) : (s.setTime x).settings = s.settings := rfl
@[simp] theorem State.setTime_time (s : State) (x : Time) : (s.setTime x).time = x := rfl
@[simp] theorem State.setTime_chain (s : State) (x : Time) : (s.setTime x).chain = s.chain := rfl
@[simp] theorem State.setTime_line (s : State) (x : Time) : (s.setTime x).line = s.line := rfl
@[simp] theorem State.setTime_claims (s : State) (x : Time) : (s.setTime x).claims = s.claims := rfl
@[simp] theorem State.setTime_head (s : State) (x : Time) : (s.setTime x).head = s.head := rfl
@[simp] theorem State.setTime_seq (s : State) (x : Time) : (s.setTime x).seq = s.seq := rfl
@[simp] theorem State.setTime_records (s : State) (x : Time) : (s.setTime x).records = s.records := rfl
@[simp] theorem State.setTime_tickets (s : State) (x : Time) : (s.setTime x).tickets = s.tickets := rfl
@[simp] theorem State.setTime_sweep (s : State) (x : Time) : (s.setTime x).sweep = s.sweep := rfl
@[simp] theorem State.setTime_reports (s : State) (x : Time) : (s.setTime x).reports = s.reports := rfl
@[simp] theorem State.setTime_port (s : State) (x : Time) : (s.setTime x).port = s.port := rfl
@[simp] theorem State.setTime_free (s : State) (x : Time) : (s.setTime x).free = s.free := rfl
@[simp] theorem State.setTime_pending (s : State) (x : Time) : (s.setTime x).pending = s.pending := rfl
@[simp] theorem State.setChain_straps (s : State) (x : Chain) : (s.setChain x).straps = s.straps := rfl
@[simp] theorem State.setChain_settings (s : State) (x : Chain) : (s.setChain x).settings = s.settings := rfl
@[simp] theorem State.setChain_time (s : State) (x : Chain) : (s.setChain x).time = s.time := rfl
@[simp] theorem State.setChain_chain (s : State) (x : Chain) : (s.setChain x).chain = x := rfl
@[simp] theorem State.setChain_line (s : State) (x : Chain) : (s.setChain x).line = s.line := rfl
@[simp] theorem State.setChain_claims (s : State) (x : Chain) : (s.setChain x).claims = s.claims := rfl
@[simp] theorem State.setChain_head (s : State) (x : Chain) : (s.setChain x).head = s.head := rfl
@[simp] theorem State.setChain_seq (s : State) (x : Chain) : (s.setChain x).seq = s.seq := rfl
@[simp] theorem State.setChain_records (s : State) (x : Chain) : (s.setChain x).records = s.records := rfl
@[simp] theorem State.setChain_tickets (s : State) (x : Chain) : (s.setChain x).tickets = s.tickets := rfl
@[simp] theorem State.setChain_sweep (s : State) (x : Chain) : (s.setChain x).sweep = s.sweep := rfl
@[simp] theorem State.setChain_reports (s : State) (x : Chain) : (s.setChain x).reports = s.reports := rfl
@[simp] theorem State.setChain_port (s : State) (x : Chain) : (s.setChain x).port = s.port := rfl
@[simp] theorem State.setChain_free (s : State) (x : Chain) : (s.setChain x).free = s.free := rfl
@[simp] theorem State.setChain_pending (s : State) (x : Chain) : (s.setChain x).pending = s.pending := rfl
@[simp] theorem State.setLine_straps (s : State) (x : DeskLine) : (s.setLine x).straps = s.straps := rfl
@[simp] theorem State.setLine_settings (s : State) (x : DeskLine) : (s.setLine x).settings = s.settings := rfl
@[simp] theorem State.setLine_time (s : State) (x : DeskLine) : (s.setLine x).time = s.time := rfl
@[simp] theorem State.setLine_chain (s : State) (x : DeskLine) : (s.setLine x).chain = s.chain := rfl
@[simp] theorem State.setLine_line (s : State) (x : DeskLine) : (s.setLine x).line = x := rfl
@[simp] theorem State.setLine_claims (s : State) (x : DeskLine) : (s.setLine x).claims = s.claims := rfl
@[simp] theorem State.setLine_head (s : State) (x : DeskLine) : (s.setLine x).head = s.head := rfl
@[simp] theorem State.setLine_seq (s : State) (x : DeskLine) : (s.setLine x).seq = s.seq := rfl
@[simp] theorem State.setLine_records (s : State) (x : DeskLine) : (s.setLine x).records = s.records := rfl
@[simp] theorem State.setLine_tickets (s : State) (x : DeskLine) : (s.setLine x).tickets = s.tickets := rfl
@[simp] theorem State.setLine_sweep (s : State) (x : DeskLine) : (s.setLine x).sweep = s.sweep := rfl
@[simp] theorem State.setLine_reports (s : State) (x : DeskLine) : (s.setLine x).reports = s.reports := rfl
@[simp] theorem State.setLine_port (s : State) (x : DeskLine) : (s.setLine x).port = s.port := rfl
@[simp] theorem State.setLine_free (s : State) (x : DeskLine) : (s.setLine x).free = s.free := rfl
@[simp] theorem State.setLine_pending (s : State) (x : DeskLine) : (s.setLine x).pending = s.pending := rfl
@[simp] theorem State.setClaims_straps (s : State) (x : Claims) : (s.setClaims x).straps = s.straps := rfl
@[simp] theorem State.setClaims_settings (s : State) (x : Claims) : (s.setClaims x).settings = s.settings := rfl
@[simp] theorem State.setClaims_time (s : State) (x : Claims) : (s.setClaims x).time = s.time := rfl
@[simp] theorem State.setClaims_chain (s : State) (x : Claims) : (s.setClaims x).chain = s.chain := rfl
@[simp] theorem State.setClaims_line (s : State) (x : Claims) : (s.setClaims x).line = s.line := rfl
@[simp] theorem State.setClaims_claims (s : State) (x : Claims) : (s.setClaims x).claims = x := rfl
@[simp] theorem State.setClaims_head (s : State) (x : Claims) : (s.setClaims x).head = s.head := rfl
@[simp] theorem State.setClaims_seq (s : State) (x : Claims) : (s.setClaims x).seq = s.seq := rfl
@[simp] theorem State.setClaims_records (s : State) (x : Claims) : (s.setClaims x).records = s.records := rfl
@[simp] theorem State.setClaims_tickets (s : State) (x : Claims) : (s.setClaims x).tickets = s.tickets := rfl
@[simp] theorem State.setClaims_sweep (s : State) (x : Claims) : (s.setClaims x).sweep = s.sweep := rfl
@[simp] theorem State.setClaims_reports (s : State) (x : Claims) : (s.setClaims x).reports = s.reports := rfl
@[simp] theorem State.setClaims_port (s : State) (x : Claims) : (s.setClaims x).port = s.port := rfl
@[simp] theorem State.setClaims_free (s : State) (x : Claims) : (s.setClaims x).free = s.free := rfl
@[simp] theorem State.setClaims_pending (s : State) (x : Claims) : (s.setClaims x).pending = s.pending := rfl
@[simp] theorem State.setHead_straps (s : State) (x : Head) : (s.setHead x).straps = s.straps := rfl
@[simp] theorem State.setHead_settings (s : State) (x : Head) : (s.setHead x).settings = s.settings := rfl
@[simp] theorem State.setHead_time (s : State) (x : Head) : (s.setHead x).time = s.time := rfl
@[simp] theorem State.setHead_chain (s : State) (x : Head) : (s.setHead x).chain = s.chain := rfl
@[simp] theorem State.setHead_line (s : State) (x : Head) : (s.setHead x).line = s.line := rfl
@[simp] theorem State.setHead_claims (s : State) (x : Head) : (s.setHead x).claims = s.claims := rfl
@[simp] theorem State.setHead_head (s : State) (x : Head) : (s.setHead x).head = x := rfl
@[simp] theorem State.setHead_seq (s : State) (x : Head) : (s.setHead x).seq = s.seq := rfl
@[simp] theorem State.setHead_records (s : State) (x : Head) : (s.setHead x).records = s.records := rfl
@[simp] theorem State.setHead_tickets (s : State) (x : Head) : (s.setHead x).tickets = s.tickets := rfl
@[simp] theorem State.setHead_sweep (s : State) (x : Head) : (s.setHead x).sweep = s.sweep := rfl
@[simp] theorem State.setHead_reports (s : State) (x : Head) : (s.setHead x).reports = s.reports := rfl
@[simp] theorem State.setHead_port (s : State) (x : Head) : (s.setHead x).port = s.port := rfl
@[simp] theorem State.setHead_free (s : State) (x : Head) : (s.setHead x).free = s.free := rfl
@[simp] theorem State.setHead_pending (s : State) (x : Head) : (s.setHead x).pending = s.pending := rfl
@[simp] theorem State.setSeq_straps (s : State) (x : Sequencer) : (s.setSeq x).straps = s.straps := rfl
@[simp] theorem State.setSeq_settings (s : State) (x : Sequencer) : (s.setSeq x).settings = s.settings := rfl
@[simp] theorem State.setSeq_time (s : State) (x : Sequencer) : (s.setSeq x).time = s.time := rfl
@[simp] theorem State.setSeq_chain (s : State) (x : Sequencer) : (s.setSeq x).chain = s.chain := rfl
@[simp] theorem State.setSeq_line (s : State) (x : Sequencer) : (s.setSeq x).line = s.line := rfl
@[simp] theorem State.setSeq_claims (s : State) (x : Sequencer) : (s.setSeq x).claims = s.claims := rfl
@[simp] theorem State.setSeq_head (s : State) (x : Sequencer) : (s.setSeq x).head = s.head := rfl
@[simp] theorem State.setSeq_seq (s : State) (x : Sequencer) : (s.setSeq x).seq = x := rfl
@[simp] theorem State.setSeq_records (s : State) (x : Sequencer) : (s.setSeq x).records = s.records := rfl
@[simp] theorem State.setSeq_tickets (s : State) (x : Sequencer) : (s.setSeq x).tickets = s.tickets := rfl
@[simp] theorem State.setSeq_sweep (s : State) (x : Sequencer) : (s.setSeq x).sweep = s.sweep := rfl
@[simp] theorem State.setSeq_reports (s : State) (x : Sequencer) : (s.setSeq x).reports = s.reports := rfl
@[simp] theorem State.setSeq_port (s : State) (x : Sequencer) : (s.setSeq x).port = s.port := rfl
@[simp] theorem State.setSeq_free (s : State) (x : Sequencer) : (s.setSeq x).free = s.free := rfl
@[simp] theorem State.setSeq_pending (s : State) (x : Sequencer) : (s.setSeq x).pending = s.pending := rfl
@[simp] theorem State.setRecords_straps (s : State) (x : Records) : (s.setRecords x).straps = s.straps := rfl
@[simp] theorem State.setRecords_settings (s : State) (x : Records) : (s.setRecords x).settings = s.settings := rfl
@[simp] theorem State.setRecords_time (s : State) (x : Records) : (s.setRecords x).time = s.time := rfl
@[simp] theorem State.setRecords_chain (s : State) (x : Records) : (s.setRecords x).chain = s.chain := rfl
@[simp] theorem State.setRecords_line (s : State) (x : Records) : (s.setRecords x).line = s.line := rfl
@[simp] theorem State.setRecords_claims (s : State) (x : Records) : (s.setRecords x).claims = s.claims := rfl
@[simp] theorem State.setRecords_head (s : State) (x : Records) : (s.setRecords x).head = s.head := rfl
@[simp] theorem State.setRecords_seq (s : State) (x : Records) : (s.setRecords x).seq = s.seq := rfl
@[simp] theorem State.setRecords_records (s : State) (x : Records) : (s.setRecords x).records = x := rfl
@[simp] theorem State.setRecords_tickets (s : State) (x : Records) : (s.setRecords x).tickets = s.tickets := rfl
@[simp] theorem State.setRecords_sweep (s : State) (x : Records) : (s.setRecords x).sweep = s.sweep := rfl
@[simp] theorem State.setRecords_reports (s : State) (x : Records) : (s.setRecords x).reports = s.reports := rfl
@[simp] theorem State.setRecords_port (s : State) (x : Records) : (s.setRecords x).port = s.port := rfl
@[simp] theorem State.setRecords_free (s : State) (x : Records) : (s.setRecords x).free = s.free := rfl
@[simp] theorem State.setRecords_pending (s : State) (x : Records) : (s.setRecords x).pending = s.pending := rfl
@[simp] theorem State.setTickets_straps (s : State) (x : Tickets) : (s.setTickets x).straps = s.straps := rfl
@[simp] theorem State.setTickets_settings (s : State) (x : Tickets) : (s.setTickets x).settings = s.settings := rfl
@[simp] theorem State.setTickets_time (s : State) (x : Tickets) : (s.setTickets x).time = s.time := rfl
@[simp] theorem State.setTickets_chain (s : State) (x : Tickets) : (s.setTickets x).chain = s.chain := rfl
@[simp] theorem State.setTickets_line (s : State) (x : Tickets) : (s.setTickets x).line = s.line := rfl
@[simp] theorem State.setTickets_claims (s : State) (x : Tickets) : (s.setTickets x).claims = s.claims := rfl
@[simp] theorem State.setTickets_head (s : State) (x : Tickets) : (s.setTickets x).head = s.head := rfl
@[simp] theorem State.setTickets_seq (s : State) (x : Tickets) : (s.setTickets x).seq = s.seq := rfl
@[simp] theorem State.setTickets_records (s : State) (x : Tickets) : (s.setTickets x).records = s.records := rfl
@[simp] theorem State.setTickets_tickets (s : State) (x : Tickets) : (s.setTickets x).tickets = x := rfl
@[simp] theorem State.setTickets_sweep (s : State) (x : Tickets) : (s.setTickets x).sweep = s.sweep := rfl
@[simp] theorem State.setTickets_reports (s : State) (x : Tickets) : (s.setTickets x).reports = s.reports := rfl
@[simp] theorem State.setTickets_port (s : State) (x : Tickets) : (s.setTickets x).port = s.port := rfl
@[simp] theorem State.setTickets_free (s : State) (x : Tickets) : (s.setTickets x).free = s.free := rfl
@[simp] theorem State.setTickets_pending (s : State) (x : Tickets) : (s.setTickets x).pending = s.pending := rfl
@[simp] theorem State.setSweep_straps (s : State) (x : Sweep) : (s.setSweep x).straps = s.straps := rfl
@[simp] theorem State.setSweep_settings (s : State) (x : Sweep) : (s.setSweep x).settings = s.settings := rfl
@[simp] theorem State.setSweep_time (s : State) (x : Sweep) : (s.setSweep x).time = s.time := rfl
@[simp] theorem State.setSweep_chain (s : State) (x : Sweep) : (s.setSweep x).chain = s.chain := rfl
@[simp] theorem State.setSweep_line (s : State) (x : Sweep) : (s.setSweep x).line = s.line := rfl
@[simp] theorem State.setSweep_claims (s : State) (x : Sweep) : (s.setSweep x).claims = s.claims := rfl
@[simp] theorem State.setSweep_head (s : State) (x : Sweep) : (s.setSweep x).head = s.head := rfl
@[simp] theorem State.setSweep_seq (s : State) (x : Sweep) : (s.setSweep x).seq = s.seq := rfl
@[simp] theorem State.setSweep_records (s : State) (x : Sweep) : (s.setSweep x).records = s.records := rfl
@[simp] theorem State.setSweep_tickets (s : State) (x : Sweep) : (s.setSweep x).tickets = s.tickets := rfl
@[simp] theorem State.setSweep_sweep (s : State) (x : Sweep) : (s.setSweep x).sweep = x := rfl
@[simp] theorem State.setSweep_reports (s : State) (x : Sweep) : (s.setSweep x).reports = s.reports := rfl
@[simp] theorem State.setSweep_port (s : State) (x : Sweep) : (s.setSweep x).port = s.port := rfl
@[simp] theorem State.setSweep_free (s : State) (x : Sweep) : (s.setSweep x).free = s.free := rfl
@[simp] theorem State.setSweep_pending (s : State) (x : Sweep) : (s.setSweep x).pending = s.pending := rfl
@[simp] theorem State.setReports_straps (s : State) (x : ReportUnit) : (s.setReports x).straps = s.straps := rfl
@[simp] theorem State.setReports_settings (s : State) (x : ReportUnit) : (s.setReports x).settings = s.settings := rfl
@[simp] theorem State.setReports_time (s : State) (x : ReportUnit) : (s.setReports x).time = s.time := rfl
@[simp] theorem State.setReports_chain (s : State) (x : ReportUnit) : (s.setReports x).chain = s.chain := rfl
@[simp] theorem State.setReports_line (s : State) (x : ReportUnit) : (s.setReports x).line = s.line := rfl
@[simp] theorem State.setReports_claims (s : State) (x : ReportUnit) : (s.setReports x).claims = s.claims := rfl
@[simp] theorem State.setReports_head (s : State) (x : ReportUnit) : (s.setReports x).head = s.head := rfl
@[simp] theorem State.setReports_seq (s : State) (x : ReportUnit) : (s.setReports x).seq = s.seq := rfl
@[simp] theorem State.setReports_records (s : State) (x : ReportUnit) : (s.setReports x).records = s.records := rfl
@[simp] theorem State.setReports_tickets (s : State) (x : ReportUnit) : (s.setReports x).tickets = s.tickets := rfl
@[simp] theorem State.setReports_sweep (s : State) (x : ReportUnit) : (s.setReports x).sweep = s.sweep := rfl
@[simp] theorem State.setReports_reports (s : State) (x : ReportUnit) : (s.setReports x).reports = x := rfl
@[simp] theorem State.setReports_port (s : State) (x : ReportUnit) : (s.setReports x).port = s.port := rfl
@[simp] theorem State.setReports_free (s : State) (x : ReportUnit) : (s.setReports x).free = s.free := rfl
@[simp] theorem State.setReports_pending (s : State) (x : ReportUnit) : (s.setReports x).pending = s.pending := rfl
@[simp] theorem State.setPort_straps (s : State) (x : Option Transaction) : (s.setPort x).straps = s.straps := rfl
@[simp] theorem State.setPort_settings (s : State) (x : Option Transaction) : (s.setPort x).settings = s.settings := rfl
@[simp] theorem State.setPort_time (s : State) (x : Option Transaction) : (s.setPort x).time = s.time := rfl
@[simp] theorem State.setPort_chain (s : State) (x : Option Transaction) : (s.setPort x).chain = s.chain := rfl
@[simp] theorem State.setPort_line (s : State) (x : Option Transaction) : (s.setPort x).line = s.line := rfl
@[simp] theorem State.setPort_claims (s : State) (x : Option Transaction) : (s.setPort x).claims = s.claims := rfl
@[simp] theorem State.setPort_head (s : State) (x : Option Transaction) : (s.setPort x).head = s.head := rfl
@[simp] theorem State.setPort_seq (s : State) (x : Option Transaction) : (s.setPort x).seq = s.seq := rfl
@[simp] theorem State.setPort_records (s : State) (x : Option Transaction) : (s.setPort x).records = s.records := rfl
@[simp] theorem State.setPort_tickets (s : State) (x : Option Transaction) : (s.setPort x).tickets = s.tickets := rfl
@[simp] theorem State.setPort_sweep (s : State) (x : Option Transaction) : (s.setPort x).sweep = s.sweep := rfl
@[simp] theorem State.setPort_reports (s : State) (x : Option Transaction) : (s.setPort x).reports = s.reports := rfl
@[simp] theorem State.setPort_port (s : State) (x : Option Transaction) : (s.setPort x).port = x := rfl
@[simp] theorem State.setPort_free (s : State) (x : Option Transaction) : (s.setPort x).free = s.free := rfl
@[simp] theorem State.setPort_pending (s : State) (x : Option Transaction) : (s.setPort x).pending = s.pending := rfl
@[simp] theorem State.setFree_straps (s : State) (x : Nat) : (s.setFree x).straps = s.straps := rfl
@[simp] theorem State.setFree_settings (s : State) (x : Nat) : (s.setFree x).settings = s.settings := rfl
@[simp] theorem State.setFree_time (s : State) (x : Nat) : (s.setFree x).time = s.time := rfl
@[simp] theorem State.setFree_chain (s : State) (x : Nat) : (s.setFree x).chain = s.chain := rfl
@[simp] theorem State.setFree_line (s : State) (x : Nat) : (s.setFree x).line = s.line := rfl
@[simp] theorem State.setFree_claims (s : State) (x : Nat) : (s.setFree x).claims = s.claims := rfl
@[simp] theorem State.setFree_head (s : State) (x : Nat) : (s.setFree x).head = s.head := rfl
@[simp] theorem State.setFree_seq (s : State) (x : Nat) : (s.setFree x).seq = s.seq := rfl
@[simp] theorem State.setFree_records (s : State) (x : Nat) : (s.setFree x).records = s.records := rfl
@[simp] theorem State.setFree_tickets (s : State) (x : Nat) : (s.setFree x).tickets = s.tickets := rfl
@[simp] theorem State.setFree_sweep (s : State) (x : Nat) : (s.setFree x).sweep = s.sweep := rfl
@[simp] theorem State.setFree_reports (s : State) (x : Nat) : (s.setFree x).reports = s.reports := rfl
@[simp] theorem State.setFree_port (s : State) (x : Nat) : (s.setFree x).port = s.port := rfl
@[simp] theorem State.setFree_free (s : State) (x : Nat) : (s.setFree x).free = x := rfl
@[simp] theorem State.setFree_pending (s : State) (x : Nat) : (s.setFree x).pending = s.pending := rfl

end Sys2Proof.Machine
end

