-- ==== Sys2Proof/Laws/Frames.lean ====
section
/-! SUPPORT. What the passing of time, a report, a captured error and a command's reply leave as it was, field by field. -/

namespace Sys2Proof.Machine

@[simp] theorem State.pass_straps (s : State) (q : Nat) : (s.pass q).straps = s.straps := rfl
@[simp] theorem State.pass_settings (s : State) (q : Nat) : (s.pass q).settings = s.settings := rfl
@[simp] theorem State.pass_chain (s : State) (q : Nat) : (s.pass q).chain = s.chain := rfl
@[simp] theorem State.pass_line (s : State) (q : Nat) : (s.pass q).line = s.line := rfl
@[simp] theorem State.pass_claims (s : State) (q : Nat) : (s.pass q).claims = s.claims := rfl
@[simp] theorem State.pass_head (s : State) (q : Nat) : (s.pass q).head = s.head := rfl
@[simp] theorem State.pass_seq (s : State) (q : Nat) : (s.pass q).seq = s.seq := rfl
@[simp] theorem State.pass_records (s : State) (q : Nat) : (s.pass q).records = s.records := rfl
@[simp] theorem State.pass_tickets (s : State) (q : Nat) : (s.pass q).tickets = s.tickets := rfl
@[simp] theorem State.pass_sweep (s : State) (q : Nat) : (s.pass q).sweep = s.sweep := rfl
@[simp] theorem State.pass_reports (s : State) (q : Nat) : (s.pass q).reports = s.reports := rfl
@[simp] theorem State.pass_port (s : State) (q : Nat) : (s.pass q).port = s.port := rfl
@[simp] theorem State.pass_free (s : State) (q : Nat) : (s.pass q).free = s.free := rfl
@[simp] theorem State.pass_pending (s : State) (q : Nat) : (s.pass q).pending = s.pending := rfl
@[simp] theorem State.passTo_straps (s : State) (m : Nat) : (s.passTo m).straps = s.straps := rfl
@[simp] theorem State.passTo_settings (s : State) (m : Nat) : (s.passTo m).settings = s.settings := rfl
@[simp] theorem State.passTo_chain (s : State) (m : Nat) : (s.passTo m).chain = s.chain := rfl
@[simp] theorem State.passTo_line (s : State) (m : Nat) : (s.passTo m).line = s.line := rfl
@[simp] theorem State.passTo_claims (s : State) (m : Nat) : (s.passTo m).claims = s.claims := rfl
@[simp] theorem State.passTo_head (s : State) (m : Nat) : (s.passTo m).head = s.head := rfl
@[simp] theorem State.passTo_seq (s : State) (m : Nat) : (s.passTo m).seq = s.seq := rfl
@[simp] theorem State.passTo_records (s : State) (m : Nat) : (s.passTo m).records = s.records := rfl
@[simp] theorem State.passTo_tickets (s : State) (m : Nat) : (s.passTo m).tickets = s.tickets := rfl
@[simp] theorem State.passTo_sweep (s : State) (m : Nat) : (s.passTo m).sweep = s.sweep := rfl
@[simp] theorem State.passTo_reports (s : State) (m : Nat) : (s.passTo m).reports = s.reports := rfl
@[simp] theorem State.passTo_port (s : State) (m : Nat) : (s.passTo m).port = s.port := rfl
@[simp] theorem State.passTo_free (s : State) (m : Nat) : (s.passTo m).free = s.free := rfl
@[simp] theorem State.passTo_pending (s : State) (m : Nat) : (s.passTo m).pending = s.pending := rfl
@[simp] theorem State.passClockTo_straps (s : State) (m : Nat) : (s.passClockTo m).straps = s.straps := rfl
@[simp] theorem State.passClockTo_settings (s : State) (m : Nat) : (s.passClockTo m).settings = s.settings := rfl
@[simp] theorem State.passClockTo_chain (s : State) (m : Nat) : (s.passClockTo m).chain = s.chain := rfl
@[simp] theorem State.passClockTo_line (s : State) (m : Nat) : (s.passClockTo m).line = s.line := rfl
@[simp] theorem State.passClockTo_claims (s : State) (m : Nat) : (s.passClockTo m).claims = s.claims := rfl
@[simp] theorem State.passClockTo_head (s : State) (m : Nat) : (s.passClockTo m).head = s.head := rfl
@[simp] theorem State.passClockTo_seq (s : State) (m : Nat) : (s.passClockTo m).seq = s.seq := rfl
@[simp] theorem State.passClockTo_records (s : State) (m : Nat) : (s.passClockTo m).records = s.records := rfl
@[simp] theorem State.passClockTo_tickets (s : State) (m : Nat) : (s.passClockTo m).tickets = s.tickets := rfl
@[simp] theorem State.passClockTo_sweep (s : State) (m : Nat) : (s.passClockTo m).sweep = s.sweep := rfl
@[simp] theorem State.passClockTo_reports (s : State) (m : Nat) : (s.passClockTo m).reports = s.reports := rfl
@[simp] theorem State.passClockTo_port (s : State) (m : Nat) : (s.passClockTo m).port = s.port := rfl
@[simp] theorem State.passClockTo_free (s : State) (m : Nat) : (s.passClockTo m).free = s.free := rfl
@[simp] theorem State.passClockTo_pending (s : State) (m : Nat) : (s.passClockTo m).pending = s.pending := rfl

/-- An event's moment: never before now. -/
@[simp] theorem State.passTo_now (s : State) (m : Nat) : (s.passTo m).time.now = max s.time.now m := by
  simp only [State.passTo, State.pass, State.setTime_time]; omega


@[simp] theorem State.post_straps (s : State) (c : ReportContent) : (s.post c).straps = s.straps := by
  unfold State.post; split <;> rfl
@[simp] theorem State.post_settings (s : State) (c : ReportContent) : (s.post c).settings = s.settings := by
  unfold State.post; split <;> rfl
@[simp] theorem State.post_time (s : State) (c : ReportContent) : (s.post c).time = s.time := by
  unfold State.post; split <;> rfl
@[simp] theorem State.post_chain (s : State) (c : ReportContent) : (s.post c).chain = s.chain := by
  unfold State.post; split <;> rfl
@[simp] theorem State.post_line (s : State) (c : ReportContent) : (s.post c).line = s.line := by
  unfold State.post; split <;> rfl
@[simp] theorem State.post_claims (s : State) (c : ReportContent) : (s.post c).claims = s.claims := by
  unfold State.post; split <;> rfl
@[simp] theorem State.post_head (s : State) (c : ReportContent) : (s.post c).head = s.head := by
  unfold State.post; split <;> rfl
@[simp] theorem State.post_seq (s : State) (c : ReportContent) : (s.post c).seq = s.seq := by
  unfold State.post; split <;> rfl
@[simp] theorem State.post_records (s : State) (c : ReportContent) : (s.post c).records = s.records := by
  unfold State.post; split <;> rfl
@[simp] theorem State.post_tickets (s : State) (c : ReportContent) : (s.post c).tickets = s.tickets := by
  unfold State.post; split <;> rfl
@[simp] theorem State.post_sweep (s : State) (c : ReportContent) : (s.post c).sweep = s.sweep := by
  unfold State.post; split <;> rfl
@[simp] theorem State.post_free (s : State) (c : ReportContent) : (s.post c).free = s.free := by
  unfold State.post; split <;> rfl
@[simp] theorem State.post_pending (s : State) (c : ReportContent) : (s.post c).pending = s.pending := by
  unfold State.post; split <;> rfl
@[simp] theorem State.capture_straps (s : State) (d : ErrorDetail) : (s.capture d).straps = s.straps := by
  simp [State.capture]
@[simp] theorem State.capture_settings (s : State) (d : ErrorDetail) : (s.capture d).settings = s.settings := by
  simp [State.capture]
@[simp] theorem State.capture_time (s : State) (d : ErrorDetail) : (s.capture d).time = s.time := by
  simp [State.capture]
@[simp] theorem State.capture_chain (s : State) (d : ErrorDetail) : (s.capture d).chain = s.chain := by
  simp [State.capture]
@[simp] theorem State.capture_line (s : State) (d : ErrorDetail) : (s.capture d).line = s.line := by
  simp [State.capture]
@[simp] theorem State.capture_claims (s : State) (d : ErrorDetail) : (s.capture d).claims = s.claims := by
  simp [State.capture]
@[simp] theorem State.capture_head (s : State) (d : ErrorDetail) : (s.capture d).head = s.head := by
  simp [State.capture]
@[simp] theorem State.capture_seq (s : State) (d : ErrorDetail) : (s.capture d).seq = s.seq := by
  simp [State.capture]
@[simp] theorem State.capture_records (s : State) (d : ErrorDetail) : (s.capture d).records = s.records := by
  simp [State.capture]
@[simp] theorem State.capture_tickets (s : State) (d : ErrorDetail) : (s.capture d).tickets = s.tickets := by
  simp [State.capture]
@[simp] theorem State.capture_sweep (s : State) (d : ErrorDetail) : (s.capture d).sweep = s.sweep := by
  simp [State.capture]
@[simp] theorem State.capture_free (s : State) (d : ErrorDetail) : (s.capture d).free = s.free := by
  simp [State.capture]
@[simp] theorem State.capture_pending (s : State) (d : ErrorDetail) : (s.capture d).pending = s.pending := by
  simp [State.capture]

theorem State.setStraps_post (s : State) (x : Straps) (c : ReportContent) : (s.setStraps x).post c = (s.post c).setStraps x := by
  by_cases h : s.reports.queue.length < Config.reportCap
  · rw [State.post, State.post, if_pos (by exact h), if_pos h]; rfl
  · rw [State.post, State.post, if_neg (by exact h), if_neg h]; rfl

theorem State.setStraps_capture (s : State) (x : Straps) (d : ErrorDetail) : (s.setStraps x).capture d = (s.capture d).setStraps x := by
  unfold State.capture
  rw [← State.setStraps_post]
  rfl

theorem State.setSettings_post (s : State) (x : Settings) (c : ReportContent) : (s.setSettings x).post c = (s.post c).setSettings x := by
  by_cases h : s.reports.queue.length < Config.reportCap
  · rw [State.post, State.post, if_pos (by exact h), if_pos h]; rfl
  · rw [State.post, State.post, if_neg (by exact h), if_neg h]; rfl

theorem State.setSettings_capture (s : State) (x : Settings) (d : ErrorDetail) : (s.setSettings x).capture d = (s.capture d).setSettings x := by
  unfold State.capture
  rw [← State.setSettings_post]
  rfl

theorem State.setChain_post (s : State) (x : Chain) (c : ReportContent) : (s.setChain x).post c = (s.post c).setChain x := by
  by_cases h : s.reports.queue.length < Config.reportCap
  · rw [State.post, State.post, if_pos (by exact h), if_pos h]; rfl
  · rw [State.post, State.post, if_neg (by exact h), if_neg h]; rfl

theorem State.setChain_capture (s : State) (x : Chain) (d : ErrorDetail) : (s.setChain x).capture d = (s.capture d).setChain x := by
  unfold State.capture
  rw [← State.setChain_post]
  rfl

theorem State.setLine_post (s : State) (x : DeskLine) (c : ReportContent) : (s.setLine x).post c = (s.post c).setLine x := by
  by_cases h : s.reports.queue.length < Config.reportCap
  · rw [State.post, State.post, if_pos (by exact h), if_pos h]; rfl
  · rw [State.post, State.post, if_neg (by exact h), if_neg h]; rfl

theorem State.setLine_capture (s : State) (x : DeskLine) (d : ErrorDetail) : (s.setLine x).capture d = (s.capture d).setLine x := by
  unfold State.capture
  rw [← State.setLine_post]
  rfl

theorem State.setClaims_post (s : State) (x : Claims) (c : ReportContent) : (s.setClaims x).post c = (s.post c).setClaims x := by
  by_cases h : s.reports.queue.length < Config.reportCap
  · rw [State.post, State.post, if_pos (by exact h), if_pos h]; rfl
  · rw [State.post, State.post, if_neg (by exact h), if_neg h]; rfl

theorem State.setClaims_capture (s : State) (x : Claims) (d : ErrorDetail) : (s.setClaims x).capture d = (s.capture d).setClaims x := by
  unfold State.capture
  rw [← State.setClaims_post]
  rfl

theorem State.setHead_post (s : State) (x : Head) (c : ReportContent) : (s.setHead x).post c = (s.post c).setHead x := by
  by_cases h : s.reports.queue.length < Config.reportCap
  · rw [State.post, State.post, if_pos (by exact h), if_pos h]; rfl
  · rw [State.post, State.post, if_neg (by exact h), if_neg h]; rfl

theorem State.setHead_capture (s : State) (x : Head) (d : ErrorDetail) : (s.setHead x).capture d = (s.capture d).setHead x := by
  unfold State.capture
  rw [← State.setHead_post]
  rfl

theorem State.setSeq_post (s : State) (x : Sequencer) (c : ReportContent) : (s.setSeq x).post c = (s.post c).setSeq x := by
  by_cases h : s.reports.queue.length < Config.reportCap
  · rw [State.post, State.post, if_pos (by exact h), if_pos h]; rfl
  · rw [State.post, State.post, if_neg (by exact h), if_neg h]; rfl

theorem State.setSeq_capture (s : State) (x : Sequencer) (d : ErrorDetail) : (s.setSeq x).capture d = (s.capture d).setSeq x := by
  unfold State.capture
  rw [← State.setSeq_post]
  rfl

theorem State.setRecords_post (s : State) (x : Records) (c : ReportContent) : (s.setRecords x).post c = (s.post c).setRecords x := by
  by_cases h : s.reports.queue.length < Config.reportCap
  · rw [State.post, State.post, if_pos (by exact h), if_pos h]; rfl
  · rw [State.post, State.post, if_neg (by exact h), if_neg h]; rfl

theorem State.setRecords_capture (s : State) (x : Records) (d : ErrorDetail) : (s.setRecords x).capture d = (s.capture d).setRecords x := by
  unfold State.capture
  rw [← State.setRecords_post]
  rfl

theorem State.setTickets_post (s : State) (x : Tickets) (c : ReportContent) : (s.setTickets x).post c = (s.post c).setTickets x := by
  by_cases h : s.reports.queue.length < Config.reportCap
  · rw [State.post, State.post, if_pos (by exact h), if_pos h]; rfl
  · rw [State.post, State.post, if_neg (by exact h), if_neg h]; rfl

theorem State.setTickets_capture (s : State) (x : Tickets) (d : ErrorDetail) : (s.setTickets x).capture d = (s.capture d).setTickets x := by
  unfold State.capture
  rw [← State.setTickets_post]
  rfl

theorem State.setSweep_post (s : State) (x : Sweep) (c : ReportContent) : (s.setSweep x).post c = (s.post c).setSweep x := by
  by_cases h : s.reports.queue.length < Config.reportCap
  · rw [State.post, State.post, if_pos (by exact h), if_pos h]; rfl
  · rw [State.post, State.post, if_neg (by exact h), if_neg h]; rfl

theorem State.setSweep_capture (s : State) (x : Sweep) (d : ErrorDetail) : (s.setSweep x).capture d = (s.capture d).setSweep x := by
  unfold State.capture
  rw [← State.setSweep_post]
  rfl

theorem State.setFree_post (s : State) (x : Nat) (c : ReportContent) : (s.setFree x).post c = (s.post c).setFree x := by
  by_cases h : s.reports.queue.length < Config.reportCap
  · rw [State.post, State.post, if_pos (by exact h), if_pos h]; rfl
  · rw [State.post, State.post, if_neg (by exact h), if_neg h]; rfl

theorem State.setFree_capture (s : State) (x : Nat) (d : ErrorDetail) : (s.setFree x).capture d = (s.capture d).setFree x := by
  unfold State.capture
  rw [← State.setFree_post]
  rfl

end Sys2Proof.Machine
end

