-- ==== Sys2Proof/Laws/Tables.lean ====
section
/-! SUPPORT. What the operations over the two tables do: the claim table's entries (R38, R41, R57 to R59) and the line records (R138). -/

namespace Sys2Proof.Machine

/-! ## The entries of the claim table -/

/-- The line of the OWN entry of a bus. -/
def ownLine (es : List Entry) (b : Nat) : Option Nat := (es.getD b .free).own?.map (·.line)

theorem OneClaimPerLine.of_sub {es es' : List Entry} (hlen : es'.length = es.length)
    (h : ∀ b l, ownLine es' b = some l → ownLine es b = some l) (hes : OneClaimPerLine es) : OneClaimPerLine es' := by
  intro b hb b' hb' c hc c' hc' hl
  have h1 := h b c.line (by simp only [ownLine]; rw [Option.mem_def.mp hc]; rfl)
  have h2 := h b' c'.line (by simp only [ownLine]; rw [Option.mem_def.mp hc']; rfl)
  simp only [ownLine, Option.map_eq_some_iff] at h1 h2
  obtain ⟨d, hd, hdl⟩ := h1
  obtain ⟨d', hd', hdl'⟩ := h2
  exact hes b (hlen ▸ hb) b' (hlen ▸ hb') d hd d' hd' (by rw [hdl, hdl', hl])

theorem getD_set (es : List Entry) (b b' : Nat) (e : Entry) :
    (es.set b e).getD b' .free = if b = b' ∧ b < es.length then e else es.getD b' .free := by
  simp only [List.getD_eq_getElem?_getD, List.getElem?_set]
  split <;> rename_i h
  · subst h
    by_cases hb : b < es.length <;> simp [hb]
  · simp [h]

theorem getD_map_range (n : Nat) (f : Nat → Entry) (b : Nat) :
    ((List.range n).map f).getD b .free = if b < n then f b else .free := by
  simp only [List.getD_eq_getElem?_getD, List.getElem?_map]
  by_cases hb : b < n <;> simp [hb]

theorem getD_free (es : List Entry) (b : Nat) (hb : es.length ≤ b) : es.getD b .free = .free := by
  simp [List.getD_eq_getElem?_getD, List.getElem?_eq_none hb]

/-- Setting an entry that carries no claim of this station makes no new one. -/
theorem ownLine_set_other (es : List Entry) (b : Nat) (e : Entry) (he : e.own? = none) (b' l : Nat)
    (h : ownLine (es.set b e) b' = some l) : ownLine es b' = some l := by
  unfold ownLine at h ⊢
  rw [getD_set] at h
  split at h
  · simp [he] at h
  · exact h

/-- A table made entry by entry, each either as it was or without a claim of this station. -/
theorem ownLine_map_range (es : List Entry) (f : Nat → Entry)
    (hf : ∀ b, f b = es.getD b .free ∨ (f b).own? = none) (b l : Nat)
    (h : ownLine ((List.range es.length).map f) b = some l) : ownLine es b = some l := by
  unfold ownLine at h ⊢
  rw [getD_map_range] at h
  split at h
  · rcases hf b with hb | hb
    · rwa [hb] at h
    · simp [hb] at h
  · simp [Entry.own?] at h

theorem withoutConflicts_own (p : Pair) (es : List Entry) (b l : Nat)
    (h : ownLine (withoutConflicts p es) b = some l) : ownLine es b = some l := by
  refine ownLine_map_range es _ (fun b => ?_) b l h
  split
  · split <;> simp_all [Entry.own?]
  · left; rfl

theorem putBack_own (es : List Entry) (a : Awaited) (b l : Nat) (h : ownLine (putBack es a) b = some l) :
    ownLine es b = some l := by
  unfold putBack at h
  dsimp only at h
  split at h
  · exact ownLine_set_other _ _ _ rfl _ _ h
  · split at h
    · exact h
    · exact ownLine_set_other _ _ _ rfl _ _ h
  · exact h

theorem putBack_length (es : List Entry) (a : Awaited) : (putBack es a).length = es.length := by
  unfold putBack
  dsimp only
  split <;> (try split) <;> simp

theorem foldl_putBack (xs : List Awaited) (es : List Entry) :
    (xs.foldl putBack es).length = es.length
      ∧ ∀ b l, ownLine (xs.foldl putBack es) b = some l → ownLine es b = some l := by
  induction xs generalizing es with
  | nil => simp
  | cons a xs ih =>
    obtain ⟨h1, h2⟩ := ih (putBack es a)
    exact ⟨h1.trans (putBack_length es a), fun b l h => putBack_own es a b l (h2 b l h)⟩

theorem hearClaim_length (h : HeardClaim) (x : Nat) (es : List Entry) : (hearClaim h x es).length = es.length := by
  unfold hearClaim
  dsimp only
  split
  · rfl
  · (repeat' split) <;> simp [settleOwnStation, dropRivals]

theorem settleOwnStation_own (h : HeardClaim) (x : Nat) (es : List Entry) (b l : Nat)
    (k : ownLine (settleOwnStation h x es) b = some l) : ownLine es b = some l := by
  refine ownLine_map_range es _ (fun b => ?_) b l k
  split
  · right; (repeat' split) <;> rfl
  · left; rfl

theorem dropRivals_own (h : HeardClaim) (es : List Entry) (b l : Nat)
    (k : ownLine (dropRivals h es) b = some l) : ownLine es b = some l := by
  refine ownLine_map_range es _ (fun b => ?_) b l k
  split
  · right; rfl
  · left; rfl

theorem hearClaim_own (h : HeardClaim) (x : Nat) (es : List Entry) (b l : Nat)
    (k : ownLine (hearClaim h x es) b = some l) : ownLine es b = some l := by
  unfold hearClaim at k
  dsimp only at k
  split at k
  · exact k
  · split at k
    · exact settleOwnStation_own _ _ _ _ _ (dropRivals_own _ _ _ _ (ownLine_set_other _ _ _ rfl _ _ k))
    · split at k
      · exact k
      · exact settleOwnStation_own _ _ _ _ _ k

theorem hearRelease_length (st : Nat) (p : Pair) (es : List Entry) : (hearRelease st p es).length = es.length := by
  unfold hearRelease
  split
  · split <;> simp
  · rfl

theorem hearRelease_own (st : Nat) (p : Pair) (es : List Entry) (b l : Nat)
    (k : ownLine (hearRelease st p es) b = some l) : ownLine es b = some l := by
  unfold hearRelease at k
  split at k
  · split at k
    · exact ownLine_set_other _ _ _ rfl _ _ k
    · exact k
  · exact k

theorem allEntries_get (f : Nat → Entry → Bool) (es : List Entry) (h : allEntries f es = true) (b : Nat)
    (hb : b < es.length) : f b (es.getD b .free) = true := by
  simp only [allEntries, List.all_eq_true, List.mem_range] at h
  exact h b hb

/-- A claim takes a pair that conflicts with no OWN entry (R41), so no two OWN entries come to name one line. -/
theorem takePair_own (es : List Entry) (station : Nat) (u : Urgency) (p : Pair) (c : OwnClaim) (hc : c.line = p.line)
    (hf : allEntries (entryAllows station u p) es = true) (hes : OneClaimPerLine es) :
    OneClaimPerLine ((withoutConflicts p es).set p.bus (.own c)) := by
  have clash : ∀ b < es.length, ∀ d ∈ (es.getD b .free).own?, d.line = p.line → False := by
    intro b hb d hd hl
    have := allEntries_get _ _ hf b hb
    rcases he : es.getD b .free with _ | e | e <;> simp_all [Entry.own?, entryAllows, conflicts, Entry.line]
  have old : ∀ b < es.length, ∀ d ∈ ((withoutConflicts p es).getD b .free).own?, ∃ d' ∈ (es.getD b .free).own?, d'.line = d.line := by
    intro b hb d hd
    have := withoutConflicts_own p es b d.line (by simp only [ownLine]; rw [Option.mem_def.mp hd]; rfl)
    simpa [ownLine] using this
  have hlen : (withoutConflicts p es).length = es.length := by simp [withoutConflicts]
  intro b hb b' hb' d hd d' hd' hl
  simp only [List.length_set, hlen] at hb hb'
  rw [getD_set] at hd hd'
  rw [hlen] at hd hd'
  split at hd <;> split at hd' <;> rename_i h1 h2
  · omega
  · simp only [Entry.own?, Option.mem_def, Option.some.injEq] at hd
    obtain ⟨e, he, hel⟩ := old b' hb' d' hd'
    exact absurd (by rw [hel, ← hl, ← hd, hc]) (clash b' hb' e he)
  · simp only [Entry.own?, Option.mem_def, Option.some.injEq] at hd'
    obtain ⟨e, he, hel⟩ := old b hb d hd
    exact absurd (by rw [hel, hl, ← hd', hc]) (clash b hb e he)
  · obtain ⟨e, he, hel⟩ := old b hb d hd
    obtain ⟨e', he', hel'⟩ := old b' hb' d' hd'
    exact hes b hb b' hb' e he e' he' (by rw [hel, hel', hl])

/-! ## The line records -/

/-- Looking a record up after one has been replaced. -/
theorem lookRecord_putRecord (t : List (Nat × LineRecord)) (n m : Nat) (r : LineRecord) (h : recordsWf t = true) :
    lookRecord (putRecord t n r) m = if m = n then r else lookRecord t m := by
  have below : ∀ (t : List (Nat × LineRecord)) (k : Nat), (∀ e ∈ t, k < e.1) → lookRecord t k = LineRecord.powerOn := by
    intro t
    induction t with
    | nil => intros; rfl
    | cons e t ih =>
      intro k hk
      have h1 := hk e (by simp)
      simp only [lookRecord]
      rw [if_neg (by omega)]
      exact ih k (fun e he => hk e (by simp [he]))
  induction t with
  | nil =>
    simp only [putRecord]
    by_cases hr : r = LineRecord.powerOn
    · simp [hr, lookRecord]
    · by_cases hm : m = n
      · simp [hr, lookRecord, hm]
      · simp [hr, lookRecord, hm, Ne.symm hm]
  | cons e t ih =>
    obtain ⟨k, x⟩ := e
    simp only [recordsWf, Bool.and_eq_true, decide_eq_true_eq, List.all_eq_true] at h
    obtain ⟨⟨_, hk⟩, ht⟩ := h
    have ih := ih ht
    simp only [putRecord]
    split
    · split
      · rename_i hn hr
        subst hr
        by_cases hm : m = n
        · subst hm
          rw [if_pos rfl]
          exact below _ _ (by
            intro e he
            rcases List.mem_cons.mp he with rfl | he
            · exact hn
            · exact lt_trans hn (hk e he))
        · simp [hm]
      · simp only [lookRecord]
        by_cases hm : m = n
        · simp [hm]
        · rw [if_neg (by omega), if_neg hm]
    · split
      · rename_i hn1 hn2
        subst hn2
        split
        · rename_i hr
          subst hr
          by_cases hm : m = n
          · subst hm; rw [if_pos rfl]; exact below _ _ hk
          · simp [lookRecord, hm, Ne.symm hm]
        · by_cases hm : m = n
          · simp [lookRecord, hm]
          · simp [lookRecord, hm, Ne.symm hm]
      · simp only [lookRecord]
        by_cases hm : k = m
        · rw [if_pos hm, if_pos hm, if_neg (by omega)]
        · rw [if_neg hm, if_neg hm, ih]

/-- Replacing a record adds no line number but its own. -/
theorem putRecord_keys (t : List (Nat × LineRecord)) (n : Nat) (r : LineRecord) (e : Nat × LineRecord)
    (he : e ∈ putRecord t n r) : e ∈ t ∨ e = (n, r) := by
  induction t with
  | nil =>
    simp only [putRecord] at he
    split at he <;> simp_all
  | cons d t ih =>
    simp only [putRecord] at he
    split at he
    · split at he <;> (simp_all; try tauto)
    · split at he
      · split at he <;> simp_all
        tauto
      · rcases List.mem_cons.mp he with rfl | he
        · simp
        · rcases ih he with h | h <;> simp [h]

/-- Replacing a record keeps the canonical form. -/
theorem putRecord_wf (t : List (Nat × LineRecord)) (n : Nat) (r : LineRecord) (h : recordsWf t = true) :
    recordsWf (putRecord t n r) = true := by
  induction t with
  | nil => simp only [putRecord]; split <;> simp_all [recordsWf]
  | cons d t ih =>
    obtain ⟨k, x⟩ := d
    have h' := h
    simp only [recordsWf, Bool.and_eq_true, decide_eq_true_eq, List.all_eq_true] at h
    obtain ⟨⟨hx, hk⟩, ht⟩ := h
    simp only [putRecord]
    split
    · rename_i hn
      split
      · exact h'
      · rename_i hr
        simp only [recordsWf, Bool.and_eq_true, decide_eq_true_eq, List.all_eq_true]
        refine ⟨⟨hr, ?_⟩, ⟨hx, hk⟩, ht⟩
        intro e he
        rcases List.mem_cons.mp he with rfl | he
        · exact hn
        · exact lt_trans hn (hk e he)
    · split
      · rename_i hn1 hn2
        split
        · exact ht
        · rename_i hr
          simp only [recordsWf, Bool.and_eq_true, decide_eq_true_eq, List.all_eq_true]
          exact ⟨⟨hr, fun e he => hn2 ▸ hk e he⟩, ht⟩
      · simp only [recordsWf, Bool.and_eq_true, decide_eq_true_eq, List.all_eq_true]
        refine ⟨⟨hx, ?_⟩, ih ht⟩
        intro e he
        rcases putRecord_keys t n r e he with h | h
        · exact hk e h
        · subst h; dsimp only; omega

theorem lookRecord_level (t : List (Nat × LineRecord)) (n : Nat) (h : ∀ e ∈ t, e.2.level ≤ 255) :
    (lookRecord t n).level ≤ 255 := by
  induction t with
  | nil => simp [lookRecord, LineRecord.powerOn]
  | cons d t ih =>
    simp only [lookRecord]
    split
    · exact h d (by simp)
    · exact ih (fun e he => h e (by simp [he]))

theorem putRecord_sound (t : List (Nat × LineRecord)) (n : Nat) (r : LineRecord) (h : RecordsSound t)
    (hr : r.level ≤ 255) : RecordsSound (putRecord t n r) :=
  ⟨putRecord_wf t n r h.1, fun e he => by
    rcases putRecord_keys t n r e he with k | k
    · exact h.2 e k
    · subst k; exact hr⟩

theorem mapRecords_sound (f : Nat → LineRecord → LineRecord) (t : List (Nat × LineRecord)) (h : RecordsSound t)
    (hf : ∀ n r, r.level ≤ 255 → (f n r).level ≤ 255) : RecordsSound (mapRecords f t) := by
  constructor
  · have h1 := h.1
    clear h hf
    induction t with
    | nil => rfl
    | cons d t ih =>
      simp only [recordsWf, Bool.and_eq_true, decide_eq_true_eq, List.all_eq_true] at h1
      have ih := ih h1.2
      simp only [mapRecords, List.map_cons, List.filter_cons] at ih ⊢
      split
      · rename_i hd
        simp only [recordsWf, Bool.and_eq_true, decide_eq_true_eq, List.all_eq_true]
        refine ⟨⟨by simpa using hd, ?_⟩, ih⟩
        intro e he
        simp only [List.mem_filter, List.mem_map] at he
        obtain ⟨⟨a, ha, rfl⟩, _⟩ := he
        exact h1.1.2 a ha
      · exact ih
  · intro e he
    simp only [mapRecords, List.mem_filter, List.mem_map] at he
    obtain ⟨⟨a, ha, rfl⟩, _⟩ := he
    exact hf _ _ (h.2 a ha)

end Sys2Proof.Machine
end

