-- ==== Sys2Proof/Laws/Tickets.lean ====
section
/-! SUPPORT. Why the ticket law (R156) survives each change of the ticket table and of the records' ticket idents: opening, updating,
closing, clearing. -/

namespace Sys2Proof.Machine

/-! ## Serials (R153) -/

/-- The candidates for a serial, in order, counted from 1. -/
def candidateSerial (n j : Nat) : Nat := if min n 4095 + j ≤ 4095 then min n 4095 + j else min n 4095 + j - 4095

theorem stepSerial_candidate (n j : Nat) (hj : j < 4095) : stepSerial (if j = 0 then n else candidateSerial n j) = candidateSerial n (j + 1) := by
  unfold stepSerial candidateSerial
  split_ifs <;> omega

theorem freeSerial_held (ts : List Ticket) (n : Nat) : ∀ k j, k + j ≤ 4095 →
    serialHeld ts (freeSerial ts k (if j = 0 then n else candidateSerial n j)) = true → 0 < k →
    ∀ i, 1 ≤ i → i ≤ k → serialHeld ts (candidateSerial n (j + i)) = true := by
  intro k
  induction k with
  | zero => intro j _ _ h; omega
  | succ k ih =>
    intro j hk hheld _ i hi1 hi2
    unfold freeSerial at hheld
    rw [stepSerial_candidate n j (by omega)] at hheld
    split at hheld
    · rename_i hc
      rcases Nat.eq_or_lt_of_le hi1 with rfl | hi
      · exact hc
      · by_cases hk0 : k = 0
        · omega
        · have := ih (j + 1) (by omega) (by simpa using hheld) (by omega) (i - 1) (by omega) (by omega)
          have e : j + 1 + (i - 1) = j + i := by omega
          rwa [e] at this
    · rename_i hc
      exact absurd hheld hc

/-- With fewer than 128 tickets in the table the serial given out is not held (R153). -/
theorem freeSerial_free (ts : List Ticket) (n : Nat) (h : ts.length < 128) : serialHeld ts (freeSerial ts 4095 n) = false := by
  by_contra hc
  rw [Bool.not_eq_false] at hc
  have all := freeSerial_held ts n 4095 0 (by omega) (by simpa using hc) (by omega)
  have nd : ((List.range 128).map (fun i => candidateSerial n (i + 1))).Nodup := by
    refine List.Nodup.map_on ?_ List.nodup_range
    intro a ha b hb hab
    simp only [List.mem_range] at ha hb
    unfold candidateSerial at hab
    split_ifs at hab <;> omega
  have sub : (List.range 128).map (fun i => candidateSerial n (i + 1)) ⊆ ts.map (fun t => t.ident % 4096) := by
    intro v hv
    simp only [List.mem_map, List.mem_range] at hv
    obtain ⟨i, hi, rfl⟩ := hv
    have := all (i + 1) (by omega) (by omega)
    simp only [Nat.zero_add, serialHeld, List.any_eq_true, beq_iff_eq] at this
    obtain ⟨t, ht, he⟩ := this
    exact List.mem_map.mpr ⟨t, ht, he⟩
  have := (nd.subperm sub).length_le
  simp at this
  omega

theorem stepSerial_range (n : Nat) : 1 ≤ stepSerial n ∧ stepSerial n ≤ 4095 := by
  unfold stepSerial; split <;> omega

theorem freeSerial_range (ts : List Ticket) (k n : Nat) (hk : 0 < k) : 1 ≤ freeSerial ts k n ∧ freeSerial ts k n ≤ 4095 := by
  induction k generalizing n with
  | zero => omega
  | succ k ih =>
    unfold freeSerial
    split
    · by_cases h0 : k = 0
      · subst h0; exact stepSerial_range n
      · exact ih _ (by omega)
    · exact stepSerial_range n

/-! ## Listed records -/

theorem mem_of_lookRecord (t : List (Nat × LineRecord)) (n : Nat) (h : lookRecord t n ≠ LineRecord.powerOn) :
    (n, lookRecord t n) ∈ t := by
  induction t with
  | nil => exact absurd rfl h
  | cons d t ih =>
    obtain ⟨k, x⟩ := d
    simp only [lookRecord] at h ⊢
    split
    · rename_i hk; simp [hk]
    · rename_i hk
      rw [if_neg hk] at h
      exact List.mem_cons_of_mem _ (ih h)

theorem lookRecord_of_mem (t : List (Nat × LineRecord)) (h : recordsWf t = true) (e : Nat × LineRecord) (he : e ∈ t) :
    lookRecord t e.1 = e.2 := by
  induction t with
  | nil => simp at he
  | cons d t ih =>
    simp only [recordsWf, Bool.and_eq_true, decide_eq_true_eq, List.all_eq_true] at h
    simp only [lookRecord]
    rcases List.mem_cons.mp he with rfl | he
    · simp
    · have := h.1.2 e he
      rw [if_neg (by omega)]
      exact ih h.2 he

theorem ticket_mem (t : List (Nat × LineRecord)) (n i : Nat) (h : (lookRecord t n).ticket = some i) :
    (n, lookRecord t n) ∈ t :=
  mem_of_lookRecord t n (by intro e; rw [e] at h; simp [LineRecord.powerOn] at h)

theorem mem_putRecord (t : List (Nat × LineRecord)) (n : Nat) (r : LineRecord) (h : recordsWf t = true)
    (e : Nat × LineRecord) (he : e ∈ putRecord t n r) : e = (n, r) ∨ (e ∈ t ∧ e.1 ≠ n) := by
  have hl := lookRecord_of_mem _ (putRecord_wf t n r h) e he
  rw [lookRecord_putRecord t n e.1 r h] at hl
  by_cases hn : e.1 = n
  · rw [if_pos hn] at hl
    left; exact Prod.ext hn hl.symm
  · right
    rcases putRecord_keys t n r e he with k | k
    · exact ⟨k, hn⟩
    · subst k; exact absurd rfl hn

/-! ## The law through each change -/

namespace TicketLaw

variable {p : Straps} {ts : List Ticket} {rs : Records}

theorem inj (h : TicketLaw p ts rs) {t u : Ticket} (ht : t ∈ ts) (hu : u ∈ ts) (e : t.ident = u.ident) : t = u :=
  List.inj_on_of_nodup_map h.idents ht hu (by simp [e])

/-- A record is replaced by one that carries the same ticket ident. -/
theorem put_same (h : TicketLaw p ts rs) (l : Nat) (r : LineRecord) (hr : r.ticket = (lookRecord rs.table l).ticket) :
    TicketLaw p ts { rs with table := putRecord rs.table l r } where
  named t ht hl := by
    rw [lookRecord_putRecord _ _ _ _ h.sorted]
    split
    · rename_i e
      rw [hr, ← e]; exact h.named t ht hl
    · exact h.named t ht hl
  exists_ e he i hi := by
    rcases mem_putRecord _ _ _ h.sorted _ he with rfl | ⟨he, _⟩
    · rw [Option.mem_def, hr] at hi
      exact h.exists_ _ (ticket_mem _ _ _ hi) i hi
    · exact h.exists_ e he i hi
  idents := h.idents
  ours := h.ours
  few := h.few
  sorted := putRecord_wf _ _ _ h.sorted
  clearing := h.clearing

/-- A ticket is changed but keeps its ident and line and stays as live as it was. -/
theorem update (h : TicketLaw p ts rs) (i : Nat) (f : Ticket → Ticket) (hi : ∀ t, (f t).ident = t.ident)
    (hl : ∀ t, (f t).line = t.line) (hv : ∀ t ∈ ts, t.ident = i → ((f t).Live ↔ t.Live)) :
    TicketLaw p (ts.map (fun t => if t.ident = i then f t else t)) rs where
  named t ht hlive := by
    obtain ⟨u, hu, rfl⟩ := List.mem_map.mp ht
    split at hlive <;> rename_i e
    · rw [if_pos e, hl, hi]; exact h.named u hu ((hv u hu e).mp hlive)
    · rw [if_neg e]; exact h.named u hu hlive
  exists_ e he j hj := by
    obtain ⟨t, ht, hlive, hti, htl⟩ := h.exists_ e he j hj
    refine ⟨_, List.mem_map.mpr ⟨t, ht, rfl⟩, ?_, ?_, ?_⟩ <;> split <;> rename_i e'
    · exact (hv t ht e').mpr hlive
    · exact hlive
    · rw [hi]; exact hti
    · exact hti
    · rw [hl]; exact htl
    · exact htl
  idents := by
    have : (ts.map (fun t => if t.ident = i then f t else t)).map (fun t => t.ident % 4096)
        = ts.map (fun t => t.ident % 4096) := by
      rw [List.map_map]
      refine List.map_congr_left (fun t _ => ?_)
      simp only [Function.comp]
      split
      · rw [hi]
      · rfl
    rw [this]; exact h.idents
  ours t ht := by
    obtain ⟨u, hu, rfl⟩ := List.mem_map.mp ht
    split
    · rw [hi]; exact h.ours u hu
    · exact h.ours u hu
  few := by simpa using h.few
  sorted := h.sorted
  clearing hc := by rw [h.clearing hc]; rfl

/-- A live ticket becomes CLOSED and its line's record names none. -/
theorem close (h : TicketLaw p ts rs) (i l : Nat) (f : Ticket → Ticket) (hi : ∀ t, (f t).ident = t.ident)
    (hl : ∀ t, (f t).line = t.line) (hv : ∀ t, ¬ (f t).Live)
    (hex : ∃ t ∈ ts, t.Live ∧ t.ident = i ∧ t.line = l) :
    TicketLaw p (ts.map (fun t => if t.ident = i then f t else t))
      { rs with table := putRecord rs.table l { lookRecord rs.table l with ticket := none } } where
  named t ht hlive := by
    obtain ⟨u, hu, rfl⟩ := List.mem_map.mp ht
    split at hlive <;> rename_i e
    · exact absurd hlive (hv u)
    · rw [if_neg e, lookRecord_putRecord _ _ _ _ h.sorted]
      have hn := h.named u hu hlive
      split
      · rename_i el
        obtain ⟨v, hv, hvl, rfl, rfl⟩ := hex
        have := h.named v hv hvl
        rw [← el, hn] at this
        exact absurd (Option.some.inj this) e
      · exact hn
  exists_ e he j hj := by
    rcases mem_putRecord _ _ _ h.sorted _ he with rfl | ⟨he, hne⟩
    · simp at hj
    · obtain ⟨t, ht, hlive, hti, htl⟩ := h.exists_ e he j hj
      have e' : t.ident ≠ i := by
        intro e'
        obtain ⟨v, hv, _, hvi, hvl⟩ := hex
        have := h.inj ht hv (e'.trans hvi.symm)
        subst this
        exact hne (htl.symm.trans hvl)
      exact ⟨_, List.mem_map.mpr ⟨t, ht, rfl⟩, by rw [if_neg e']; exact hlive, by rw [if_neg e']; exact hti,
        by rw [if_neg e']; exact htl⟩
  idents := by
    have : (ts.map (fun t => if t.ident = i then f t else t)).map (fun t => t.ident % 4096)
        = ts.map (fun t => t.ident % 4096) := by
      rw [List.map_map]
      refine List.map_congr_left (fun t _ => ?_)
      simp only [Function.comp]
      split
      · rw [hi]
      · rfl
    rw [this]; exact h.idents
  ours t ht := by
    obtain ⟨u, hu, rfl⟩ := List.mem_map.mp ht
    split
    · rw [hi]; exact h.ours u hu
    · exact h.ours u hu
  few := by simpa using h.few
  sorted := putRecord_wf _ _ _ h.sorted
  clearing hc := by rw [h.clearing hc]; rfl

/-- Room for a new ticket: what leaves is CLOSED, and fewer than 128 stay. -/
theorem room {ts' : List Ticket} (hr : roomFor ts = some ts') (few : ts.length ≤ Config.ticketCap) :
    ts'.Sublist ts ∧ ts'.length < 128 ∧ ∀ t ∈ ts, t.Live → t ∈ ts' := by
  unfold roomFor at hr
  split at hr
  · rename_i hlt
    cases hr
    exact ⟨List.Sublist.refl _, hlt, fun t ht _ => ht⟩
  · split at hr
    · rename_i hany
      cases hr
      refine ⟨List.eraseP_sublist, ?_, fun t ht hl => ?_⟩
      · obtain ⟨a, ha, hp⟩ := List.any_eq_true.mp hany
        rw [List.length_eraseP_of_mem ha hp]
        have : 0 < ts.length := List.length_pos_of_mem ha
        simp only [Config.ticketCap] at few
        omega
      · refine (List.mem_eraseP_of_neg ?_).mpr ht
        simpa using hl
    · exact absurd hr (by simp)

/-- A ticket opens for a line whose record names none (R158, R167). -/
theorem opens (h : TicketLaw p ts rs) {ts' : List Ticket} (hr : roomFor ts = some ts') (l n : Nat)
    (t : Ticket) (r : LineRecord) (hid : t.ident = p.station * 4096 + freeSerial ts' 4095 n) (htl : t.line = l)
    (hlive : t.Live) (hrt : r.ticket = some t.ident) (hnone : (lookRecord rs.table l).ticket = none)
    (hclear : rs.clear = none) :
    TicketLaw p (ts' ++ [t]) { rs with table := putRecord rs.table l r } := by
  obtain ⟨hsub, hlen, hkeep⟩ := room hr h.few
  have hrange := freeSerial_range ts' 4095 n (by omega)
  have hfree := freeSerial_free ts' n hlen
  have hmod : t.ident % 4096 = freeSerial ts' 4095 n := by rw [hid]; omega
  refine ⟨?_, ?_, ?_, ?_, ?_, putRecord_wf _ _ _ h.sorted, ?_⟩
  · intro u hu hul
    rw [lookRecord_putRecord _ _ _ _ h.sorted]
    rcases List.mem_append.mp hu with hu | hu
    · have hn := h.named u (hsub.subset hu) hul
      split
      · rename_i e; rw [e, hnone] at hn; exact absurd hn (by simp)
      · exact hn
    · simp only [List.mem_singleton] at hu
      subst hu
      rw [if_pos htl, hrt]
  · intro e he i hi
    rcases mem_putRecord _ _ _ h.sorted _ he with rfl | ⟨he, _⟩
    · rw [Option.mem_def, hrt, Option.some.injEq] at hi
      exact ⟨t, by simp, hlive, hi, htl⟩
    · obtain ⟨u, hu, hul, hui, hue⟩ := h.exists_ e he i hi
      exact ⟨u, by simp [hkeep u hu hul], hul, hui, hue⟩
  · rw [List.map_append, List.nodup_append]
    refine ⟨(hsub.map _).nodup h.idents, by simp, ?_⟩
    intro a ha b hb
    simp only [List.map_cons, List.map_nil, List.mem_singleton] at hb
    subst hb
    obtain ⟨u, hu, rfl⟩ := List.mem_map.mp ha
    rw [hmod]
    simp only [serialHeld, List.any_eq_false, beq_iff_eq] at hfree
    exact hfree u hu
  · intro u hu
    rcases List.mem_append.mp hu with hu | hu
    · exact h.ours u (hsub.subset hu)
    · simp only [List.mem_singleton] at hu
      subst hu
      exact ⟨by rw [hid]; omega, by rw [hmod]; exact hrange.1⟩
  · simp only [List.length_append, List.length_cons, List.length_nil, Config.ticketCap]
    omega
  · intro hc
    rw [hclear] at hc
    exact absurd hc (by simp)

/-- The table is emptied and no record names a ticket (R150). -/
theorem emptied (p : Straps) (rs : Records) (hs : recordsWf rs.table = true) (hn : ∀ e ∈ rs.table, e.2.ticket = none) :
    TicketLaw p [] rs := by
  refine ⟨by simp, ?_, by simp, by simp, by simp, hs, by simp⟩
  intro e he i hi
  rw [hn e he] at hi
  exact absurd hi (by simp)

end TicketLaw

end Sys2Proof.Machine
end

