-- ==== Sys2Proof/Laws/Keeps.lean ====
section
/-! SUPPORT. What every shared operation keeps: straps, settings, time and the queue of commands as they stand; the forms, ranges and
capacities of Safety. One lemma for each operation, in the form in which it is chained. -/

namespace Sys2Proof.Machine

/-- From `s` to `t` nothing fixed has moved, and whatever was sound still is. -/
structure Keeps (s t : State) : Prop where
  straps : t.straps = s.straps
  settings : t.settings = s.settings
  time : t.time = s.time
  pending : t.pending = s.pending
  units : t.chain.units.length = s.chain.units.length
  ranges : UnitsInRange s.chain.units → UnitsInRange t.chain.units
  poller : s.chain.pollPointer < Config.unitCount → t.chain.pollPointer < Config.unitCount
  transmit : QueueSound s.line.queue → QueueSound t.line.queue
  entries : t.claims.entries.length = s.claims.entries.length
  own : OneClaimPerLine s.claims.entries → OneClaimPerLine t.claims.entries
  records : RecordsSound s.records.table → RecordsSound t.records.table
  serial : s.tickets.serial ≤ 4095 → t.tickets.serial ≤ 4095
  sweep : s.straps.InRange → s.sweep.InRange s.straps → t.sweep.InRange s.straps
  queue : s.seq.queue.length ≤ Config.orderCap → t.seq.queue.length ≤ Config.orderCap
  completions : s.seq.completions.length ≤ Config.completionCap → t.seq.completions.length ≤ Config.completionCap
  tickets : s.tickets.table.length ≤ Config.ticketCap → t.tickets.table.length ≤ Config.ticketCap
  cache : s.tickets.cache.length ≤ Config.cacheCap → t.tickets.cache.length ≤ Config.cacheCap
  reports : s.reports.queue.length ≤ Config.reportCap → t.reports.queue.length ≤ Config.reportCap
  law : TicketLaw s.straps s.tickets.table s.records → TicketLaw s.straps t.tickets.table t.records


theorem QueueSound.of_length {q : List Tx} (h : q.length ≤ Config.transmitCap) : QueueSound q := fun _ => h

theorem QueueSound.sublist {q q' : List Tx} (h : QueueSound q) (hs : q'.Sublist q) : QueueSound q' :=
  fun ⟨tx, ht, ha⟩ => hs.length_le.trans (h ⟨tx, hs.subset ht, ha⟩)

namespace Keeps

variable {r s t : State}

theorem refl (s : State) : Keeps s s := by constructor <;> simp

theorem trans (h : Keeps r s) (k : Keeps s t) : Keeps r t where
  straps := k.straps.trans h.straps
  settings := k.settings.trans h.settings
  time := k.time.trans h.time
  pending := k.pending.trans h.pending
  units := k.units.trans h.units
  ranges := k.ranges ∘ h.ranges
  poller := k.poller ∘ h.poller
  transmit := k.transmit ∘ h.transmit
  entries := k.entries.trans h.entries
  own := k.own ∘ h.own
  records := k.records ∘ h.records
  serial := k.serial ∘ h.serial
  sweep := fun a b => by
    have := k.sweep (by rw [h.straps]; exact a) (by rw [h.straps]; exact h.sweep a b)
    rwa [h.straps] at this
  queue := k.queue ∘ h.queue
  completions := k.completions ∘ h.completions
  tickets := k.tickets ∘ h.tickets
  cache := k.cache ∘ h.cache
  reports := k.reports ∘ h.reports
  law := fun a => by
    have := k.law (by rw [h.straps]; exact h.law a)
    rwa [h.straps] at this

/-! ## Updates by field -/

theorem setLine (h : Keeps r s) (x : DeskLine) (hq : QueueSound s.line.queue → QueueSound x.queue) :
    Keeps r (s.setLine x) :=
  h.trans { (refl s) with transmit := hq }

/-- A change of the desk line that leaves the transmit queue as it is. -/
theorem setLineElse (h : Keeps r s) (x : DeskLine) (hq : x.queue = s.line.queue) : Keeps r (s.setLine x) :=
  h.setLine x (by rw [hq]; exact id)

theorem setHead (h : Keeps r s) (x : Head) : Keeps r (s.setHead x) := h.trans (by constructor <;> simp)

theorem setPort (h : Keeps r s) (x : Option Transaction) : Keeps r (s.setPort x) := h.trans (by constructor <;> simp)

theorem setFree (h : Keeps r s) (x : Nat) : Keeps r (s.setFree x) := h.trans (by constructor <;> simp)

theorem setChain (h : Keeps r s) (x : Chain) (hx : x.units = s.chain.units) (hp : x.pollPointer = s.chain.pollPointer) :
    Keeps r (s.setChain x) :=
  h.trans { (refl s) with
    units := by rw [State.setChain_chain, hx]
    ranges := by rw [State.setChain_chain, hx]; exact id
    poller := by rw [State.setChain_chain, hp]; exact id }

/-- The unit table replaced by one of the same length within its ranges. -/
theorem setUnits (h : Keeps r s) (x : Chain) (hl : x.units.length = s.chain.units.length)
    (hx : UnitsInRange s.chain.units → UnitsInRange x.units) (hp : x.pollPointer = s.chain.pollPointer) :
    Keeps r (s.setChain x) :=
  h.trans { (refl s) with
    units := hl
    ranges := hx
    poller := by rw [State.setChain_chain, hp]; exact id }

/-- The poll pointer moved to a unit number. -/
theorem setPointer (h : Keeps r s) (x : Chain) (hx : x.units = s.chain.units) (hp : x.pollPointer < Config.unitCount) :
    Keeps r (s.setChain x) :=
  h.trans { (refl s) with
    units := by rw [State.setChain_chain, hx]
    ranges := by rw [State.setChain_chain, hx]; exact id
    poller := fun _ => hp }

theorem setClaims (h : Keeps r s) (x : Claims) (hx : x.entries = s.claims.entries) : Keeps r (s.setClaims x) :=
  h.trans (by constructor <;> simp [hx])

theorem setSeq (h : Keeps r s) (x : Sequencer) (hq : x.queue.length ≤ s.seq.queue.length)
    (hc : x.completions.length ≤ s.seq.completions.length) : Keeps r (s.setSeq x) :=
  h.trans (by constructor <;> (simp; try (intro _; omega)))

theorem setReports (h : Keeps r s) (x : ReportUnit) (hq : x.queue.length ≤ s.reports.queue.length) :
    Keeps r (s.setReports x) :=
  h.trans (by constructor <;> (simp; try (intro _; omega)))

theorem setSweep (h : Keeps r s) (x : Sweep) (hp : x.pointer = s.sweep.pointer) (hn : x.pass = s.sweep.pass)
    (hi : x.interval = s.sweep.interval) (hs : x.skip = s.sweep.skip) : Keeps r (s.setSweep x) :=
  h.trans (by constructor <;> simp [Sweep.InRange, hp, hn, hi, hs])

/-! ## Named operations (Ops) -/

theorem post (h : Keeps r s) (c : ReportContent) : Keeps r (s.post c) := by
  unfold State.post
  dsimp only
  split
  · exact h.trans (by constructor <;> (simp_all [Config.reportCap]; try omega))
  · exact h.trans (by constructor <;> (simp_all [Config.reportCap]; try omega))

theorem capture (h : Keeps r s) (d : ErrorDetail) : Keeps r (s.capture d) := by
  unfold State.capture
  dsimp only
  refine (h.setReports _ ?_).post _
  split <;> simp

theorem unitAt_inRange (h : UnitsInRange s.chain.units) (u : Nat) : (s.unitAt u).gauge ≤ 3 ∧ (s.unitAt u).faults ≤ 3 := by
  simp only [State.unitAt, List.getD_eq_getElem?_getD]
  cases hu : s.chain.units[u]? with
  | none => simp [UnitEntry.powerOn]
  | some e => exact h e (List.mem_of_getElem? hu)

theorem setUnit (h : Keeps r s) (u : Nat) (e : UnitEntry) (hg : e.gauge = (s.unitAt u).gauge)
    (hf : e.faults ≤ 3 ∨ e.faults = (s.unitAt u).faults) : Keeps r (s.setUnit u e) := by
  refine h.setUnits _ (by simp) (fun k x hx => ?_) rfl
  rcases List.mem_or_eq_of_mem_set hx with hx | rfl
  · exact k x hx
  · have := unitAt_inRange k u
    omega

theorem changeUnit (h : Keeps r s) (u : Nat) (st : UnitState) : Keeps r (s.changeUnit u st) := by
  unfold State.changeUnit
  split
  · exact h
  · exact (h.setUnit _ _ (by rfl) (.inr (by rfl))).post _

theorem setSlot (h : Keeps r s) (id : SlotId) (x : Slot) : Keeps r (s.setSlot id x) := by
  cases id <;> exact h.setSeq _ le_rfl le_rfl

theorem updateJob (h : Keeps r s) (id : SlotId) (f : Job → Job) : Keeps r (s.updateJob id f) := by
  unfold State.updateJob
  split
  · exact h.setSlot _ _
  · exact h

theorem takeFree (h : Keeps r s) : Keeps r s.takeFree.1 := h.setFree _

/-- The claim table replaced by one without a claim of this station that was not there. -/
theorem setEntries (h : Keeps r s) (x : Claims) (hl : x.entries.length = s.claims.entries.length)
    (ho : ∀ b l, ownLine x.entries b = some l → ownLine s.claims.entries b = some l) : Keeps r (s.setClaims x) :=
  h.trans { (refl s) with
    entries := hl
    own := fun k => k.of_sub hl ho }

theorem setEntry (h : Keeps r s) (b : Nat) (e : Entry) (he : e.own? = none) : Keeps r (s.setEntry b e) :=
  h.setEntries _ (by simp) (fun b' l => ownLine_set_other _ _ _ he b' l)

theorem updateOwn (h : Keeps r s) (b : Nat) (f : OwnClaim → OwnClaim) (hf : ∀ c, (f c).line = c.line) :
    Keeps r (s.updateOwn b f) := by
  unfold State.updateOwn
  split
  · rename_i c hc
    refine h.setEntries _ (by simp) (fun b' l k => ?_)
    unfold ownLine at k ⊢
    rw [getD_set] at k
    split at k
    · rename_i hb
      obtain ⟨rfl, hb⟩ := hb
      simp only [State.entryAt] at hc
      rw [hc]
      simpa [Entry.own?, hf] using k
    · exact k
  · exact h

/-! ## The desk line (DeskLine) -/

theorem beginTry (h : Keeps r s) : Keeps r s.beginTry := by
  unfold State.beginTry
  split
  · exact h.setLineElse _ (by rfl)
  · exact h

theorem tryNow (h : Keeps r s) : Keeps r s.tryNow := by
  unfold State.tryNow
  split
  · split
    · exact h.beginTry
    · exact h
  · exact h

theorem loadFlight (h : Keeps r s) : Keeps r s.loadFlight := by
  unfold State.loadFlight
  split
  · rename_i hq
    exact (h.setLine _ (fun k => by rw [hq] at k; exact k.sublist (List.sublist_cons_self _ _))).tryNow
  · exact h

theorem enqueue (h : Keeps r s) (tx : Tx) : Keeps r (s.enqueue tx).1 := by
  unfold State.enqueue
  split
  · exact h
  · split
    · rename_i hl
      exact h.setLine _ (fun _ => QueueSound.of_length (by simp only [List.length_append, List.length_singleton]; omega))
    · exact h

theorem holdBack (h : Keeps r s) (tx : Tx) : Keeps r (s.holdBack tx) := by
  unfold State.holdBack
  split
  · exact h.setLineElse _ (by rfl)
  · exact h.setLineElse _ (by rfl)
  · split
    · exact h
    · exact h.setLineElse _ (by rfl)

theorem handBack (h : Keeps r s) (tx : Tx) : Keeps r (s.handBack tx) := by
  unfold State.handBack
  split <;> exact h.setLineElse _ (by rfl)

theorem offer (h : Keeps r s) (tx : Tx) : Keeps r (s.offer tx) := by
  unfold State.offer
  split
  · rename_i s' heq
    have := h.enqueue tx
    rw [heq] at this
    exact this.loadFlight
  · exact h.holdBack tx

theorem offerRelease (h : Keeps r s) (p : Pair) : Keeps r (s.offerRelease p) := h.offer _

theorem offerRenewal (h : Keeps r s) (u : Urgency) (p : Pair) : Keeps r (s.offerRenewal u p) := h.offer _

theorem offerPlain (h : Keeps r s) (n : Notice) : Keeps r (s.offerPlain n) := h.offer _

/-! ## Line records and tickets (Tickets) -/

theorem setRecord (h : Keeps r s) (l : Nat) (x : LineRecord) (hv : x.level ≤ 255 ∨ x.level = (s.recordOf l).level)
    (ht : x.ticket = (s.recordOf l).ticket) : Keeps r (s.setRecord l x) :=
  h.trans { (refl s) with
    records := fun k => putRecord_sound _ _ _ k (by
      rcases hv with hv | hv
      · exact hv
      · rw [hv]; exact lookRecord_level _ _ k.2)
    law := fun k => k.put_same l x ht }

theorem updateTicket_table (s : State) (i : Nat) (f : Ticket → Ticket) :
    (s.updateTicket i f).tickets.table = s.tickets.table.map (fun t => if t.ident = i then f t else t) := rfl

theorem updateTicket (h : Keeps r s) (i : Nat) (f : Ticket → Ticket) (hi : ∀ t, (f t).ident = t.ident)
    (hl : ∀ t, (f t).line = t.line)
    (hv : TicketLaw s.straps s.tickets.table s.records → ∀ t ∈ s.tickets.table, t.ident = i → ((f t).Live ↔ t.Live)) :
    Keeps r (s.updateTicket i f) :=
  h.trans { (refl s) with
    tickets := fun k => by simpa [State.updateTicket] using k
    law := fun k => k.update i f hi hl (hv k) }

theorem announceTicket (h : Keeps r s) (b : Option TicketState) (t : Ticket) (c : TicketCause) :
    Keeps r (s.announceTicket b t c) := (h.offerPlain _).post _

theorem freeSerial_le (ts : List Ticket) (k n : Nat) (h : n ≤ 4095) : freeSerial ts k n ≤ 4095 := by
  have step : ∀ n, stepSerial n ≤ 4095 := by intro n; unfold stepSerial; split <;> omega
  induction k generalizing n with
  | zero => exact h
  | succ k ih =>
    unfold freeSerial
    split
    · exact ih _ (step n)
    · exact step n

theorem openTicket (h : Keeps r s) (l : Nat) (v : Verdict) (time : Nat) (c : TicketCause)
    (hn : (s.recordOf l).ticket = none) (hc : s.records.clear = none) : Keeps r (s.openTicket l v time c) := by
  unfold State.openTicket
  split
  · rename_i ts hts
    dsimp only
    refine announceTicket ?_ _ _ _
    refine h.trans { (refl s) with
      records := fun k => putRecord_sound _ _ _ k (lookRecord_level _ _ k.2)
      serial := freeSerial_le _ _ _
      tickets := fun k => ?_
      law := fun k => k.opens hts _ _ _ _ rfl rfl (by simp [newTicket]) rfl hn hc }
    have := (TicketLaw.room hts k).2.1
    simp [State.setRecord, Config.ticketCap]
    omega
  · exact (h.setRecord _ _ (.inr (by rfl)) (by rfl)).capture _

theorem ticket?_mem {i : Nat} {t : Ticket} (h : s.ticket? i = some t) : t ∈ s.tickets.table ∧ t.ident = i := by
  unfold State.ticket? at h
  exact ⟨List.mem_of_find?_eq_some h, by simpa using List.find?_some h⟩

theorem moveTicket (h : Keeps r s) (t : Ticket) (f : Ticket → Ticket) (c : TicketCause) (hi : ∀ t, (f t).ident = t.ident)
    (hl : ∀ t, (f t).line = t.line) (hv : ∀ t, (f t).Live)
    (ht : ∃ u ∈ s.tickets.table, u.ident = t.ident ∧ u.Live) : Keeps r (s.moveTicket t f c) := by
  unfold State.moveTicket
  refine (h.updateTicket _ f hi hl (fun k u hu e => ?_)).announceTicket _ _ _
  obtain ⟨w, hw, hwi, hwl⟩ := ht
  have := k.inj hu hw (e.trans hwi.symm)
  subst this
  exact ⟨fun _ => hwl, fun _ => hv u⟩

theorem ticketMove (h : Keeps r s) (t : Ticket) (v : Verdict) (time level : Nat)
    (ht : t.Live → ∃ u ∈ s.tickets.table, u.ident = t.ident ∧ u.Live) : Keeps r (s.ticketMove t v time level) := by
  unfold State.ticketMove
  split
  · rename_i e
    split
    · exact h.moveTicket _ _ _ (by intro; rfl) (by intro; rfl) (by intro; simp) (ht (by simp [e]))
    · exact h
  · exact h
  · rename_i e1 e2
    split
    · exact h.moveTicket _ _ _ (by intro; rfl) (by intro; rfl) (by intro; simp) (ht e2)
    · exact h

theorem ticketVerdict (h : Keeps r s) (l : Nat) (v : Verdict) (time level : Nat) (hc : s.records.clear = none) :
    Keeps r (s.ticketVerdict l v time level) := by
  unfold State.ticketVerdict
  dsimp only
  split
  · split
    · rename_i _ i hi0 _ t ht
      obtain ⟨hm, hi⟩ := ticket?_mem ht
      have k := h.updateTicket i (fun t => t.tested v time s.settings.retest) (fun _ => rfl) (fun _ => rfl)
        (fun _ u _ _ => Iff.rfl)
      refine ticketMove k _ _ _ _ (fun hl => ⟨t.tested v time s.settings.retest, ?_, rfl, hl⟩)
      rw [updateTicket_table]
      exact List.mem_map.mpr ⟨t, hm, by rw [if_pos hi]⟩
    · exact h
  · rename_i hn
    split
    · split
      · exact h.setRecord _ _ (.inr (by rfl)) (by rfl)
      · exact h.openTicket _ _ _ _ hn hc
    · split
      · exact h.openTicket _ _ _ _ hn hc
      · exact h

theorem applyVerdict (h : Keeps r s) (d : Delivery) : Keeps r (s.applyVerdict d) := by
  unfold State.applyVerdict
  split
  · exact h
  · rename_i hc
    dsimp only
    refine (h.setRecord _ _ (.inl ?_) (by rfl)).ticketVerdict _ _ _ _ (by simpa [State.setRecord] using hc)
    simp [LineRecord.judged]

/-- A ticket of the table that is not CLOSED is closed. -/
theorem shutTicket (h : Keeps r s) (t : Ticket) (c : TicketCause)
    (ht : ∃ u ∈ s.tickets.table, u.Live ∧ u.ident = t.ident ∧ u.line = t.line) : Keeps r (s.shutTicket t c) := by
  unfold State.shutTicket State.moveTicket
  refine announceTicket ?_ _ _ _
  exact h.trans { (refl s) with
    records := fun k => putRecord_sound _ _ _ k (lookRecord_level _ _ k.2)
    tickets := fun k => by simpa [State.updateTicket, State.setRecord] using k
    law := fun k => k.close _ _ _ (fun _ => rfl) (fun _ => rfl) (fun _ => by simp) ht }

/-! ## The sweep (SweepEngine) -/

theorem postSweep (h : Keeps r s) (c : SweepCause) : Keeps r (s.postSweep c) := h.post _

theorem movePointer (h : Keeps r s) (x : Sweep)
    (hp : s.straps.InRange → s.sweep.InRange s.straps → x.InRange s.straps) : Keeps r (s.setSweep x) :=
  h.trans { (refl s) with sweep := hp }

theorem firstLine_le_last (p : Straps) (h : p.InRange) : p.firstLine ≤ p.lastLine := by
  obtain ⟨_, _, _, h, _⟩ := h
  simp only [Straps.firstLine, Straps.lastLine, Config.unitLines]
  omega

theorem post_setSweep (s : State) (x : Sweep) (c : ReportContent) : (s.setSweep x).post c = (s.post c).setSweep x := by
  by_cases hl : s.reports.queue.length < Config.reportCap <;>
    simp [State.post, State.setSweep, State.setReports, State.setPort, hl]

/-- A wrap posts PASS_END and leaves the sweep at the first home line of the next pass. -/
theorem wrapPass_eq (s : State) :
    s.wrapPass
      = (s.post (.sweepState .passEnd s.sweep.state s.straps.firstLine s.sweep.pass s.sweep.skip)).setSweep
          { s.sweep with pointer := s.straps.firstLine, pass := (s.sweep.pass + 1) % 65536, skip := 0 } := by
  unfold State.wrapPass
  dsimp only
  rw [post_setSweep]
  rfl

theorem post_sweep (s : State) (c : ReportContent) : (s.post c).sweep = s.sweep := by
  unfold State.post; dsimp only; split <;> rfl

/-- The sweep at the first home line of the next pass, with no skip counted. -/
theorem passBegins (h : Keeps r s) (c : ReportContent) :
    Keeps r
      ((s.post c).setSweep
        { s.sweep with pointer := s.straps.firstLine, pass := (s.sweep.pass + 1) % 65536, skip := 0 }) := by
  refine movePointer (h.post _) _ ?_
  rw [((refl s).post c).straps, post_sweep]
  intro p k
  refine ⟨⟨by simp, firstLine_le_last _ p⟩, ?_, k.2.2⟩
  have := Nat.mod_lt (s.sweep.pass + 1) (show 0 < 65536 by omega)
  show (s.sweep.pass + 1) % 65536 ≤ 65535
  omega

theorem wrapPass (h : Keeps r s) : Keeps r s.wrapPass := by
  rw [wrapPass_eq]
  exact h.passBegins _

theorem haltIfComplete (h : Keeps r s) : Keeps r s.haltIfComplete := by
  unfold State.haltIfComplete
  split
  · exact (h.setSweep _ (by rfl) (by rfl) (by rfl) (by rfl)).postSweep _
  · exact h

theorem stepPointer (h : Keeps r s) : Keeps r s.stepPointer := by
  unfold State.stepPointer
  split
  · exact h.wrapPass.haltIfComplete
  · rename_i hn
    refine h.movePointer _ fun p k => ⟨⟨Nat.le_succ_of_le k.1.1, ?_⟩, k.2⟩
    show s.sweep.pointer + 1 ≤ _
    omega

/-- A skip is counted together with the step past its line: a wrap starts the count again. -/
theorem skipLine (h : Keeps r s) : Keeps r s.countSkip.stepPointer := by
  unfold State.stepPointer
  split
  · rw [wrapPass_eq]
    refine haltIfComplete ?_
    have e : ∀ c x, (s.countSkip.post c).setSweep x = (s.post c).setSweep x := by
      intro c x; unfold State.countSkip; rw [post_setSweep]; rfl
    rw [e]
    exact h.passBegins _
  · rename_i hn
    have e : s.countSkip.setSweep { s.countSkip.sweep with pointer := s.countSkip.sweep.pointer + 1 }
        = s.setSweep { s.sweep with pointer := s.sweep.pointer + 1, skip := s.sweep.skip + 1 } := rfl
    rw [e]
    refine h.movePointer _ fun p k => ⟨⟨?_, ?_⟩, k.2⟩
    · show s.straps.firstLine + (s.sweep.skip + 1) ≤ s.sweep.pointer + 1
      have := k.1.1
      omega
    · show s.sweep.pointer + 1 ≤ s.straps.lastLine
      have : ¬ s.straps.lastLine ≤ s.sweep.pointer := hn
      omega

theorem stepOver (h : Keeps r s) (c : WalkChoice) : Keeps r (s.stepOver c) := by
  unfold State.stepOver
  split
  · exact h.skipLine
  · exact h.stepPointer

theorem walk (n : Nat) (h : Keeps r s) : Keeps r (State.walk n s).1 := by
  induction n generalizing s with
  | zero => exact h
  | succ n ih =>
    unfold State.walk
    split
    · exact h
    · dsimp only
      split
      · exact h.stepOver _
      · exact ih (h.stepOver _)

theorem stopSweep (h : Keeps r s) (c : SweepCause) : Keeps r (s.stopSweep c) := (h.setSweep _ (by rfl) (by rfl) (by rfl) (by rfl)).postSweep _

theorem seek (h : Keeps r s) : Keeps r s.seek := h.setSweep _ (by rfl) (by rfl) (by rfl) (by rfl)

theorem seekOrWait (h : Keeps r s) : Keeps r s.seekOrWait := by
  unfold State.seekOrWait
  split
  · exact h.seek
  · exact h.setSweep _ (by rfl) (by rfl) (by rfl) (by rfl)

theorem makeSweepJob (h : Keeps r s) (b : Bool) : Keeps r (s.makeSweepJob b) := h.setSweep _ (by rfl) (by rfl) (by rfl) (by rfl)

theorem takeNothing (h : Keeps r s) : Keeps r s.takeNothing := by
  unfold State.takeNothing
  split
  · exact h.setSweep _ (by rfl) (by rfl) (by rfl) (by rfl)
  · split
    · exact (h.setSweep _ (by rfl) (by rfl) (by rfl) (by rfl)).stopSweep _
    · exact h.setSweep _ (by rfl) (by rfl) (by rfl) (by rfl)

theorem takeSweep (h : Keeps r s) : Keeps r s.takeSweep.1 := by
  unfold State.takeSweep
  split
  · exact h.makeSweepJob _
  · split
    · exact h.takeNothing
    · split <;> rename_i heq
      · have := h.walk (if s.sweep.once then 1 else s.straps.lineCount)
        rw [heq] at this
        exact this.makeSweepJob _
      · have := h.walk (if s.sweep.once then 1 else s.straps.lineCount)
        rw [heq] at this
        exact this.takeNothing

theorem sweepGoOn (h : Keeps r s) : Keeps r s.sweepGoOn := by
  unfold State.sweepGoOn
  split
  · exact h.stopSweep _
  · split
    · exact h
    · split
      · exact h.stopSweep _
      · exact h.seekOrWait

theorem postSweepResult (h : Keeps r s) (i : SweepInfo) (l : Nat) (v : Option Verdict) :
    Keeps r (s.postSweepResult i l v) := by
  unfold State.postSweepResult
  split
  · exact h
  · exact h
  · exact h.post _

theorem pointerOutcome (h : Keeps r s) (v : Option Verdict) (e : EndStatus) : Keeps r (s.pointerOutcome v e) := by
  unfold State.pointerOutcome
  split
  · exact h.stepPointer
  · split <;> first | exact h.skipLine | exact h

theorem sweepOutcome (h : Keeps r s) (i : SweepInfo) (l : Nat) (v : Option Verdict) (e : EndStatus) :
    Keeps r (s.sweepOutcome i l v e) := by
  unfold State.sweepOutcome
  have h := h.postSweepResult i l v
  dsimp only
  split
  · refine sweepGoOn ?_
    split
    · exact h.setSweep _ (by rfl) (by rfl) (by rfl) (by rfl)
    · exact h
  · split
    · exact (h.setSweep _ (by rfl) (by rfl) (by rfl) (by rfl)).postSweep _
    · exact (h.pointerOutcome _ _).sweepGoOn

theorem sweepFallsDue (h : Keeps r s) : Keeps r s.sweepFallsDue := by
  unfold State.sweepFallsDue
  split
  · exact h.seek
  · split
    · exact h
    · split <;> exact h.setSweep _ (by rfl) (by rfl) (by rfl) (by rfl)
  · exact h

/-! ## The slots (Slots) -/

theorem headConnect (h : Keeps r s) (b n : Nat) : Keeps r (s.headConnect b n) := h.setHead _

theorem offerHead (h : Keeps r s) : Keeps r s.offerHead := by
  unfold State.offerHead
  (repeat' split) <;> first | exact h.headConnect _ _ | exact h

theorem slotMove (h : Keeps r s) : Keeps r s.slotMove := by
  unfold State.slotMove
  (repeat' split) <;> first | exact h | exact h.setSeq _ le_rfl le_rfl

theorem settleSlots (h : Keeps r s) : Keeps r s.settleSlots := h.slotMove.offerHead

theorem endSweepJob (h : Keeps r s) (id : SlotId) (e : EndStatus) : Keeps r (s.endSweepJob id e) := by
  unfold State.endSweepJob
  (repeat' split) <;> first | exact h | exact ((h.setSlot _ _).sweepOutcome _ _ _ _).settleSlots

/-! ## Claims (ClaimTable) -/

theorem takePair (h : Keeps r s) (o : Opening) (b : Nat) (hf : s.pairFree o.urgency { bus := b, line := o.line } = true) :
    Keeps r (s.takePair o b) :=
  h.trans { (refl s) with
    entries := by simp [State.takePair, withoutConflicts]
    own := fun k => takePair_own _ _ _ _ _ rfl hf k }

theorem candidate_free {l : Nat} {u : Urgency} {p : Option Nat} {b : Nat} (h : s.candidate l u p = some b) :
    s.pairFree u { bus := b, line := l } = true := by
  unfold State.candidate at h
  dsimp only at h
  split at h
  · split at h
    · rename_i hc; cases h; exact hc.2
    · exact absurd h (by simp)
  · split at h
    · rename_i hc
      cases h
      have := List.find?_some hc
      simp only [State.pairClean, Bool.and_eq_true] at this
      exact this.1
    · have := List.find?_some h
      exact this

theorem offerClaim (h : Keeps r s) (o : Opening) (b : Nat) (hf : s.pairFree o.urgency { bus := b, line := o.line } = true) :
    Keeps r (s.offerClaim o b) := by
  unfold State.offerClaim
  dsimp only
  split
  · rename_i hl
    refine (Keeps.takePair (h.setLine _ fun _ => QueueSound.of_length ?_) o b (by exact hf)).loadFlight
    simp only [List.length_append, List.length_singleton]
    omega
  · exact h.holdBack _

theorem claimTest (h : Keeps r s) : Keeps r s.claimTest := by
  unfold State.claimTest
  split
  · split
    · split
      · rename_i hc; exact h.offerClaim _ _ (candidate_free hc)
      · exact h
    · exact h
  · exact h

theorem claimAgain (h : Keeps r s) (o : Opening) : Keeps r (s.claimAgain o) := by
  unfold State.claimAgain State.refuseClaim
  dsimp only
  split
  · split
    · exact (h.setClaims _ (by rfl)).endSweepJob _ _
    · exact h.setClaims _ (by rfl)
  · exact h.claimTest

theorem reofferClaims (h : Keeps r s) (tx : Tx) (rest : List Tx) (hl : s.line.queue.length < Config.transmitCap) :
    Keeps r (s.reofferClaims tx rest) := by
  unfold State.reofferClaims
  have h := h.setLineElse { s.line with heldClaims := rest } rfl
  dsimp only
  split
  · split
    · split
      · rename_i hc
        refine Keeps.takePair (h.setLine _ fun _ => QueueSound.of_length ?_) _ _ (by exact hc.2)
        simp only [State.setLine_line, List.length_append, List.length_singleton]
        omega
      · exact h.claimAgain _
    · exact h
  · exact h.enqueue _

theorem chooseHolder (h : Keeps r s) (hs : List Holder) : Keeps r (s.chooseHolder hs).1 := by
  unfold State.chooseHolder
  split
  · exact h
  · exact h
  · dsimp only
    split
    · exact h.takeFree
    · split
      · exact h.takeFree
      · exact h.takeFree.takeFree
      · exact h.takeFree

theorem chooseHolder_line (s : State) (hs : List Holder) : (s.chooseHolder hs).1.line = s.line := by
  unfold State.chooseHolder State.takeFree
  dsimp only
  (repeat' split) <;> rfl

theorem reoffer (h : Keeps r s) (x : Holder) (hl : s.line.queue.length < Config.transmitCap) : Keeps r (s.reoffer x) := by
  unfold State.reoffer
  (repeat' split) <;> first | exact h | exact h.reofferClaims _ _ hl | exact (h.setLineElse _ (by rfl)).enqueue _

theorem refill (n : Nat) (h : Keeps r s) : Keeps r (State.refill n s) := by
  induction n generalizing s with
  | zero => exact h
  | succ n ih =>
    unfold State.refill
    split
    · rename_i hl
      have k := h.chooseHolder s.holders
      have e := chooseHolder_line s s.holders
      split <;> rename_i heq <;> simp only [heq] at k e
      · exact ih (k.reoffer _ (by rw [e]; exact hl))
      · exact k
    · exact h

theorem lineMoves (h : Keeps r s) : Keeps r s.lineMoves := (h.loadFlight.refill _).loadFlight

theorem leaveEntry (h : Keeps r s) (b : Nat) : Keeps r (s.leaveEntry b) := by
  unfold State.leaveEntry
  split
  · rename_i c _
    have k := foldl_putBack c.awaited (s.claims.entries.set b .free)
    refine h.setEntries _ (by rw [k.1]; simp) (fun b' l hb => ?_)
    exact ownLine_set_other _ _ _ rfl _ _ (k.2 b' l hb)
  · exact h

theorem loseClaim (h : Keeps r s) : Keeps r s.loseClaim := by
  unfold State.loseClaim
  split
  · split
    · dsimp only
      split
      · split
        · exact ((h.leaveEntry _).setClaims _ (by rfl)).endSweepJob _ _
        · exact (h.leaveEntry _).setClaims _ (by rfl)
      · exact (h.leaveEntry _).setClaims _ (by rfl)
    · exact h
  · exact h

theorem withdrawClaim (h : Keeps r s) : Keeps r s.withdrawClaim.1 := by
  unfold State.withdrawClaim
  (repeat' split) <;>
    first
      | exact h
      | exact h.setLineElse _ (by rfl)
      | exact (h.setLineElse _ (by rfl)).lineMoves
      | exact (h.setLine _ (fun k => k.sublist List.filter_sublist)).lineMoves

theorem endOpening (h : Keeps r s) : Keeps r s.endOpening := by
  unfold State.endOpening
  split
  · exact h
  · have h := fun c hc => h.setClaims c hc
    dsimp only
    split
    · exact (h _ (by rfl)).setLineElse _ (by rfl)
    · split
      · split
        · have k := withdrawClaim (h { s.claims with opening := none } rfl)
          split <;> rename_i heq <;> rw [heq] at k
          · exact k.updateOwn _ _ (fun _ => rfl)
          · exact k.leaveEntry _
        · exact ((h _ (by rfl)).leaveEntry _).offerRelease _
      · exact h _ (by rfl)

theorem defeatSending (h : Keeps r s) : Keeps r s.defeatSending := h.withdrawClaim.loseClaim

theorem pushedOut (h : Keeps r s) (tx : Tx) : Keeps r (s.pushedOut tx) := by
  unfold State.pushedOut
  (repeat' split) <;> first | exact h.loseClaim | exact (h.handBack _).loseClaim | exact h.handBack _

theorem insertAssert_length (tx : Tx) (q : List Tx) : (insertAssert tx q).length = q.length + 1 := by
  have := congrArg List.length (List.takeWhile_append_dropWhile (p := Tx.asserts) (l := q))
  simp only [List.length_append] at this
  simp only [insertAssert, List.length_append, List.length_cons]
  omega

theorem pushOut_length {q q' : List Tx} {out : Tx} (h : pushOut q = some (out, q')) :
    q'.length + 1 = q.length ∧ ∃ tx ∈ q, tx.asserts = false := by
  unfold pushOut at h
  split at h
  · rename_i tx ht
    simp only [Option.some.injEq, Prod.mk.injEq] at h
    obtain ⟨rfl, rfl⟩ := h
    have hm := List.mem_of_find?_eq_some ht
    have ha := List.find?_some ht
    have := List.length_eraseP_of_mem (p := fun tx => !tx.asserts) hm ha
    have hp : 0 < q.reverse.length := List.length_pos_of_mem hm
    simp only [List.length_reverse] at *
    exact ⟨by omega, tx, by simpa using hm, by simpa using ha⟩
  · exact absurd h (by simp)

theorem pushOut_none {q : List Tx} (h : pushOut q = none) : ∀ tx ∈ q, tx.asserts = true := by
  unfold pushOut at h
  split at h
  · exact absurd h (by simp)
  · rename_i hn
    intro tx ht
    simpa using List.find?_eq_none.mp hn tx (by simpa using ht)

theorem assertHold (h : Keeps r s) (u : Urgency) (p : Pair) : Keeps r (s.assertHold u p) := by
  unfold State.assertHold
  dsimp only
  have hs : ∀ f, (s.line.queue.filter f).Sublist s.line.queue := fun f => List.filter_sublist
  split
  · exact h
  · split
    · rename_i hl
      refine (h.setLine _ fun _ => QueueSound.of_length ?_).loadFlight
      simp only [insertAssert_length]
      omega
    · split
      · rename_i heq
        obtain ⟨hl, x, hx, ha⟩ := pushOut_length heq
        refine (h.setLine _ fun k => QueueSound.of_length ?_).pushedOut _
        have := k ⟨x, (hs _).subset hx, ha⟩
        have := (hs (fun t => !(t.holdsPair p && !t.asserts))).length_le
        simp only [insertAssert_length]
        omega
      · rename_i heq
        refine h.setLine _ fun _ ⟨x, hx, ha⟩ => ?_
        exfalso
        simp only [insertAssert, List.mem_append, List.mem_cons] at hx
        rcases hx with hx | rfl | hx
        · simp [pushOut_none heq x ((List.takeWhile_sublist _).subset hx)] at ha
        · simp [Tx.asserts] at ha
        · simp [pushOut_none heq x ((List.dropWhile_sublist _).subset hx)] at ha

end Keeps

end Sys2Proof.Machine
end

