-- ==== Sys2Proof/Laws/KeepsWork.lean ====
section
/-! SUPPORT. What the shared operations of the chain, the sequencer, the head and the heard notices keep (see Laws.Keeps). -/

namespace Sys2Proof.Machine.Keeps

variable {r s t : State}

/-! ## Requests -/

theorem ask (h : Keeps r s) (q : ChainRequest) : Keeps r (s.ask q) := h.setChain _ rfl rfl

theorem dropOp (h : Keeps r s) (p : Pair) : Keeps r (s.dropOp p) := h.setChain _ rfl rfl

theorem putOp (h : Keeps r s) (o : ChainOp) : Keeps r (s.putOp o) := h.setChain _ rfl rfl

theorem startConnect (h : Keeps r s) (p : Pair) (n : Nat) : Keeps r (s.startConnect p n) := (h.putOp _).ask _

theorem startRelease (h : Keeps r s) (p : Pair) (k : OpKind) (n : Nat) : Keeps r (s.startRelease p k n) :=
  (h.putOp _).ask _

theorem abandonConnect (h : Keeps r s) (p : Pair) : Keeps r (s.abandonConnect p) := by
  unfold State.abandonConnect
  split
  · dsimp only
    rename_i o _
    generalize (s.requestWaits p || _) = waits
    cases waits
    · exact h.putOp _
    · exact (h.setChain _ (by rfl) (by rfl)).startRelease _ _ _
  · exact h

theorem askPoll (h : Keeps r s) (u : Nat) : Keeps r (s.askPoll u) := h.setChain _ rfl rfl

theorem restartPolling (h : Keeps r s) : Keeps r s.restartPolling := by
  unfold State.restartPolling
  split
  · exact h
  · exact (h.setChain _ (by rfl) (by rfl)).askPoll _

/-! ## Evaluation, ends of orders (Sequencer) -/

theorem deliver (h : Keeps r s) (l : Nat) (v : Verdict) (x : Results) : Keeps r (s.deliver l v x) := by
  unfold State.deliver
  split
  · exact h.applyVerdict _
  · exact h.offerPlain _

theorem judge (h : Keeps r s) : Keeps r s.judge := by
  unfold State.judge
  (repeat' split) <;> first | exact h | exact (h.deliver _ _ _).updateJob _ _

theorem endJob (h : Keeps r s) (id : SlotId) : Keeps r (s.endJob id) := by
  unfold State.endJob
  split
  · split
    · exact (h.setSlot _ _).settleSlots
    · split
      · exact h.endSweepJob _ _
      · dsimp only
        split
        · rename_i hc
          refine settleSlots (setSlot ?_ _ _)
          exact h.trans { (refl s) with
            completions := fun _ => by
              simp only [State.countEnd, State.setSeq, List.length_append, List.length_cons, List.length_nil]
              omega }
        · exact ((h.setSeq { s.seq with ends := s.seq.ends + 1 } le_rfl le_rfl).setSlot _ _).settleSlots
  · exact h

theorem endQueued (h : Keeps r s) (tag : Nat) (e : EndStatus) (f : Option Nat) : Keeps r (s.endQueued tag e f) := by
  unfold State.endQueued
  split
  · dsimp only
    split
    · rename_i hc
      exact h.trans { (refl s) with
        queue := fun k => le_trans (List.length_filter_le _ _) k
        completions := fun _ => by
          simp only [State.countEnd, State.setSeq, List.length_append, List.length_cons, List.length_nil]
          omega }
    · exact h.trans { (refl s) with
        queue := fun k => by simpa [State.countEnd, State.setSeq] using k }
  · exact h

theorem fileWaiting (h : Keeps r s) : Keeps r s.fileWaiting := by
  unfold State.fileWaiting
  split
  · split
    · rename_i hc
      refine settleSlots ?_
      exact h.trans { (refl s) with
        queue := fun k => le_trans (List.length_filter_le _ _) k
        completions := fun _ => by
          simp only [State.setSeq, List.length_append, List.length_cons, List.length_nil]
          omega }
    · exact h
  · exact h

/-! ## The release sequence -/

theorem letGo (h : Keeps r s) (p : Pair) : Keeps r (s.letGo p) := ((h.leaveEntry _).offerRelease _).claimTest

theorem claimReleasing (h : Keeps r s) (b : Nat) : Keeps r (s.claimReleasing b) := h.updateOwn _ _ (fun _ => rfl)

theorem headRelease (h : Keeps r s) : Keeps r s.headRelease := by
  unfold State.headRelease
  dsimp only
  split <;> first | exact h | exact h.setHead _

theorem closeEvaluation (h : Keeps r s) : Keeps r s.closeEvaluation := by
  unfold State.closeEvaluation
  (repeat' split) <;> first | exact h | exact h.updateJob _ _

theorem releaseAtChain (h : Keeps r s) (id : SlotId) : Keeps r (s.releaseAtChain id) := by
  unfold State.releaseAtChain
  split
  · split
    · dsimp only
      split
      · exact (h.letGo _).endJob _
      · split
        · exact h.abandonConnect _
        · exact h.startRelease _ _ _
    · exact h
  · exact h

theorem beginRelease (h : Keeps r s) (id : SlotId) : Keeps r (s.beginRelease id) := by
  have k : Keeps r (if id = .active then s.closeEvaluation else s) := by
    split
    · exact h.closeEvaluation
    · exact h
  unfold State.beginRelease
  split
  · split
    · dsimp only
      generalize (if id = .active then s.closeEvaluation else s) = s' at k
      split
      · exact ((k.claimReleasing _).updateJob _ _).headRelease
      · exact ((k.claimReleasing _).updateJob _ _).releaseAtChain _
    · exact h
  · exact h

theorem abandon (h : Keeps r s) (id : SlotId) (e : EndStatus) (f : Bool) : Keeps r (s.abandon id e f) :=
  (h.updateJob _ _).beginRelease _

theorem endAccess (h : Keeps r s) (id : SlotId) (e : EndStatus) (f : Option Nat) : Keeps r (s.endAccess id e f) :=
  (h.endOpening.updateJob _ _).endJob _

/-! ## The stages of the head -/

theorem stopStage (h : Keeps r s) : Keeps r s.stopStage := h.setHead _

theorem startForeign (h : Keeps r s) : Keeps r s.startForeign := h.setHead _

theorem startResist (h : Keeps r s) : Keeps r s.startResist := h.setHead _

theorem capacityStep (h : Keeps r s) : Keeps r s.capacityStep := by
  unfold State.capacityStep
  split
  · exact h.setHead _
  · exact h.stopStage

theorem startCapacity (h : Keeps r s) : Keeps r s.startCapacity := (h.setHead _).capacityStep

theorem offerStage (h : Keeps r s) : Keeps r s.offerStage := by
  unfold State.offerStage
  (repeat' split) <;>
    first
      | exact h
      | exact h.startForeign
      | exact h.startResist
      | exact h.startCapacity
      | exact (h.updateJob _ _).startForeign

/-! ## Steps, disturbance -/

theorem suspend (h : Keeps r s) : Keeps r s.suspend := h.updateJob _ _

theorem runStep (n : Nat) (h : Keeps r s) : Keeps r (State.runStep n s) := by
  induction n generalizing s with
  | zero => exact h
  | succ n ih =>
    unfold State.runStep
    split
    · split
      · dsimp only
        split
        · exact (h.judge.updateJob _ _).suspend
        · exact ih (h.judge.updateJob _ _)
      · exact h.updateJob _ _
      · exact h.beginRelease _
      · exact h
      · exact h.offerStage
    · exact h

theorem finishStep (h : Keeps r s) : Keeps r s.finishStep := by
  unfold State.finishStep
  split
  · dsimp only
    split
    · exact (h.updateJob _ _).suspend
    · exact runStep _ (h.updateJob _ _)
  · exact h

theorem hazardFound (h : Keeps r s) (d : HazardDetail) : Keeps r (s.hazardFound d) :=
  (h.judge.updateJob _ _).beginRelease _

theorem headDisturbed (h : Keeps r s) : Keeps r s.headDisturbed := by
  unfold State.headDisturbed
  dsimp only
  (repeat' split) <;> first | exact h | exact h.setHead _

theorem handDisturbed (h : Keeps r s) (p : Pair) : Keeps r (s.handDisturbed p) := by
  unfold State.handDisturbed
  split
  · dsimp only
    split
    · exact (h.updateJob _ _).headDisturbed
    · exact h.updateJob _ _
  · exact h

theorem handUndisturbed (h : Keeps r s) : Keeps r s.handUndisturbed := h.offerStage

/-! ## HELD and the chain's outcomes -/

theorem connectFails (h : Keeps r s) (id : SlotId) (e : EndStatus) : Keeps r (s.connectFails id e) :=
  (h.updateJob _ _).beginRelease _

theorem connectEnded (h : Keeps r s) (p : Pair) (e : ConnectEnd) : Keeps r (s.connectEnded p e) := by
  unfold State.connectEnded
  split
  · split
    · rename_i id _ _ j _
      have k : Keeps r (if e = .connected then s.updateJob id (fun j => { j with connectedAt := some s.time.clock }) else s) := by
        split
        · exact h.updateJob _ _
        · exact h
      dsimp only
      split
      · exact k.releaseAtChain _
      · split
        · exact (k.updateJob _ _).offerHead
        · exact k.connectFails _ _
        · exact k.connectFails _ _
        · exact (k.updateJob _ _).connectFails _ _
        · exact k.beginRelease _
    · exact h
  · exact h

theorem offerConnect (h : Keeps r s) (p : Pair) : Keeps r (s.offerConnect p) := by
  unfold State.offerConnect
  split
  · exact h.startConnect _ _
  · exact h.connectEnded _ _

theorem becomeHeld (h : Keeps r s) (b : Nat) : Keeps r (s.becomeHeld b) := by
  unfold State.becomeHeld
  split
  · rename_i c _
    have k : Keeps r (((s.updateOwn b (fun c => { c with state := .held, awaited := [], renewAt := s.time.now + ms 1000 })))) :=
      h.updateOwn _ _ (fun _ => rfl)
    dsimp only
    split
    · exact (((k.setClaims _ (by rfl)).offerRenewal _ _).updateJob _ _).offerConnect _
    · exact (k.setClaims _ (by rfl)).offerRenewal _ _
  · exact h

theorem releasedAtChain (h : Keeps r s) (p : Pair) : Keeps r (s.releasedAtChain p) := by
  unfold State.releasedAtChain
  dsimp only
  split
  · exact (h.letGo _).endJob _
  · exact h.letGo _

theorem stuckAtChain (h : Keeps r s) (p : Pair) : Keeps r (s.stuckAtChain p) := by
  unfold State.stuckAtChain
  dsimp only
  split
  · exact (((h.capture _).updateOwn _ _ (by intro; rfl)).updateJob _ _).endJob _
  · exact (h.capture _).updateOwn _ _ (by intro; rfl)

/-- A chain of changes, each of which keeps what it meets. -/
theorem foldl {α : Type} (f : State → α → State) (hf : ∀ s a, Keeps r s → Keeps r (f s a)) (xs : List α) :
    ∀ s, Keeps r s → Keeps r (xs.foldl f s) := by
  induction xs with
  | nil => exact fun _ h => h
  | cons a xs ih => exact fun s h => ih _ (hf s a h)

theorem isolate (h : Keeps r s) : Keeps r s.isolate := by
  unfold State.isolate
  have k : Keeps r (s.setClaims { s.claims with station := .isolated, joinUntil := none }) := h.setClaims _ rfl
  dsimp only
  revert k
  generalize (s.setClaims _) = s1
  intro k
  have k2 := foldl (r := r) (fun s t => s.endQueued t .stationIsolated (some 1)) (fun _ _ h => h.endQueued _ _ _)
    s1.seq.openTags s1 k
  revert k2
  generalize (List.foldl _ s1 _) = s2
  intro k2
  refine tryNow ?_
  split
  · exact k2.endAccess _ _ _
  · exact k2.endOpening

/-! ## Exchanges (ChainOps) -/

theorem startExchange (h : Keeps r s) (q : ChainRequest) : Keeps r (s.startExchange q) := h.setChain _ rfl rfl

theorem grant (n : Nat) (h : Keeps r s) : Keeps r (State.grant n s) := by
  induction n generalizing s with
  | zero => exact h
  | succ n ih =>
    unfold State.grant
    split
    · exact h
    · split
      · rename_i q rest _
        have k : Keeps r (s.setChain { s.chain with jobGroup := rest }) := h.setChain _ rfl rfl
        dsimp only
        split
        · split
          · exact k.startExchange _
          · exact ih ((k.dropOp _).connectEnded _ _)
        · exact k.startExchange _
      · split
        · exact (h.setChain _ (by rfl) (by rfl)).startExchange _
        · exact h

theorem pump (h : Keeps r s) : Keeps r s.pump := h.grant _

theorem unitActs (h : Keeps r s) (q : ChainRequest) : Keeps r (s.unitActs q) := by
  unfold State.unitActs
  (repeat' split) <;> first | exact h | exact h.setChain _ rfl rfl

theorem unitMayAct (h : Keeps r s) (q : ChainRequest) : Keeps r (s.unitMayAct q) := by
  unfold State.unitMayAct
  split
  · exact h
  · exact h
  · exact (h.setChain _ (by rfl) (by rfl)).setFree _
  · dsimp only
    split
    · exact h.takeFree.unitActs _
    · exact h.takeFree

theorem freeChain (h : Keeps r s) : Keeps r s.freeChain := h.setChain _ rfl rfl

theorem releaseFails (h : Keeps r s) (o : ChainOp) : Keeps r (s.releaseFails o) := by
  unfold State.releaseFails
  (repeat' split) <;>
    first
      | exact (h.dropOp _).updateOwn _ _ (fun _ => rfl)
      | exact h.startRelease _ _ _
      | exact (h.dropOp _).stuckAtChain _

theorem operateEnded (h : Keeps r s) (p : Pair) (a : Bool) : Keeps r (s.operateEnded p a) := by
  unfold State.operateEnded
  (repeat' split) <;> first | exact h | exact (h.dropOp _).connectEnded _ _ | exact h.putOp _

theorem releaseEnded (h : Keeps r s) (p : Pair) (a : Bool) : Keeps r (s.releaseEnded p a) := by
  unfold State.releaseEnded
  (repeat' split) <;> first | exact h | exact h.putOp _ | exact h.releaseFails _

theorem countFault (h : Keeps r s) (u : Nat) : Keeps r (s.countFault u) := by
  unfold State.countFault
  dsimp only
  split
  · exact (h.setUnit _ _ (by rfl) (.inl (min_le_left _ _))).changeUnit _ _
  · exact h.setUnit _ _ (by rfl) (.inl (min_le_left _ _))

theorem connectRead (h : Keeps r s) (o : ChainOp) (b : BitVec 4) : Keeps r (s.connectRead o b) := by
  unfold State.connectRead
  dsimp only
  split
  · exact (h.dropOp _).connectEnded _ _
  · split
    · exact ((h.setUnit _ _ (by rfl) (.inl (by simp))).dropOp _).connectEnded _ _
    · split
      · split
        · exact (h.dropOp _).connectEnded _ _
        · exact h.startConnect _ _
      · exact ((h.countFault _).dropOp _).connectEnded _ _

theorem readLineEnded (h : Keeps r s) (p : Pair) (b : Option (BitVec 4)) : Keeps r (s.readLineEnded p b) := by
  unfold State.readLineEnded
  (repeat' split) <;>
    first
      | exact h
      | exact h.connectRead _ _
      | exact (h.dropOp _).connectEnded _ _
      | exact h.releaseFails _
      | exact (h.dropOp _).releasedAtChain _

theorem stampPoll (h : Keeps r s) (u : Nat) : Keeps r (s.stampPoll u) :=
  h.setUnit _ _ (by rfl) (.inr (by rfl))

theorem pollAnswered (h : Keeps r s) (u : Nat) (a : ChainAnswer) : Keeps r (s.pollAnswered u a) := by
  unfold State.pollAnswered
  dsimp only
  have k := h.stampPoll u
  (repeat' split) <;> first | exact k | exact k.changeUnit _ _ | exact (k.setUnit _ _ (by rfl) (.inl (by simp))).changeUnit _ _

theorem pollFailed (h : Keeps r s) (u : Nat) : Keeps r (s.pollFailed u) := (h.stampPoll u).setChain _ rfl rfl

theorem endDiscovery (h : Keeps r s) : Keeps r s.endDiscovery := by
  unfold State.endDiscovery
  dsimp only
  split
  · exact (h.setPointer _ (by rfl) (show 63 < 64 by omega)).setClaims _ (by rfl)
  · exact (((h.setPointer _ (by rfl) (show 63 < 64 by omega)).setClaims _ (by rfl)).capture _).isolate

theorem discover (h : Keeps r s) (u : Nat) : Keeps r (s.discover u) := by
  unfold State.discover
  split
  · exact (h.setChain _ (by rfl) (by rfl)).startExchange _
  · exact h.endDiscovery

theorem discoveryAnswered (h : Keeps r s) (d : Discovery) (a : ChainAnswer) : Keeps r (s.discoveryAnswered d a) := by
  unfold State.discoveryAnswered
  split
  · exact h.discover _
  · exact (h.setUnit _ _ (by rfl) (.inr (by rfl))).discover _

theorem discoveryFailed (h : Keeps r s) (d : Discovery) : Keeps r (s.discoveryFailed d) := by
  unfold State.discoveryFailed
  split
  · exact (h.setChain _ (by rfl) (by rfl)).startExchange _
  · exact h.discover _
  · exact (h.stampPoll _).discover _

theorem handAnswer (h : Keeps r s) (q : ChainRequest) (a : ChainAnswer) : Keeps r (s.handAnswer q a) := by
  unfold State.handAnswer
  split
  · exact h.operateEnded _ _
  · exact h.releaseEnded _ _
  · exact h.readLineEnded _ _
  · exact h.pollAnswered _ _
  · exact h

theorem handNoAnswer (h : Keeps r s) (q : ChainRequest) : Keeps r (s.handNoAnswer q) := by
  unfold State.handNoAnswer
  split
  · exact h.operateEnded _ _
  · exact h.releaseEnded _ _
  · exact h.readLineEnded _ _
  · exact h.pollFailed _
  · exact h

theorem chainError (h : Keeps r s) (q : ChainRequest) (b : Bool) : Keeps r (s.chainError q b) := by
  unfold State.chainError
  dsimp only
  split
  · exact (h.capture _).changeUnit _ _
  · exact h.capture _

theorem noAnswer (h : Keeps r s) (e : Exchange) (b : Bool) : Keeps r (s.noAnswer e b) := by
  unfold State.noAnswer
  have k : Keeps r (s.unitMayAct e.request) := h.unitMayAct _
  dsimp only
  split
  · split
    · exact k.freeChain.discoveryFailed _
    · exact (k.freeChain.capture _).discoveryFailed _
    · exact (k.freeChain.capture _).discoveryFailed _
  · exact ((k.freeChain.chainError _ _).handNoAnswer _).pump

theorem answered (h : Keeps r s) (e : Exchange) (a : ChainAnswer) : Keeps r (s.answered e a) := by
  unfold State.answered
  dsimp only
  split
  · exact (h.unitActs _).freeChain.discoveryAnswered _ _
  · exact ((h.unitActs _).freeChain.handAnswer _ _).pump

/-! ## The desk port (DeskPort) -/

theorem answerWith (h : Keeps r s) (x : Response) (b : List Byte) (k : Reading) : Keeps r (s.answerWith x b k) :=
  h.setPort _

theorem answer (h : Keeps r s) (x : Response) (b : List Byte) : Keeps r (s.answer x b) := h.setPort _

theorem reply (h : Keeps r s) (x : Response) : Keeps r (s.reply x) := h.setPort _

/-! ## Heard notices (HeardNotices) -/

theorem awaitedLeft (h : Keeps r s) (b : Nat) : Keeps r (s.awaitedLeft b) := by
  unfold State.awaitedLeft
  (repeat' split) <;> first | exact h | exact h.becomeHeld _ | exact h.updateOwn _ _ (fun _ => rfl)

theorem endDisturbance (h : Keeps r s) (b st : Nat) (p : Pair) : Keeps r (s.endDisturbance b st p) := by
  unfold State.endDisturbance
  split
  · dsimp only
    split
    · split
      · exact (h.updateOwn _ _ (by intro; rfl)).handUndisturbed
      · exact h.updateOwn _ _ (by intro; rfl)
    · exact h
  · exact h

theorem takeFromJob (h : Keeps r s) (p : Pair) (e : EndStatus) : Keeps r (s.takeFromJob p e) := by
  unfold State.takeFromJob
  split
  · exact h.abandon _ _ _
  · exact h.claimReleasing _

theorem await_line (c : OwnClaim) (st : Nat) (p : Pair) (x : Nat) : (c.await st p x).line = c.line := by
  unfold OwnClaim.await; split <;> rfl

theorem claimMeets (h : Keeps r s) (c : OwnClaim) (b st : Nat) (u : Urgency) (p : Pair) :
    Keeps r (s.claimMeets c b st u p) := by
  unfold State.claimMeets
  dsimp only
  (repeat' split) <;>
    first
      | exact h
      | exact h.defeatSending
      | exact h.loseClaim
      | exact h.updateOwn _ _ (fun _ => await_line _ _ _ _)
      | exact h.takeFromJob _ _
      | exact h.assertHold _ _

theorem doubleHold (h : Keeps r s) (c : OwnClaim) (b st : Nat) (u : Urgency) (p : Pair) :
    Keeps r (s.doubleHold c b st u p) := by
  unfold State.doubleHold
  dsimp only
  (repeat' split) <;>
    first
      | exact h
      | exact (h.updateOwn _ _ (by intro; rfl)).handDisturbed _
      | exact h.takeFromJob _ _

theorem holdMeets (h : Keeps r s) (c : OwnClaim) (b st : Nat) (u : Urgency) (p : Pair) :
    Keeps r (s.holdMeets c b st u p) := by
  unfold State.holdMeets
  dsimp only
  (repeat' split) <;>
    first
      | exact h
      | exact h.defeatSending
      | exact h.loseClaim
      | exact h.updateOwn _ _ (fun _ => await_line _ _ _ _)
      | exact h.doubleHold _ _ _ _ _

theorem ownRules (h : Keeps r s) (m : State → OwnClaim → Nat → State) (p : Pair)
    (hm : ∀ s c b, Keeps r s → Keeps r (m s c b)) : Keeps r (s.ownRules m p) := by
  unfold State.ownRules
  refine foldl _ (fun s b h => ?_) _ _ h
  (repeat' split) <;> first | exact h | exact hm _ _ _ h

theorem bookClaim (h : Keeps r s) (x : HeardClaim) : Keeps r (s.bookClaim x) := by
  unfold State.bookClaim
  split
  · exact h
  · exact h.setEntries _ (hearClaim_length _ _ _) (hearClaim_own _ _ _)

theorem hearReleaseOf (h : Keeps r s) (st : Nat) (p : Pair) : Keeps r (s.hearReleaseOf st p) := by
  unfold State.hearReleaseOf
  split
  · exact h
  · dsimp only
    refine setEntries (foldl _ (fun s b h => ?_) _ _ h) _ (hearRelease_length _ _ _) (hearRelease_own _ _ _)
    split
    · split
      · exact ((h.updateOwn _ _ (by intro; rfl)).awaitedLeft _).endDisturbance _ _ _
      · exact h.endDisturbance _ _ _
    · exact h

theorem answerAnnounce (h : Keeps r s) : Keeps r s.answerAnnounce := by
  unfold State.answerAnnounce
  refine foldl _ (fun s b h => ?_) _ _ h
  (repeat' split) <;> first | exact h | exact h.offerRenewal _ _

theorem hearVerdict (h : Keeps r s) (st l : Nat) (v : Verdict) (k : Nat) : Keeps r (s.hearVerdict st l v k) := by
  unfold State.hearVerdict
  split
  · exact h.applyVerdict _
  · exact h

theorem cacheHear_length (xs : List ForeignTicket) (e : ForeignTicket) (h : xs.length ≤ Config.cacheCap) :
    (cacheHear xs e).length ≤ Config.cacheCap := by
  unfold cacheHear
  simp only [Config.cacheCap] at h ⊢
  have f1 := List.length_filter_le (fun x : ForeignTicket => x.ident != e.ident) xs
  have f3 := List.length_filter_le (fun x : ForeignTicket => x.line != e.line) xs
  split
  · rename_i hany
    split
    · omega
    · obtain ⟨a, ha, he⟩ := List.any_eq_true.mp hany
      have : (xs.filter (fun x => x.ident != e.ident && x.line != e.line)).length < xs.length := by
        refine List.length_filter_lt_length_iff_exists.mpr ⟨a, ha, ?_⟩
        simp_all
      simp only [List.length_append, List.length_cons, List.length_nil]
      omega
  · split
    · omega
    · rw [List.length_append]
      split <;> simp only [List.length_drop, List.length_cons, List.length_nil] <;> omega

theorem hearTicket (h : Keeps r s) (i l : Nat) (st : TicketState) : Keeps r (s.hearTicket i l st) := by
  unfold State.hearTicket
  split
  · exact h
  · exact h.trans { (refl s) with cache := fun k => cacheHear_length _ _ k }

theorem handOn (h : Keeps r s) (st : Nat) (n : Notice) : Keeps r (s.handOn st n) := by
  unfold State.handOn
  split
  · exact h.answerAnnounce
  · exact (h.ownRules _ _ (fun _ _ _ h => h.claimMeets _ _ _ _ _)).bookClaim _
  · exact (h.ownRules _ _ (fun _ _ _ h => h.holdMeets _ _ _ _ _)).bookClaim _
  · exact h.hearReleaseOf _ _
  · exact h.hearVerdict _ _ _ _
  · exact h.hearTicket _ _ _

theorem filterNotice (h : Keeps r s) (n : Notice) (b : List Byte) : Keeps r (s.filterNotice n b) := by
  unfold State.filterNotice
  split
  · exact h.post _
  · exact h

theorem clash (h : Keeps r s) (k : NoticeKind) : Keeps r (s.clash k) := by
  unfold State.clash
  split
  · exact h.setClaims _ rfl
  · exact h.setClaims _ rfl
  · exact h
  · exact (h.capture _).isolate

theorem testIfChanged (h : Keeps r s) (x : State) : Keeps r (s.testIfChanged x) := by
  unfold State.testIfChanged
  split
  · exact h
  · exact h.claimTest

theorem takeNotice (h : Keeps r s) (b : List Byte) : Keeps r (s.takeNotice b) := by
  unfold State.takeNotice
  split
  · exact h.capture _
  · split
    · exact h.capture _
    · split
      · exact h.clash _
      · exact ((h.handOn _ _).filterNotice _ _).testIfChanged _

end Sys2Proof.Machine.Keeps
end

