-- ==== Sys2Proof/Laws/Line.lean ====
section
/-! SUPPORT. What the desk line's operations do: they change the desk line and nothing else, and with nothing held back a freed place only
brings the head of the queue into flight. -/

namespace Sys2Proof.Machine

theorem State.beginTry_line (s : State) : s.beginTry = s.setLine s.beginTry.line := by
  unfold State.beginTry; split <;> rfl

theorem State.tryNow_line (s : State) : s.tryNow = s.setLine s.tryNow.line := by
  unfold State.tryNow
  split
  · split
    · exact s.beginTry_line
    · rfl
  · rfl

theorem State.loadFlight_line (s : State) : s.loadFlight = s.setLine s.loadFlight.line := by
  unfold State.loadFlight
  split
  · rw [State.tryNow_line]; rfl
  · rfl

theorem State.holdBack_line (s : State) (tx : Tx) : s.holdBack tx = s.setLine (s.holdBack tx).line := by
  unfold State.holdBack; (repeat' split) <;> rfl

theorem State.enqueue_line (s : State) (tx : Tx) : (s.enqueue tx).1 = s.setLine (s.enqueue tx).1.line := by
  unfold State.enqueue; (repeat' split) <;> rfl

/-- An offer of a notice changes the desk line alone. -/
theorem State.offer_line (s : State) (tx : Tx) : s.offer tx = s.setLine (s.offer tx).line := by
  have := s.enqueue_line tx
  unfold State.offer
  split
  · rename_i s' h
    rw [h] at this
    simp only at this
    rw [State.loadFlight_line, this]; rfl
  · exact s.holdBack_line tx

/-- A line that became free this moment is not quiet yet (R19). -/
theorem State.lineQuiet_now (s : State) (h : s.line.endedAt = s.time.now) : s.lineQuiet = false := by
  simp [State.lineQuiet, h, Config.quietQuanta, Config.symbolQuanta]

theorem State.tryNow_flight (s : State) : s.tryNow.line.flight.isSome = s.line.flight.isSome := by
  unfold State.tryNow State.beginTry
  split
  · split
    · split <;> simp_all
    · rfl
  · rfl

theorem State.tryNow_queue (s : State) : s.tryNow.line.queue = s.line.queue := by
  unfold State.tryNow State.beginTry
  split
  · split
    · split <;> rfl
    · rfl
  · rfl

theorem State.loadFlight_twice (s : State) : s.loadFlight.loadFlight = s.loadFlight := by
  have key : ∀ t : State, t.line.flight.isSome = true ∨ t.line.queue = [] → t.loadFlight = t := by
    intro t h
    unfold State.loadFlight
    split
    · simp_all
    · rfl
  apply key
  unfold State.loadFlight
  split
  · left; rw [State.tryNow_flight]; rfl
  · rename_i h
    cases hf : s.line.flight with
    | some f => exact .inl rfl
    | none =>
      cases hq : s.line.queue with
      | nil => exact .inr rfl
      | cons x xs => exact (h x xs hf hq).elim

theorem State.tryNow_held (s : State) : s.tryNow.line.heldClaims = s.line.heldClaims
    ∧ s.tryNow.line.heldVerdicts = s.line.heldVerdicts ∧ s.tryNow.line.heldTickets = s.line.heldTickets := by
  unfold State.tryNow State.beginTry
  split
  · split
    · split <;> exact ⟨rfl, rfl, rfl⟩
    · exact ⟨rfl, rfl, rfl⟩
  · exact ⟨rfl, rfl, rfl⟩

theorem State.loadFlight_held (s : State) : s.loadFlight.line.heldClaims = s.line.heldClaims
    ∧ s.loadFlight.line.heldVerdicts = s.line.heldVerdicts ∧ s.loadFlight.line.heldTickets = s.line.heldTickets := by
  unfold State.loadFlight
  split
  · exact State.tryNow_held _
  · exact ⟨rfl, rfl, rfl⟩

/-- With nothing held back, a freed place brings the head of the queue into flight and does nothing else (R27). -/
theorem State.lineMoves_of_nothing_held (s : State) (h₁ : s.line.heldClaims = []) (h₂ : s.line.heldVerdicts = [])
    (h₃ : s.line.heldTickets = []) : s.lineMoves = s.loadFlight := by
  obtain ⟨e₁, e₂, e₃⟩ := s.loadFlight_held
  have hr : ∀ n, State.refill n s.loadFlight = s.loadFlight := by
    intro n
    cases n with
    | zero => rfl
    | succ n =>
      unfold State.refill
      split
      · simp [State.holders, e₁, e₂, e₃, h₁, h₂, h₃, State.chooseHolder]
      · rfl
  unfold State.lineMoves
  rw [hr, State.loadFlight_twice]

/-- A claim that may wait, or that some free pair suits, is tested like any other when its held-back CLAIM is discarded (R41). -/
theorem State.claimAgain_of_waits (s : State) (o : Opening)
    (h : o.urgency ≠ .routine ∨ (s.candidate o.line o.urgency o.pref).isSome = true) : s.claimAgain o = s.claimTest := by
  unfold State.claimAgain
  refine if_neg fun ⟨_, hr, hc⟩ => h.elim (fun k => k hr) fun k => ?_
  rw [Option.isNone_iff_eq_none.mp hc] at k
  exact absurd k (by decide)

/-- The ROUTINE claim of a sweep job that no free pair suits ends with its job in ACCESS (R114, R116). -/
theorem State.claimAgain_of_notFree (s : State) (o : Opening) (hp : o.placed = none) (hu : o.urgency = .routine)
    (hc : s.candidate o.line o.urgency o.pref = none) : s.claimAgain o = s.refuseClaim o.line := by
  unfold State.claimAgain
  exact if_pos ⟨hp, hu, by rw [hc]; rfl⟩

/-- A first try begins at once where it waits for no more than a quiet line that is there, and the transmitter may send (R21). -/
theorem State.tryNow_begins (s : State) (f : Flight) (hf : s.line.flight = some f) (hp : f.phase = .waitQuiet)
    (hq : s.lineQuiet = true) (ht : s.transmitterSilent = false) :
    s.tryNow = s.setLine
      { s.line with flight := some { f with phase := .trying s.time.now }, busy := true, startedAt := s.time.now } := by
  have hb : s.line.busy = false := by simp only [State.lineQuiet, Bool.and_eq_true, Bool.not_eq_true'] at hq; exact hq.1
  simp [State.tryNow, State.beginTry, hf, hp, hq, ht, hb]

/-- No try begins on a line that is not quiet, or while the transmitter is silent (R21). -/
theorem State.tryNow_waits (s : State) (h : s.lineQuiet = false ∨ s.transmitterSilent = true) : s.tryNow = s := by
  unfold State.tryNow
  split
  · refine if_neg fun ⟨_, hq, ht⟩ => ?_
    rcases h with h | h <;> simp [h] at hq ht
  · rfl

end Sys2Proof.Machine
end

