-- ==== Sys2Proof/Tests/Slice0.lean ====
section
/-! SUPPORT. Tests of the model on small states, and for each statement with hypotheses a witness that they can be met. -/

namespace Sys2Proof.Tests

open Sys2Proof.Machine

/-! ## States for the tests

An ACTIVE station, number 2, with four buses and the home units 0 and 1, 100 ms after power-on; unit 0 is OK, unit 1 in ALARM, unit 3 OK, unit 5 DOWN. -/

/-- A unit table entry in a state. -/
def unit (st : UnitState) : UnitEntry := { UnitEntry.powerOn with state := st }

/-- The unit table of the tests. -/
def units : List UnitEntry :=
  [unit .ok, unit .alarm, unit .absent, unit .ok, unit .absent, unit .down] ++ List.replicate 58 (unit .absent)

/-- The chain idle after discovery. -/
def idleChain : Chain :=
  { Chain.powerOn with
    units := units
    exchange := none
    discovery := none
    pollPointer := 1
    polling := true
    nextPoll := 80000 }

/-- The ACTIVE station with nothing in hand. -/
def desk : State :=
  { State.reset with
    straps :=
      { station := 2
        buses := 4
        base := 0
        units := 2 }
    time :=
      { now := 32000
        clock := 100
        part := 0 }
    chain := idleChain
    claims :=
      { station := .active
        entries := [.free, .free, .free, .free]
        opening := none
        clashMark := none
        joinUntil := none } }

/-- The pair of the tests: bus 1, line 7 on unit 0. -/
def pair : Pair := { bus := 1, line := 7 }

/-- A step with no mark. -/
def plainStep (k : StepKind) : Step := { kind := k, marked := false, seconds := if k = .hold then 5 else 0 }

/-- A desk order for line 7 with the given steps. -/
def orderOf (steps : List Step) : Order :=
  { tag := 9
    line := 7
    urgency := .demand
    pref := none
    volts := 50
    steps := steps
    submitted := 50 }

/-- Its job in a phase, with the claim of bus 1. -/
def jobOf (steps : List Step) (phase : Phase) (step : Nat) : Job :=
  { newJob (orderOf steps) none with
    phase := phase
    step := step
    bus := some 1
    accessWait := some 10
    connectedAt := some 80 }

/-- An own claim for line 7. -/
def claimIn (st : ClaimState) (u : Urgency) : OwnClaim := { newOwn 7 u [] with state := st, retryAt := 40000 }

/-- The desk with an OWN entry on bus 1. -/
def withClaim (s : State) (c : OwnClaim) : State := s.setEntry 1 (.own c)

/-- The desk with a job in the active slot. -/
def withJob (s : State) (j : Job) : State := s.setSeq { s.seq with active := .job j }

/-- An exchange on the chain, its answer not begun, its limit 1 ms on. -/
def asked (r : ChainRequest) : Exchange := { request := r, begun := false, limit := 32320 }

/-- The desk with an exchange alone on the chain. -/
def withExchange (s : State) (r : ChainRequest) : State := s.setChain { s.chain with exchange := some (asked r) }

/-- An operation for the pair of the tests. -/
def opIn (k : OpKind) (attempt : Nat) (stage : OpStage) : ChainOp :=
  { pair := pair, kind := k, attempt := attempt, stage := stage, abandoned := false }

/-- The chain with an operation in progress. -/
def withOp (s : State) (o : ChainOp) : State := s.setChain { s.chain with ops := [o] }

/-- An answer with a bus set; supply good, no alarm. -/
def answer (buses : BitVec 4) : ChainAnswer := { buses := buses, supplyGood := true, alarm := false }

/-- A notice in flight. -/
def flying (n : Notice) (phase : TryPhase) (collisions : Nat) : Flight :=
  { tx := { notice := n, tag := .plain }, collisions := collisions, phase := phase, withdrawn := false }

/-- The desk with a notice in flight. -/
def withFlight (s : State) (f : Flight) : State := s.setLine { s.line with flight := some f }

/-- A line gone low with another station's notice at 30,000 quanta. -/
def heard (s : State) : State := s.setLine { s.line with busy := true, startedAt := 31700 }

/-- A queue of sixteen VERDICT notices. -/
def fullQueue : List Tx := List.replicate 16 { notice := .verdict 600 .clear 65535, tag := .plain }

/-- The head on bus 1 in a state and an activity that ends at 33,000 quanta. -/
def headIn (st : HeadState) (a : HeadActivity) : Head :=
  { Head.offBus with
    state := st
    bus := some 1
    relay := some 1
    setting := some 50000
    activity := a
    until_ := 33000 }

/-- The desk with a job, its HELD claim and its head. -/
def onHead (steps : List Step) (phase : Phase) (step : Nat) (h : Head) : State :=
  (withJob (withClaim desk (claimIn .held .demand)) (jobOf steps phase step)).setHead h

/-- A full measuring list whose third step carries a suspend mark. -/
def marked3 (second : StepKind) : List Step :=
  [plainStep .connect, plainStep second, { kind := .hold, marked := true, seconds := 5 }, plainStep .release]

/-- A peer's entry for line 300 of station 5. -/
def peer (u : Urgency) (firm : Bool) : PeerClaim :=
  { station := 5, line := 300, urgency := u, firm := firm, expiry := 40000 }

/-- Ticket 2 × 4,096 + n for a line. -/
def ticketIn (n line : Nat) (st : TicketState) : Ticket :=
  { newTicket (8192 + n) line .loop 0 15 with
    state := st
    deadline := if st = .cleared then some 60 else none }

/-- The desk with one ticket, named by its line's record while it is live. -/
def withTicket (n line : Nat) (st : TicketState) : State :=
  (desk.setTickets { desk.tickets with table := [ticketIn n line st], serial := n }).setRecords
    { desk.records with
      table := if st = .closed then [] else [(line, { LineRecord.powerOn with ticket := some (8192 + n) })] }

/-- The sweep in a state with its due time at 200 ms. -/
def sweepIn (st : SweepState) : Sweep := { Sweep.powerOn 0 with state := st, due := some 200 }

/-- The desk with its sweep in a state. -/
def sweeping (st : SweepState) : State := desk.setSweep (sweepIn st)

/-- A station in another state. -/
def stationIn (st : StationState) : State := desk.setClaims { desk.claims with station := st }

/-! ### States for particular statements -/

/-- An exchange whose answer has begun, and one whose limit has passed. -/
def begun (u : Nat) : Exchange := { asked (.poll u) with begun := true }

/-- As `begun`, its limit passed at 100 quanta. -/
def overdue : Exchange := { begun 0 with limit := 100 }

/-- The desk with a given exchange alone on the chain. -/
def onChain (e : Exchange) : State := desk.setChain { idleChain with exchange := some e }

/-- A chain with unit 0 the only one present, under the poll pointer. -/
def oneUnit : State :=
  desk.setChain
    { idleChain with
      pollPointer := 0
      units := unit .ok :: List.replicate 63 (unit .absent) }

/-- Polling halted. -/
def halted : State := desk.setChain { idleChain with polling := false }

/-- A connect, release or retry at its READ LINE, for the active job. -/
def readingLine (k : OpKind) (n : Nat) (ph : Phase) (st : ClaimState) : State :=
  withOp (withExchange (withJob (withClaim desk (claimIn st .demand)) (jobOf [] ph 1)) (.readLine pair))
    (opIn k n .reading)

/-- The retry of a STUCK claim at its READ LINE. -/
def retrying : State :=
  withOp (withExchange (withClaim desk (claimIn .stuck .demand)) (.readLine pair)) (opIn .retry 1 .reading)

/-- Unit discovery at the poll of a unit. -/
def discovery (u : Nat) : State :=
  (stationIn .discovering).setChain
    { idleChain with
      exchange := some (asked (.poll u))
      discovery := some (.polling u)
      polling := false }

/-- A RELEASE notice. -/
def releaseNotice : Notice := .release pair

/-- A notice in flight that was withdrawn too late. -/
def tooLate : Flight := { flying releaseNotice (.trying 31900) 2 with withdrawn := true }

/-- The ANNOUNCE of the join in hand, on the line. -/
def joinFlight : Flight := { flying .announce (.trying 31900) 0 with tx := { notice := .announce, tag := .joining } }

/-- The claim in the making, placed on bus 1. -/
def opening : Opening := { line := 7, urgency := .demand, pref := none, placed := some 1 }

/-- The desk with an own claim that is the claim in the making. -/
def making (c : OwnClaim) : State :=
  let s := withClaim desk c
  s.setClaims { s.claims with opening := some opening }

/-- A queued VERDICT notice. -/
def verdictTx : Tx := { notice := .verdict 600 .clear 65535, tag := .plain }

/-- A queued TICKET notice. -/
def ticketTx : Tx := { notice := .ticket 8193 600 .opened .loop, tag := .plain }

/-- A queued RELEASE notice. -/
def releaseTx : Tx := { notice := releaseNotice, tag := .plain }

/-- A renewal HOLD. -/
def renewal : Tx := { notice := .hold .demand pair false, tag := .plain }

/-- The desk with a notice in flight and a queue. -/
def queued (q : List Tx) : State :=
  (withFlight desk (flying releaseNotice .waitQuiet 0)).setLine
    { desk.line with
      flight := some (flying releaseNotice .waitQuiet 0)
      queue := q }

/-- A line that has been high for less than 16 symbol times. -/
def notYetQuiet (s : State) : State := s.setLine { s.line with endedAt := s.time.now - 79 }

/-- A station with no notice in flight and an empty queue. -/
def idleLine (s : State) : State := s.setLine { s.line with flight := none, queue := [] }

/-- Ten bytes of kind 7 with a good check. -/
def badKind : List Byte := [0x75, 0, 0, 0, 0, 0, 0, 0] ++ bytesOf 2 (noticeCheck [0x75, 0, 0, 0, 0, 0, 0, 0]).toNat

/-- A job in ACCESS. -/
def accessJob : Job := newJob (orderOf []) none

/-- A claim whose CLAIM was SENT at 31,000 quanta, in CONTEST. -/
def contesting : OwnClaim := { claimIn .contest .demand with sentAt := 31000 }

/-- Two awaited entries. -/
def awaited5 : Awaited := { station := 5, pair := { bus := 1, line := 300 }, expiry := 32500 }

/-- As `awaited5`, of station 6, on bus 2. -/
def awaited6 : Awaited := { station := 6, pair := { bus := 2, line := 7 }, expiry := 32600 }

/-- A claim in AWAIT_YIELD. -/
def yielding (l : List Awaited) : OwnClaim :=
  { claimIn .awaitYield .demand with
    awaited := l
    sentAt := 31000
    limit := 671000 }

/-- A disturbance by a station. -/
def disturbedBy (station : Nat) : Disturbance :=
  { station := station, pair := { bus := 1, line := 300 }, deadline := 32100 }

/-- A HELD claim with two disturbance records. -/
def disturbed : OwnClaim := { claimIn .held .demand with disturbances := [disturbedBy 5, disturbedBy 6] }

/-- The join period runs to 33,000 quanta. -/
def joining : State := (stationIn .joining).setClaims { (stationIn .joining).claims with joinUntil := some 33000 }

/-- A table with peers' entries on every bus but one. -/
def peers : List Entry :=
  [.peer (peer .demand false), .peer { peer .demand true with station := 3, line := 7 }, .free,
    .peer { peer .demand true with line := 9 }]

/-- A head in RESIST with the source ZERO and the line foreign-clear. -/
def inResist (a : HeadActivity) (k : HeadConfig) (w : StageWork) : State :=
  onHead (marked3 .resist) .running 2
    { headIn .resist a with
      source := .zero
      config := some k
      foreignClear := true
      work := w }

/-- A head in CAPACITY with the shunt applied and the line foreign-clear. -/
def inCapacity (a : HeadActivity) (k : HeadConfig) (w : StageWork) : State :=
  onHead (marked3 .capacity) .running 2
    { headIn .capacity a with
      source := .zero
      shunt := true
      config := some k
      foreignClear := true
      work := w }

/-- A RESIST reading of nothing. -/
def noReading : ResistReading := { iOff := 0, vOff := 0, iOn := 0 }

/-- Work with an OFF phase and two configurations done. -/
def resistWork (l : List ResistReading) : StageWork := { StageWork.none with off := some (0, 0), resist := l }

/-- Runs of samples, of each length a stage takes. -/
def run (n : Nat) (x : Int) : List Int := List.replicate n x

/-- Work with three runs done. -/
def runsDone : StageWork := { StageWork.none with runs := [run 256 0, run 256 0, run 256 0] }

/-- The head on its bus, the job on a step before which it is suspended. -/
def suspended : State := onHead (marked3 .foreign) .suspended 3 (headIn .onBus .idle)

/-- Its job. -/
def suspendedJob : Job := jobOf (marked3 .foreign) .suspended 3

/-- A queued order. -/
def waitingOrder (tag : Nat) : QueuedOrder := { order := { orderOf [] with tag := tag }, waiting := none }

/-- The record of an order that ended while queued. -/
def recordOf (tag n : Nat) : Waiting :=
  { record := desk.queuedCompletion { orderOf [] with tag := tag } .cancelled none, ended := n }

/-- An ended order that keeps its place. -/
def endedOrder (tag n : Nat) : QueuedOrder :=
  { order := { orderOf [] with tag := tag }, waiting := some (recordOf tag n) }

/-- The desk with orders in its queue. -/
def ordered (q : List QueuedOrder) : State := desk.setSeq { desk.seq with queue := q }

/-- The completion queue with records. -/
def completed (n : Nat) (q : List QueuedOrder) : State :=
  desk.setSeq
    { desk.seq with
      queue := q
      completions := List.replicate n (recordOf 1 0).record }

/-- The desk with orders and a notice in flight. -/
def ready (q : List QueuedOrder) : State := (withFlight desk (flying .announce .waitQuiet 0)).setSeq (ordered q).seq

/-- A sweep offer before an empty queue. -/
def offered : State :=
  (withFlight desk (flying .announce .waitQuiet 0)).setSweep { sweepIn .seeking with offer := true }

/-- A step entry. -/
def entry (k m n : Nat) : StepEntry := { kind := k, mark := m, seconds := n }

/-- An order record. -/
def orderRecord (l : List StepEntry) (n : Nat) : OrderRecord :=
  { tag := 9
    line := 7
    urgency := 1
    busPref := 255
    volts := 5
    count := n
    entries := l ++ List.replicate (12 - l.length) (entry 0 0 0) }

/-- CONNECT, a marked FOREIGN, VERDICT. -/
def goodOrder : OrderRecord := orderRecord [entry 1 0 0, entry 2 1 0, entry 5 0 0] 3

/-- Its steps. -/
def goodOrderSteps : List Step :=
  [plainStep .connect, { kind := .foreign, marked := true, seconds := 0 }, plainStep .verdict]

/-- A report. -/
def report : Report := { time := 5, content := .unitChange 3 .down }

/-- The report queue with reports. -/
def reported (n : Nat) : State := desk.setReports { desk.reports with queue := List.replicate n report }

/-- A transaction in its response. -/
def reading (r : Reading) : Transaction := { response := [1, 0, 0], reading := r, discarded := true }

/-- A captured error. -/
def captured : State :=
  desk.setReports
    { desk.reports with
      first := some { detail := .lineJam .claim, time := 3 }
      kinds := [.lineJam] }

/-- A line record with a bucket. -/
def bucket (level stamp : Nat) : LineRecord := { LineRecord.powerOn with level := level, stamp := stamp }

/-- A verdict of a class for line 7. -/
def delivery (v : Verdict) : Delivery :=
  { line := 7
    verdict := v
    tester := 2
    worst := none
    length := none }

/-- A clear of the records runs, with unit 1 next. -/
def clearing : State :=
  (withTicket 3 7 .opened).setRecords
    { (withTicket 3 7 .opened).records with
      clear := some 1
      clearAt := 33000 }

/-- A SWEEP START. -/
def startRecord (line interval : Nat) : SweepStartRecord :=
  { start := line
    onComplete := 1
    onError := 0
    once := 255
    interval := interval }

/-- A halted sweep at a line. -/
def haltedAt (line : Nat) : State :=
  desk.setSweep
    { sweepIn .haltedError with
      pointer := line
      onComplete := true }

/-- A sweep job. -/
def sweepJob : Job := { jobOf [] .running 2 with sweep := some { retest := true, pass := 0 } }

/-- Straps with more than one position fitted in a group, the home range shortened at unit 63. -/
def masks : StrapMasks := { station := 0b100, buses := 0b1010, baseUnit := 0x8000000000000000, units := 0b10 }

/-- LOAD SETTINGS with every value below its range. -/
def lowSettings : SettingsRecord :=
  { foreign := 0, loop := 0, ground := 0, insulation := 0, imbalance := 0, gauge := [0, 0, 0, 0],
    gaugeIndex := List.replicate 64 0, accessWait := 0, suspend := 0, decay := 0, openLevel := 0, clearLevel := 0,
    clearHold := 0, retest := 0, guard := 0 }

/-- A station in RESETTING with nothing left to do, on a busy line. -/
def resetting : State := heard (stationIn .resetting)

/-- As `resetting`, with a clash marked. -/
def clashMarked : State := resetting.setClaims { resetting.claims with clashMark := some .hold }

/-- A notice in flight that counts for the end of a reset. -/
def ofReset (f : Flight) : Flight := { f with tx := { f.tx with tag := .ofReset } }

/-! ### States for chains of power-on, lost claims, full queues and walks -/

/-- Power-on at a CHAIN CLEAR, its first or its second. -/
def chainClearing (again : Bool) (e : Exchange) : State :=
  (stationIn .discovering).setChain
    { idleChain with
      exchange := some e
      discovery := some (.clearing again)
      driveSet := [pair]
      polling := false }

/-- A CHAIN CLEAR on the chain. -/
def clearAsked : Exchange := asked .chainClear

/-- As `discovery`, the answer of the unit begun, a clash marked. -/
def stuckDiscovery (u : Nat) : State :=
  let s := discovery u
  (s.setChain { s.chain with exchange := some (begun u) }).setClaims { s.claims with clashMark := some .hold }

/-- The CLAIM of bus 1. -/
def claimNotice (u : Urgency) : Notice := .claim u pair

/-- A CLAIM on the line that was withdrawn too late. -/
def lateClaim : Flight := { flying (claimNotice .demand) (.trying 31900) 2 with withdrawn := true }

/-- A claim in SENDING, with a pair it awaits. -/
def sending (u : Urgency) : OwnClaim := { claimIn .sending u with awaited := [awaited5] }

/-- The desk with its claim in the making at a CLAIM in flight. -/
def claiming (u : Urgency) (f : Flight) : State :=
  let s := withFlight (making (sending u)) f
  s.setClaims { s.claims with opening := some { opening with urgency := u } }

/-- A sweep job in ACCESS, a pointer test. -/
def sweepAccess : Job := newJob (sweepOrder 7 100) (some { retest := false, pass := 0 })

/-- A station whose ROUTINE claim serves a sweep job. -/
def sweepClaiming (f : Flight) : State := (withJob (claiming .routine f) sweepAccess).setSweep (sweepIn .testing)

/-- An asserting HOLD. -/
def assertion (bus line : Nat) : Tx := { notice := .hold .demand { bus := bus, line := line } true, tag := .plain }

/-- A CLAIM in the queue. -/
def claimTx (u : Urgency) : Tx := { notice := claimNotice u, tag := .plain }

/-- A full queue behind an asserting HOLD. -/
def crowded (y : Tx) : List Tx := assertion 2 9 :: (fullQueue.take 14 ++ [y])

/-- The desk with a full queue on a busy line and no notice in flight. -/
def waitingLine (claims verdicts tickets : List Tx) : State :=
  (heard desk).setLine
    { (heard desk).line with
      queue := fullQueue
      heldClaims := claims
      heldVerdicts := verdicts
      heldTickets := tickets }

/-- As `waitingLine`, with the claim of line 7 waiting. -/
def waitingClaim : State :=
  let s := waitingLine [claimTx .demand] [] []
  s.setClaims { s.claims with opening := some { opening with placed := none } }

/-- As `waitingClaim`, every pair of the line taken. -/
def takenClaim : State :=
  let s := waitingClaim
  s.setEntry 3 (.peer { peer .priority true with line := 7 })

/-- A job whose release runs at the chain, its HEAD_FREE handed. -/
def freedJob : Job := { jobOf [] .releasing 2 with headFreed := true }

/-- An order for line 9. -/
def otherOrder : QueuedOrder := { order := { orderOf [] with line := 9 }, waiting := none }

/-- The desk with a job that has handed HEAD_FREE, its claim on bus 0, and orders in the queue. -/
def freed : State :=
  let s := (ready [waitingOrder 3, otherOrder]).setEntry 0 (.own (claimIn .releasing .demand))
  s.setSeq { s.seq with active := .job { freedJob with bus := some 0 } }

/-- A sweep at line 4: 4 excluded, 5 with the hazard mark, 6 not selected, 7 to be tested. -/
def walking : State :=
  offered.setSweep { offered.sweep with pointer := 4, pass := 1 } |>.setRecords
    { offered.records with
      table :=
        [(4, { LineRecord.powerOn with repetition := 0 }), (5, { LineRecord.powerOn with hazard := true }),
          (6, { LineRecord.powerOn with repetition := 2 })] }

/-- A home range of which every line is excluded. -/
def excluded : State :=
  let s := offered.setSweep { offered.sweep with pointer := 4 }
  (s.setStraps { s.straps with units := 1 }).setRecords
    { s.records with table := (List.range 256).map (fun n => (n, { LineRecord.powerOn with repetition := 0 })) }

/-- Full ticket tables: of live tickets, and with a CLOSED one after the first. -/
def tableOf (st : TicketState) : List Ticket :=
  ticketIn 200 300 .opened :: ticketIn 201 301 st :: (List.range 126).map (fun n => ticketIn (300 + n) (310 + n) .held)

/-- The desk with a full ticket table, line 7 pending or not. -/
def fullTickets (st : TicketState) (pending : Bool) : State :=
  (desk.setTickets { desk.tickets with table := tableOf st }).setRecords
    { desk.records with
      table := if pending then [(7, { LineRecord.powerOn with pending := true })] else [] }

/-- The sweep in TESTING at a line, with stop-on-error on. -/
def testing (line due : Nat) : State :=
  desk.setSweep
    { sweepIn .testing with
      pointer := line
      onError := true
      due := some due }

/-- A sweep job's standing: a retest or a pointer test. -/
def sweepInfo (retest : Bool) : SweepInfo := { retest := retest, pass := 0 }

/-- Two standing claims on a busy line, with every kind of notice in the accept set. -/
def listening : State :=
  let s := ((heard desk).setEntry 1 (.own (claimIn .stuck .demand))).setEntry 3
    (.own { claimIn .held .priority with line := 9 })
  s.setReports
    { s.reports with
      filter :=
        { accept := List.replicate 6 true
          value := 0
          mask := 0 } }

/-- A list of CONNECT, one more step, VERDICT and RELEASE. -/
def stepsOf (k : StepKind) : List Step := [plainStep .connect, plainStep k, plainStep .verdict, plainStep .release]

/-- A HELD claim with its last disturbance record, and its job on the head. -/
def disturbedOnHead (phase : Phase) : State :=
  (withJob (withClaim desk { disturbed with disturbances := [disturbedBy 5] }) (jobOf (stepsOf .resist) phase 2)).setHead
    (headIn .onBus .idle)

/-- A pair of another line on bus 1, and one of line 7 on another bus. -/
def otherPair : Pair := { bus := 1, line := 300 }

/-- As `otherPair`, in conflict by its line alone. -/
def linePair : Pair := { bus := 3, line := 7 }

/-- A HELD claim whose job is in a phase in the active slot, on a head, another station's notice on the line. -/
def holding (u : Urgency) (phase : Phase) (h : Head) : State :=
  heard ((withJob (withClaim desk (claimIn .held u)) (jobOf (stepsOf .hold) phase 2)).setHead h)

/-- A HELD claim whose job is READY in the staged slot. -/
def stagedClaim (u : Urgency) : State :=
  heard ((withClaim desk (claimIn .held u)).setSeq
    { desk.seq with
      active := .job { jobOf [] .running 2 with bus := some 0 }
      staged := .job (jobOf [] .ready 1) })

/-- The claim in the making hears a notice. -/
def makingHears (c : OwnClaim) : State := heard (making c)

/-- A claim in SENDING with its CLAIM in the queue, and a ROUTINE one that serves a sweep job. -/
def sendingHears (s : State) (u : Urgency) : State :=
  let s := heard s
  s.setLine { s.line with flight := some (flying releaseNotice .waitQuiet 0), queue := [verdictTx, claimTx u, ticketTx] }

/-- A foreign ticket cache entry. -/
def foreign (i line : Nat) : ForeignTicket := { ident := i, line := line, state := .opened, heardAt := 3 }

/-- A cache of 32 entries. -/
def fullCache : List ForeignTicket := (List.range 32).map (fun n => foreign (20481 + n) (600 + n))

/-- The level a verdict raises its line's bucket to. -/
def raised (s : State) (d : Delivery) : Nat :=
  min 255
    ((decayBucket (s.recordOf d.line).level (s.recordOf d.line).stamp (s.time.clock / 1000 / 60) s.settings.decay).1
      + d.verdict.weight)

/-- A job's request that got no answer, alone on the chain, its answer begun or not. -/
def unheard (r : ChainRequest) (stuck : Bool) (o : ChainOp) (ph : Phase) (st : ClaimState) : State :=
  (withJob (withClaim desk (claimIn st .demand)) (jobOf [] ph 1)).setChain
    { idleChain with exchange := some { asked r with begun := stuck }, ops := [o] }

/-- A connect whose OPERATE waits for the idle chain, its claim in a state. -/
def operateWaits (st : ClaimState) (ph : Phase) : State :=
  (withJob (withClaim desk (claimIn st .demand)) (jobOf [] ph 1)).setChain
    { idleChain with jobGroup := [.operate pair], ops := [opIn .connect 1 .acting] }

/-- A claim in CONTEST for a unit in ALARM, and its job in ACCESS. -/
def alarmed (j : Job) : State :=
  (withJob (making contesting) j).setChain { idleChain with units := unit .alarm :: units.drop 1 }

/-- A sweep offer with its guard passed, ahead of an order, with a job behind it. -/
def guarded (x : Sweep) (table : List Ticket) : State :=
  let s := (freed.setSweep { x with offer := true, guardPassed := true, pointer := 20 }).setTickets
    { freed.tickets with table := table }
  s.setRecords { s.records with table := [(20, { LineRecord.powerOn with hazard := true, repetition := 0 })] }

/-- A ticket whose retest is due at a second. -/
def retestAt (n line due : Nat) : Ticket := { ticketIn n line .opened with retestDue := some due }

/-- A sweep offer at the last home line, an excluded one, with stop-on-complete on. -/
def lastLine : State :=
  let s := offered.setSweep { offered.sweep with pointer := 511, onComplete := true }
  s.setRecords { s.records with table := [(511, { LineRecord.powerOn with repetition := 0 })] }

/-- A claim in the making in a state, its CLAIM in the queue behind a VERDICT, a RELEASE in flight, a DEMAND order in ACCESS. -/
def claimsOf (st : ClaimState) : State :=
  withJob (sendingHears (making { sending .demand with state := st }) .demand) accessJob

/-- The state after its claim in the making has ended with a RELEASE. -/
def letGo (s : State) : State :=
  ({ s with claims := claimEnded s.claims 1 { sending .demand with state := .contest } }).offerRelease pair

/-- A job on the head with bus 0, and an order in ACCESS behind it. -/
def resetBusy : State :=
  let s := (claimsOf .contest).setEntry 0 (.own { claimIn .held .demand with line := 9 })
  (s.setSeq { s.seq with active := .job { jobOf [] .running 2 with bus := some 0 }, staged := .job accessJob }).setHead
    { headIn .discharge (.discharging false) with bus := some 0 }

/-- An order in ACCESS, and a job READY behind it. -/
def resetStaged : State :=
  let s := (claimsOf .contest).setEntry 0 (.own { claimIn .held .demand with line := 9 })
  s.setSeq { s.seq with staged := .job { jobOf [] .ready 1 with bus := some 0 } }

/-- A connect abandoned before its end. -/
def abandonedOp (attempt : Nat) (stage : OpStage) : ChainOp := { opIn .connect attempt stage with abandoned := true }

/-- Its OPERATE on the chain, its job in a slot. -/
def operateAbandoned (id : SlotId) : State :=
  (withOp (withExchange (withClaim desk (claimIn .releasing .demand)) (.operate pair)) (abandonedOp 1 .acting)).setSlot id
    (.job (jobOf [] .releasing 1))

/-- Its READ LINE on the chain. -/
def readAbandoned (attempt : Nat) : State := withOp (readingLine .connect attempt .releasing .releasing) (abandonedOp attempt .reading)

/-- A head about to leave its bus, with a job behind it in the staged slot. -/
def leaving (k : Job) : State :=
  let s := onHead [] .releasing 2 (headIn .discharge .opening)
  s.setSeq { s.seq with staged := .job k }

/-- A job of another line, in a phase. -/
def jobBehind (phase : Phase) (bus : Option Nat) : Job :=
  { jobOf [] phase 1 with
    bus := bus
    order := { orderOf [] with tag := 44, line := 300 } }

/-- A connect of the tests' order in a slot, with its claim HELD: its operation, what waits for the chain and what stands on it. -/
def connectIn (id : SlotId) (phase : Phase) (ops : List ChainOp) (group : List ChainRequest) (e : Option Exchange) : State :=
  let s := (withClaim desk (claimIn .held .demand)).setSlot id (.job (jobOf [] phase 1))
  s.setChain { s.chain with ops := ops, jobGroup := group, exchange := e }

/-- Peers' entries on every bus: FIRM ROUTINE ones and, on bus 2, a TENTATIVE one that yields to a DEMAND claim. -/
def routinePeers : List Entry :=
  [.peer (peer .routine true), .peer { peer .routine true with line := 301 }, .peer { peer .routine false with line := 302 },
    .peer { peer .demand true with line := 303 }]

/-- FIRM entries in DEMAND on every bus. -/
def firmPeers : List Entry :=
  [300, 301, 302, 303].map (fun n => .peer { peer .demand true with line := n })

/-- The first order of a queue before a table of entries and a transmit queue. -/
def orderBefore (entries : List Entry) (queue : List Tx) : State :=
  let s := ready [waitingOrder 9]
  (s.setClaims { s.claims with entries := entries }).setLine { s.line with queue := queue }

/-- A sweep offer before a table of entries. -/
def offerBefore (entries : List Entry) : State := offered.setClaims { offered.claims with entries := entries }

/-- A sweep job's ROUTINE claim with its CLAIM held back, before a table of entries. -/
def waitingSweep (entries : List Entry) : State :=
  ((withJob (waitingLine [claimTx .routine] [] []) sweepAccess).setClaims
    { desk.claims with entries := entries, opening := some { opening with urgency := .routine, placed := none } }).setSweep
    (sweepIn .testing)

/-- The active job moved to the staged slot, behind a desk order at the head. -/
def behindHolder (s : State) : State :=
  s.setSeq { s.seq with active := .job (jobOf [] .running 2), staged := s.seq.active }

/-- A claim that waits, with every bus taken. -/
def waitingAmong (entries : List Entry) : State :=
  let s := withFlight desk (flying .announce .waitQuiet 0)
  s.setClaims { s.claims with entries := entries, opening := some { opening with placed := none } }

/-- An order whose claim is in CONTEST behind a suspended order, two orders in the queue, a CLEARED ticket and an INTERVAL sweep. -/
def timed : State :=
  let s := (Tests.suspended.setEntry 2 (.own { sending .demand with line := 30, state := .contest })).setTickets
    { desk.tickets with table := [ticketIn 3 7 .cleared] }
  let s := s.setClaims { s.claims with opening := some { opening with line := 30, placed := some 2 } }
  (s.setSeq
    { s.seq with
      queue := [waitingOrder 3, endedOrder 4 0, { order := { orderOf [] with tag := 5, submitted := 9000000 }, waiting := none }]
      staged := .job { accessJob with order := { orderOf [] with tag := 6, line := 30 } } }).setSweep (sweepIn .interval)

/-- The `timed` state after a SET TIME to 1,000 s and the limits of its queued orders. -/
def timedWaits : State := waitsPassed { timed with time := { timed.time with clock := 1000000 }, port := none }

/-- As `timedWaits`, the claim in the making gone. -/
def timedUnheld : State :=
  ({ timedWaits with claims := claimEnded timedWaits.claims 2 { sending .demand with line := 30, state := .contest } }).offerRelease
    { bus := 2, line := 30 }

/-- As `timedUnheld`, the order in ACCESS ended. -/
def timedAccess : State :=
  { timedUnheld with
    seq := orderEndedIn .staged timedUnheld { accessJob with order := { orderOf [] with tag := 6, line := 30 } } .lineBusy (some 1) }

theorem contest_ends (s : State)
    (h : s.claims.opening = some opening ∧ s.entryAt 1 = .own { sending .demand with state := .contest }) :
    ClaimEndsUnheld s (letGo s) :=
  .inr ⟨_, h.1, .inr ⟨1, _, rfl, h.2, .inr (.inr ⟨.inl rfl, rfl⟩)⟩⟩

theorem excluded_lines (line : Nat) (_ : excluded.straps.firstLine ≤ line) (h : line ≤ excluded.straps.lastLine) :
    (excluded.recordOf line).repetition = 0 := by
  have low : ∀ n < 256, (excluded.recordOf n).repetition = 0 := by decide +kernel
  exact low line (Nat.lt_succ_of_le h)

/-- The state a command leads to. -/
def after (o : Out) : State :=
  match o with
  | .next t => t
  | _ => State.reset

/-! ## The form of operands: each check of WellFormed refuses an ill-formed term -/

theorem test_form_bus : Instr.wellFormed (.holdInterval 4) = false := by decide

theorem test_form_notice_length : Instr.wellFormed (.noticeReceived (List.replicate 9 0)) = false := by decide

theorem test_form_foreign_runs :
    Instr.wellFormed (.foreignStageEnd (run 80 0) (run 80 0) (run 79 0)) = false := by decide

theorem test_form_resist_runs : Instr.wellFormed (.resistOffPhaseEnd (run 16 0) (run 17 0)) = false := by decide

theorem test_form_capacity_run : Instr.wellFormed (.capacityRecordEnd (run 255 0)) = false := by decide +kernel

theorem test_form_two_bytes : Instr.wellFormed (.cancelOrder 65536) = false := by decide

theorem test_form_one_byte : Instr.wellFormed (.setCriticalLevel 256) = false := by decide

theorem test_form_four_bytes : Instr.wellFormed (.setTime 4294967296) = false := by decide

theorem test_form_bad_command_is_no_good_command : Instr.wellFormed (.badCommand 6 2) = false := by decide

theorem test_form_bad_command_fits : Instr.wellFormed (.badCommand 256 2) = false := by decide

theorem test_form_order_entries : Instr.wellFormed (.submitOrder { goodOrder with entries := [] }) = false := by decide

theorem test_form_order_entry_field :
    Instr.wellFormed (.submitOrder (orderRecord [entry 6 0 65536] 1)) = false := by decide

theorem test_form_sweep_start : Instr.wellFormed (.sweepStart (startRecord 65536 1)) = false := by decide

theorem test_form_settings_gauge : Instr.wellFormed (.loadSettings { lowSettings with gauge := [0, 0, 0] }) = false := by
  decide

theorem test_form_settings_index : Instr.wellFormed (.loadSettings { lowSettings with gaugeIndex := [] }) = false := by
  decide

theorem test_form_filter_marks : Instr.wellFormed (.setFilter [1, 1, 1, 1, 1] 0 0) = false := by decide

theorem test_ill_formed_command_faults : exec (.holdInterval 4) desk = .fault (.illFormed "HOLD_INTERVAL") := by rfl

/-! ## Command records, written out from the table of R209 -/

theorem test_decode_set_time : decodeCommand [0x12, 0x06, 0x00, 0x01, 0x51, 0x80] = some (.setTime 86400) := by decide

theorem test_decode_read_line_record : decodeCommand [0x0A, 0x04, 0x0C, 0x4B] = some (.readLineRecord 3147) := by decide

theorem test_decode_set_line_class :
    decodeCommand [0x0B, 0x08, 0x0C, 0x00, 0x04, 0x00, 0x08, 0x03] = some (.setLineClass 3072 1024 8 3) := by decide

theorem test_decode_sweep_start :
    decodeCommand [0x07, 0x09, 0x0C, 0x4B, 0x01, 0x00, 0x00, 0x00, 0x0A]
      = some (.sweepStart { start := 3147, onComplete := 1, onError := 0, once := 0, interval := 10 }) := by decide

theorem test_decode_length_byte_zero_is_two : decodeCommand [0x06, 0x00] = some .readStatus := by decide

theorem test_decode_wrong_length : decodeCommand [0x06, 0x03, 0x00] = some (.badCommand 6 3) := by decide

theorem test_decode_incomplete : decodeCommand [0x02, 0x04, 0x00] = none := by decide

/-! ## Notices -/

/-- The generator and the start value of R25 have a published check: the ASCII digits 1 to 9 leave 29B1. -/
theorem test_notice_check :
    noticeCheck [0x31, 0x32, 0x33, 0x34, 0x35, 0x36, 0x37, 0x38, 0x39] = 0x29B1#16 := by decide +kernel

/-- Section 2.7: byte 0 of a CLAIM is 35 for station 3 and 43 for station 11. -/
theorem test_notice_first_byte :
    (noticeBytes 3 (.claim .demand pair)).head? = some 35 ∧ (noticeBytes 11 (.claim .demand pair)).head? = some 43 := by
  decide

/-- Section 2.7: the backoffs of station 9 after its first and seventh collisions, and of station 11 after its first. -/
theorem test_backoffs : backoffSymbols 9 1 = 160 ∧ backoffSymbols 9 7 = 1696 ∧ backoffSymbols 11 1 = 192 := by decide

/-! ## The worked cases of chapter 5 -/

theorem test_foreign_reduction :
    reduceForeign (run 40 1400 ++ run 40 1000) (run 40 300 ++ run 40 (-150)) (run 79 0 ++ [100])
      = { dcTG := 1200, dcRG := 75, dcTR := 1, acTG := 200, acRG := 225, acTR := 11 } := by decide +kernel

/-- The readings of case 1. -/
def wetResist : ResistReadings :=
  { a := { iOff := 400, vOff := 0, iOn := 500400 }
    b := { iOff := 0, vOff := 0, iOn := 100000 }
    c := { iOff := 0, vOff := 0, iOn := 400000 }
    overrange := false }

theorem test_resist_case_1 :
    solveResist 50000 wetResist
      = ({ tr := { ohms := 489952, mark := .none }
           tg := { ohms := 122503, mark := .none }
           rg := { ohms := 999999999, mark := .openLine }
           worst := { ohms := 122503, mark := .none } }, false) := by decide

theorem test_resist_case_3 :
    solveResist 50000
        { a := { iOff := 0, vOff := 0, iOn := 25000000 }
          b := { iOff := 0, vOff := 0, iOn := 25000000 }
          c := { iOff := 0, vOff := 0, iOn := 10000 }
          overrange := false }
      = ({ tr := { ohms := 10, mark := .none }
           tg := { ohms := 9996002, mark := .none }
           rg := { ohms := 9996002, mark := .none }
           worst := { ohms := 10, mark := .none } }, true) := by decide

/-- Case 2's three sums of 55, 52 and 13 million, over runs that end at zero. -/
def wetCapacity : CapacityReadings :=
  { a := run 2 27500000 ++ run 254 0
    b := run 2 26000000 ++ run 254 0
    c := run 2 6500000 ++ run 254 0
    overrange := false }

theorem test_capacity_case_2 :
    solveCapacity 50000 48000 wetCapacity
      = ({ tr := 94000, tg := 16000, rg := 10000, imbalance := 62, length := some 1958 }, false) := by decide +kernel

theorem test_verdict_of_the_wet_line :
    (evaluate
        { foreign := none
          resist := some wetResist
          capacity := some wetCapacity
          setting := 50000
          hazardFound := false
          perKm := 48000
          settings := Settings.powerOn }).2 = some .lowInsulation := by decide +kernel

/-! ## The worked sequences of section 7.8 -/

theorem test_bucket_keeps_the_unused_part :
    ((bucket 6 600).judged (delivery .lowInsulation) 0 735 60).level = 7
      ∧ ((bucket 6 600).judged (delivery .lowInsulation) 0 735 60).stamp = 720 := by decide

theorem test_bucket_empties :
    ((bucket 3 100).judged (delivery .clear) 0 430 60).level = 0
      ∧ ((bucket 3 100).judged (delivery .clear) 0 430 60).stamp = 430 := by decide

theorem test_bucket_with_the_clock_set_back :
    ((bucket 7 750).judged (delivery .marginal) 0 705 60).level = 8
      ∧ ((bucket 7 750).judged (delivery .marginal) 0 705 60).stamp = 705 := by decide

theorem test_bucket_saturates : ((bucket 250 600).judged (delivery .hazard) 0 601 60).level = 255 := by decide

/-- Section 8.7: with the counter at 4,094 and serials 4,095, 1 and 2 held, the next serial is 3. -/
theorem test_serials_wrap :
    freeSerial [ticketIn 4095 7 .opened, ticketIn 1 8 .held, ticketIn 2 9 .closed] 4095 4094 = 3 := by decide

/-! ## Layouts of chapter 12 -/

/-- A CLAIM of station 3, DEMAND, for bus 2 and line 2,200 (section 12.2). -/
theorem test_claim_bytes :
    noticeBody 3 (.claim .demand { bus := 2, line := 2200 }) = [0x23, 0x01, 0x02, 0x08, 0x98, 0, 0, 0] := by decide

/-- A TICKET of station 5, ident 20,483, line 3,147, CLEARED, CLEAR (section 12.2). -/
theorem test_ticket_notice_bytes :
    noticeBody 5 (.ticket 20483 3147 .cleared .clear) = [0x65, 0x50, 0x03, 0x0C, 0x4B, 0x08, 0x03, 0] := by decide

/-- The wet line of section 7.8 with its ticket, last tested at minute 750. -/
def wetRecord : LineRecord :=
  { LineRecord.powerOn with
    tested := true
    verdict := some .lowInsulation
    time := some 45000
    tester := some 5
    worst := some { ohms := 122503, mark := .none }
    length := some 1958
    level := 10
    stamp := 720
    ticket := some 20483 }

/-- Section 12.7: the record of line 3,147 read at minute 790. -/
theorem test_line_record_bytes :
    lineRecordBytes 3147 wetRecord 790 60
      = [0x0C, 0x4B, 1, 5, 0, 0, 0xAF, 0xC8, 5, 1, 0, 0x01, 0xDE, 0x87, 1, 0x07, 0xA6, 9, 0, 0, 0x03, 0x0C,
          0x50, 0x03, 0, 0, 1, 0] := by decide

/-- Section 12.6: a UNIT_CHANGE of unit 3 to DOWN at 5 ms. -/
theorem test_report_bytes : reportBytes report = [4, 0, 0, 0, 0, 0, 5, 3, 3, 0, 0, 0, 0, 0, 0] := by decide

theorem test_completion_length : (completionBytes (recordOf 9 0).record).length = 88 := by decide +kernel

/-- Section 12.8: the parts of the status snapshot come to 598 bytes. -/
theorem test_status_length : (statusBytes desk).length = 598 := by decide +kernel

/-! ## One step each -/

theorem test_step_on_an_empty_queue_passes_a_millisecond : (after (step desk)).time.clock = 101 := by decide

theorem test_step_takes_the_front :
    step { desk with pending := [.setCriticalLevel 5, .readStatus] }
      = exec (.setCriticalLevel 5) { desk with pending := [.readStatus] } := by rfl

/-- The lowest fitted position of each group counts; the home range is cut off at unit 63 (R201, R137). -/
theorem test_power_on_straps :
    (after (exec (.powerOn masks) desk)).straps = { station := 2, buses := 2, base := 63, units := 1 } := by decide

theorem test_answered_poll_sets_alarm :
    ((after (exec (.exchangeAnswered { answer 0 with alarm := true }) (withExchange desk (.poll 3)))).unitAt 3).state
      = .alarm := by decide

theorem test_failed_poll_downs_its_unit :
    ((after (exec .answerStartTimeout (withExchange desk (.poll 3)))).unitAt 3).state = .down
      ∧ (after (exec .answerStartTimeout (withExchange desk (.poll 3)))).chain.polling = false := by decide

theorem test_overlong_answer_is_stuck :
    (after (exec .answerEndTimeout (onChain (begun 3)))).reports.first
      = some { detail := .chainStuck .poll (some 3), time := 101 } := by decide

theorem test_polling_point_takes_the_next_unit :
    ((after (exec .pollingPoint desk)).chain.exchange.map (·.request)) = some (.poll 3) := by decide

theorem test_collision_counts :
    ((after (exec .collision (withFlight desk (flying releaseNotice (.trying 31900) 6)))).line.flight.map
      (·.collisions)) = some 7 := by decide

theorem test_eighth_collision_drops :
    (after (exec .collision (withFlight desk (flying releaseNotice (.trying 31900) 7)))).line.flight = none
      ∧ (after (exec .collision (withFlight desk (flying releaseNotice (.trying 31900) 7)))).reports.kinds = [.lineJam] := by
  decide

/-- R21: activity that begins before the line is quiet and outlasts the quiet moment restarts the count. -/
theorem test_activity_over_the_quiet_moment_restarts_the_count :
    (after (exec .receptionAbandoned (heard desk))).line.endedAt = 32000 := by decide

/-- R42: the SENT of a CLAIM whose claim was defeated opens no window for a claim that has taken the pair since. -/
theorem test_late_claim_opens_no_window :
    (after (exec .noticeSent (withFlight (making (claimIn .sending .demand)) lateClaim))).ownAt 1 = some (claimIn .sending .demand) := by decide

theorem test_own_notice_is_not_heard_twice :
    (after (exec .noticeSent (withFlight desk (flying releaseNotice (.trying 31900) 0)))).line.flight = none := by decide

theorem test_bad_check_is_captured :
    (after (exec (.noticeReceived (List.replicate 10 0)) (heard desk))).reports.first.map (·.detail)
      = some (.noticeCheck none) := by decide +kernel

theorem test_bad_kind_is_captured :
    (after (exec (.noticeReceived badKind) (heard desk))).reports.first.map (·.detail)
      = some (.noticeCheck (some 7)) := by decide +kernel

theorem test_clash_isolates_in_starting :
    (after (exec (.noticeReceived (noticeBytes 2 releaseNotice)) (heard (stationIn .starting)))).claims.station
      = .isolated := by decide +kernel

theorem test_head_connects :
    (after (exec .headConnected (onHead (marked3 .foreign) .ready 1 (headIn .connecting .connecting)))).head.state
      = .foreign := by decide

theorem test_foreign_hazard_needs_more_than_the_limit :
    (after (exec (.foreignStageEnd (run 80 60000) (run 80 0) (run 80 0))
      (onHead (marked3 .foreign) .running 2 (headIn .foreign .sampling)))).head.hazardFound = false
    ∧ (after (exec (.foreignStageEnd (run 80 60001) (run 80 0) (run 80 0))
      (onHead (marked3 .foreign) .running 2 (headIn .foreign .sampling)))).head.hazardFound = true := by decide +kernel

theorem test_sweep_stop_while_stopped :
    ((after (exec .sweepStop desk)).port.map (·.response)) = some [1, 0, 0] := by decide

theorem test_sweep_start_takes_only_home_lines :
    ((after (exec (.sweepStart (startRecord 512 10)) desk)).port.map (·.response)) = some [10, 0, 0] := by decide

theorem test_line_class_offset_lies_below_repetition :
    ((after (exec (.setLineClass 0 1 8 8) desk)).port.map (·.response)) = some [5, 0, 0] := by decide

theorem test_line_class_is_set :
    (lookRecord (after (exec (.setLineClass 511 1 8 7) desk)).records.table 511).offset = 7 := by decide

theorem test_commands_are_busy_while_discovering :
    ((after (exec (.cancelOrder 5) (stationIn .discovering))).port.map (·.response)) = some [2, 0, 0] := by decide

theorem test_unknown_tag :
    ((after (exec (.cancelOrder 5) desk)).port.map (·.response)) = some [9, 0, 0] := by decide

theorem test_queued_order_is_cancelled :
    ((after (exec (.cancelOrder 9) (ordered [waitingOrder 9]))).seq.completions.map (·.status)) = [.cancelled] := by decide

theorem test_order_without_connect_is_bad :
    ((after (exec (.submitOrder (orderRecord [entry 2 0 0] 1)) desk)).port.map (·.response)) = some [6, 0, 0] := by decide

theorem test_order_for_an_absent_unit :
    ((after (exec (.submitOrder { goodOrder with line := 512 }) desk)).port.map (·.response)) = some [7, 0, 0] := by decide

theorem test_assigned_ticket_is_held :
    ((after (exec (.assignTicket 8195) (withTicket 3 7 .opened))).tickets.table.map (·.state)) = [.held] := by decide

theorem test_closed_ticket_leaves_its_record :
    (lookRecord (after (exec (.closeTicket 8195) (withTicket 3 7 .opened))).records.table 7).ticket = none := by decide

theorem test_set_time_counts_seconds : (after (exec (.setTime 86400) desk)).time.clock = 86400000 := by decide

theorem test_settings_are_clamped :
    (after (exec (.loadSettings lowSettings) (stationIn .starting))).settings.foreign = 1000
      ∧ (after (exec (.loadSettings lowSettings) (stationIn .starting))).settings.openLevel = 1 := by decide +kernel

theorem test_settings_only_in_starting :
    ((after (exec (.loadSettings lowSettings) desk)).port.map (·.response)) = some [4, 0, 0] := by decide +kernel

/-- R21, R204: on a quiet line the ANNOUNCE of JOIN begins its first try at once. -/
theorem test_join_begins_its_announce :
    (after (exec .join (stationIn .starting))).line.flight.map (·.phase) = some (.trying 32000) := by decide

theorem test_join_only_in_starting :
    ((after (exec .join desk)).port.map (·.response)) = some [4, 0, 0]
      ∧ (after (exec .join (stationIn .starting))).claims.station = .joining := by decide

theorem test_station_reset_stops_the_claims : (after (exec .stationReset desk)).claims.station = .resetting := by decide

/-- R206: a CLAIM withdrawn by the reset holds its end, one withdrawn before it does not. -/
theorem test_reset_waits_for_its_own_claim :
    (after (exec .resetEnd (withFlight resetting (ofReset lateClaim)))).claims.station = .resetting ∧
      (after (exec .resetEnd (withFlight resetting lateClaim))).claims.station = .joining := by decide

/-- R114, R116: with every bus taken, the line carried by none, the sweep job of a re-offered CLAIM ends at once. -/
theorem test_sweep_never_waits_for_a_pair :
    (waitingSweep firmPeers).lineMoves.seq.active = .empty ∧ (waitingSweep firmPeers).lineMoves.claims.opening = none := by
  decide +kernel

theorem test_reset_ends_in_joining : (after (exec .resetEnd resetting)).claims.station = .joining := by decide

theorem test_clear_errors : (after (exec .clearErrors captured)).reports.first = none := by decide

theorem test_empty_report_queue_answers_with_the_overrun_flag :
    ((after (exec .readReport desk)).port.map (·.response)) = some [12, 0, 1, 0] := by decide

theorem test_select_released_ends_the_transaction :
    (after (exec .selectReleased { desk with port := some (reading .completion) })).port = none := by decide

/-! ## Witnesses: for each statement with hypotheses, concrete states and operands that meet them, clause by clause -/

theorem witness_EveryStepKeepsTheStateSound :
    ∃ s t : State, s.Sound ∧ step s = .next t :=
  ⟨{ desk with pending := [.readStatus] }, _,
    ⟨by decide, by decide, by decide, by decide, by decide, by decide, by decide, by decide, by decide, by decide⟩, rfl⟩

theorem witness_EveryStepKeepsOneClaimForEachLine :
    ∃ s t : State, OneClaimPerLine s.claims.entries ∧ step s = .next t :=
  ⟨{ withClaim desk (claimIn .held .demand) with pending := [.holdInterval 1] }, _, by decide, rfl⟩

theorem witness_EveryStepKeepsTheTicketLaw :
    ∃ s t : State, TicketLaw s.straps s.tickets.table s.records ∧ step s = .next t :=
  ⟨{ withTicket 3 7 .opened with pending := [.assignTicket 8195] }, _,
    ⟨by decide, by decide, by decide, by decide, by decide, by decide, by decide⟩, rfl⟩

theorem witness_EveryWellFormedCommandCompletes :
    (∃ c : Instr, c.wellFormed = true) ∧ ∃ c : Instr, c.wellFormed = false :=
  ⟨⟨.readStatus, by decide⟩, ⟨.releaseSettleEnd 4, by decide⟩⟩

theorem witness_StrapsAndSettingsChangeByTheirCommandsAlone :
    ∃ (c : Instr) (s t : State), exec c s = .next t ∧ (∀ m, c ≠ .powerOn m) ∧ ∀ r, c ≠ .loadSettings r :=
  ⟨.readStatus, desk, _, rfl, by rintro _ ⟨⟩, by rintro _ ⟨⟩⟩

theorem witness_CommandRecordsReadBack :
    ∃ (c : Instr) (bytes : List Byte), c.wellFormed = true ∧ encodeCommand c = some bytes :=
  ⟨.setTime 4294967295, _, by decide, rfl⟩

theorem witness_ClockAndElapsedTimePassTogether :
    (∃ (s : State) (m : ℕ), s.time.InRange ∧ (s.time.clock < m) ∧ (m ≤ 4294967295000)) ∧
    (∃ (s : State) (m : ℕ), s.time.InRange ∧ (m ≤ s.time.clock)) ∧
    (∃ (s : State), s.time.InRange ∧ (s.pending = [])) :=
  ⟨⟨desk, 4294967295000, by decide⟩,
   ⟨desk, 100, by decide⟩,
   ⟨desk, by decide⟩⟩

theorem witness_AnAnswerHasThirtyMilliseconds :
    (∃ (s : State) (e : Exchange), (s.chain.exchange = some e) ∧ (e.begun = false) ∧ (s.time.now ≤ e.limit)) ∧
    (∃ (s : State) (e : Exchange), (s.chain.exchange = some e) ∧ (e.begun = true ∨ e.limit < s.time.now)) ∧
    (∃ (s : State) (e : Exchange), (s.chain.exchange = some e) ∧ (e.begun = true) ∧ (e.limit < s.time.now)) :=
  ⟨⟨withExchange desk (.poll 0), asked (.poll 0), by decide⟩,
   ⟨onChain (begun 0), begun 0, by decide⟩,
   ⟨onChain overdue, overdue, by decide⟩⟩

theorem witness_AnsweredPollSetsItsUnit :
    ∃ (s : State) (e : Exchange) (u : ℕ), (s.LoneExchange e) ∧ (e.request = ChainRequest.poll u) ∧ (u < s.chain.units.length) ∧
      (s.time.now ≤ e.lastAnswer) ∧ ((s.unitAt u).state ≠ UnitState.absent) :=
  ⟨withExchange desk (.poll 1), asked (.poll 1), 1, by decide⟩

theorem witness_FailedPollHaltsPolling :
    (∃ (s : State) (e : Exchange) (u : ℕ) (c : Instr) (err : ErrorDetail), (s.LoneExchange e) ∧ (e.request = ChainRequest.poll u) ∧
      (u < s.chain.units.length) ∧ (c = Instr.answerStartTimeout ∧ e.begun = false ∧
      err = ErrorDetail.chainNoAnswer ExchangeKind.poll (some u) ∨ c = Instr.answerEndTimeout ∧ e.begun = true ∧
      err = ErrorDetail.chainStuck ExchangeKind.poll (some u))) ∧
    (∃ (s : State) (e : Exchange) (u : ℕ) (c : Instr) (err : ErrorDetail), (s.LoneExchange e) ∧ (e.request = ChainRequest.poll u) ∧
      (u < s.chain.units.length) ∧ (c = Instr.answerStartTimeout ∧ e.begun = false ∧
      err = ErrorDetail.chainNoAnswer ExchangeKind.poll (some u) ∨ c = Instr.answerEndTimeout ∧ e.begun = true ∧
      err = ErrorDetail.chainStuck ExchangeKind.poll (some u))) :=
  ⟨⟨withExchange desk (.poll 1), asked (.poll 1), 1, .answerStartTimeout, .chainNoAnswer .poll (some 1), by decide⟩,
   ⟨onChain (begun 5), begun 5, 5, .answerEndTimeout, .chainStuck .poll (some 5), by decide⟩⟩

theorem witness_PollingPointPollsTheNextUnit :
    (∃ (s : State) (k : ℕ), (s.chain.discovery = none) ∧ (k < 64) ∧ s.ChainIdle ∧ (s.chain.polling = true) ∧
      ((s.unitAt ((s.chain.pollPointer + 1 + k) % 64)).state ≠ UnitState.absent) ∧ (∀ i < k,
      (s.unitAt ((s.chain.pollPointer + 1 + i) % 64)).state = UnitState.absent)) ∧
    (∃ (s : State), (s.chain.discovery = none) ∧ (s.chain.polling = false ∨ s.pollPending = true)) :=
  ⟨⟨oneUnit, 63, by decide⟩,
   ⟨halted, by decide⟩⟩

theorem witness_AcknowledgedRequestBeginsItsSettle :
    (∃ (s : State) (e : Exchange) (o : ChainOp), (s.LoneExchange e) ∧ (s.time.now ≤ e.lastAnswer) ∧ (s.opOf o.pair = some o) ∧
      (e.request = ChainRequest.operate o.pair) ∧ (o.abandoned = false)) ∧
    (∃ (s : State) (e : Exchange) (o : ChainOp), (s.LoneExchange e) ∧ (s.time.now ≤ e.lastAnswer) ∧ (s.opOf o.pair = some o) ∧
      (e.request = ChainRequest.release o.pair)) :=
  ⟨⟨withOp (withExchange desk (.operate pair)) (opIn .connect 1 .acting), asked (.operate pair), opIn .connect 1 .acting, by decide⟩,
   ⟨withOp (withExchange desk (.release pair)) (opIn .release 1 .acting), asked (.release pair), opIn .release 1 .acting, by decide⟩⟩

theorem witness_Acknowledged_abandoned :
    ∀ id ∈ [SlotId.active, .staged], ∃ (s : State) (e : Exchange) (o : ChainOp) (j : Job), s.LoneExchange e ∧ s.time.now ≤ e.lastAnswer ∧
      s.opOf o.pair = some o ∧ e.request = .operate o.pair ∧ o.abandoned = true ∧ s.slotOf o.pair = some id ∧ s.slot id = .job j ∧
      j.phase = .releasing ∧ j.nothingOperated = false := by
  intro id h
  refine ⟨operateAbandoned id, asked (.operate pair), abandonedOp 1 .acting, jobOf [] .releasing 1, ?_⟩
  fin_cases h <;> decide

theorem witness_SettleEndAsksForTheReadback :
    (∃ (s : State) (before : List ChainOp) (after : List ChainOp) (o : ChainOp) (t : ℕ) (c : Instr), (s.chain.ops = before ++ o :: after) ∧
      (o.stage = OpStage.settling t) ∧ ((c = Instr.connectSettleEnd ∧ o.kind = OpKind.connect ∧ ∀ x ∈ before,
      x.kind ≠ OpKind.connect) ∨ c = Instr.releaseSettleEnd o.pair.bus ∧ o.pair.bus < 4 ∧ o.kind ≠ OpKind.connect ∧ ∀ x ∈ before,
      x.kind = OpKind.connect ∨ x.pair.bus ≠ o.pair.bus) ∧ s.ChainIdle) ∧
    (∃ (s : State) (before : List ChainOp) (after : List ChainOp) (o : ChainOp) (t : ℕ) (c : Instr), (s.chain.ops = before ++ o :: after) ∧
      (o.stage = OpStage.settling t) ∧ ((c = Instr.connectSettleEnd ∧ o.kind = OpKind.connect ∧ ∀ x ∈ before,
      x.kind ≠ OpKind.connect) ∨ c = Instr.releaseSettleEnd o.pair.bus ∧ o.pair.bus < 4 ∧ o.kind ≠ OpKind.connect ∧ ∀ x ∈ before,
      x.kind = OpKind.connect ∨ x.pair.bus ≠ o.pair.bus) ∧ (s.chain.exchange.isSome = true)) :=
  ⟨⟨withOp desk (opIn .connect 1 (.settling 33000)), [], [], opIn .connect 1 (.settling 33000), 33000, .connectSettleEnd, by decide⟩,
   ⟨withOp (withExchange desk (.poll 0)) (opIn .release 1 (.settling 33000)), [], [], opIn .release 1 (.settling 33000), 33000,
     .releaseSettleEnd 1, by decide⟩⟩

theorem witness_ReadbackDecidesTheConnect :
    (∃ (s : State) (e : Exchange) (o : ChainOp) (j : Job) (c : OwnClaim) (a : ChainAnswer), (s.Reading e o j c) ∧ (o.kind = OpKind.connect) ∧
      (o.abandoned = false) ∧ (j.phase = Phase.connecting) ∧ (c.state = ClaimState.held) ∧ (s.head.state = HeadState.offBus) ∧
      (unitOf o.pair.line < s.chain.units.length) ∧ (o.pair.bus < s.claims.entries.length) ∧ (∃ b < 4, b ≠ o.pair.bus ∧ a.buses.getLsbD b = true)) ∧
    (∃ (s : State) (e : Exchange) (o : ChainOp) (j : Job) (c : OwnClaim) (a : ChainAnswer), (s.Reading e o j c) ∧ (o.kind = OpKind.connect) ∧
      (o.abandoned = false) ∧ (j.phase = Phase.connecting) ∧ (c.state = ClaimState.held) ∧ (s.head.state = HeadState.offBus) ∧
      (unitOf o.pair.line < s.chain.units.length) ∧ (o.pair.bus < s.claims.entries.length) ∧ (∀ b < 4, a.buses.getLsbD b = true ↔ b = o.pair.bus) ∧
      (o.pair.bus < 4)) ∧
    (∃ (s : State) (e : Exchange) (o : ChainOp) (j : Job) (c : OwnClaim) (a : ChainAnswer), (s.Reading e o j c) ∧ (o.kind = OpKind.connect) ∧
      (o.abandoned = false) ∧ (j.phase = Phase.connecting) ∧ (c.state = ClaimState.held) ∧ (s.head.state = HeadState.offBus) ∧
      (unitOf o.pair.line < s.chain.units.length) ∧ (o.pair.bus < s.claims.entries.length) ∧ (∀ b < 4, a.buses.getLsbD b = false) ∧
      (o.attempt = 1)) ∧
    (∃ (s : State) (e : Exchange) (o : ChainOp) (j : Job) (c : OwnClaim) (a : ChainAnswer) (n : ℕ), (s.Reading e o j c) ∧
      (o.kind = OpKind.connect) ∧ (o.abandoned = false) ∧ (j.phase = Phase.connecting) ∧ (c.state = ClaimState.held) ∧
      (s.head.state = HeadState.offBus) ∧ (unitOf o.pair.line < s.chain.units.length) ∧ (o.pair.bus < s.claims.entries.length) ∧ (∀ b < 4,
      a.buses.getLsbD b = false) ∧ (o.attempt = 2) ∧ (n = min 3 ((s.unitAt (unitOf o.pair.line)).faults + 1))) :=
  ⟨⟨readingLine .connect 1 .connecting .held, asked (.readLine pair), opIn .connect 1 .reading, jobOf [] .connecting 1, claimIn .held .demand,
    answer 3, ⟨by decide, by decide, by decide, by decide, by decide, by decide, by decide, by decide, by decide, by decide, by decide⟩, by decide,
    by decide, by decide, by decide, by decide, by decide, by decide, by decide⟩,
   ⟨readingLine .connect 1 .connecting .held, asked (.readLine pair), opIn .connect 1 .reading, jobOf [] .connecting 1, claimIn .held .demand,
     answer 2, ⟨by decide, by decide, by decide, by decide, by decide, by decide, by decide, by decide, by decide, by decide, by decide⟩,
     by decide, by decide, by decide, by decide, by decide, by decide, by decide, by decide, by decide⟩,
   ⟨readingLine .connect 1 .connecting .held, asked (.readLine pair), opIn .connect 1 .reading, jobOf [] .connecting 1, claimIn .held .demand,
     answer 0, ⟨by decide, by decide, by decide, by decide, by decide, by decide, by decide, by decide, by decide, by decide, by decide⟩,
     by decide, by decide, by decide, by decide, by decide, by decide, by decide, by decide, by decide⟩,
   ⟨readingLine .connect 2 .connecting .held, asked (.readLine pair), opIn .connect 2 .reading, jobOf [] .connecting 1, claimIn .held .demand,
     answer 0, 1, ⟨by decide, by decide, by decide, by decide, by decide, by decide, by decide, by decide, by decide, by decide, by decide⟩,
     by decide, by decide, by decide, by decide, by decide, by decide, by decide, by decide, by decide, by decide⟩⟩

theorem witness_ReadbackDecidesTheConnect_abandoned :
    ∀ n ∈ [1, 2], ∃ (s : State) (e : Exchange) (o : ChainOp) (j : Job) (c : OwnClaim), s.Reading e o j c ∧ o.kind = .connect ∧
      o.abandoned = true ∧ j.phase = .releasing ∧ unitOf o.pair.line < s.chain.units.length ∧ o.pair.bus < 4 ∧ o.attempt = n := by
  intro n h
  refine ⟨readAbandoned n, asked (.readLine pair), abandonedOp n .reading, jobOf [] .releasing 1, claimIn .releasing .demand, ?_⟩
  fin_cases h <;> exact ⟨by constructor <;> decide, by decide⟩

theorem witness_ReadbackDecidesTheRelease :
    (∃ (s : State) (e : Exchange) (o : ChainOp) (j : Job) (c : OwnClaim) (a : ChainAnswer), (s.Reading e o j c) ∧ (o.kind = OpKind.release) ∧
      (s.claims.station = StationState.active) ∧ (s.claims.opening = none) ∧ (j.sweep = none) ∧ (s.seq.staged = Slot.empty) ∧
      (s.seq.completions.length < 16) ∧ (c.awaited = []) ∧ (o.pair.bus < s.claims.entries.length) ∧ (a.buses.getLsbD o.pair.bus = true) ∧
      (o.attempt = 1)) ∧
    (∃ (s : State) (e : Exchange) (o : ChainOp) (j : Job) (c : OwnClaim) (a : ChainAnswer), (s.Reading e o j c) ∧ (o.kind = OpKind.release) ∧
      (s.claims.station = StationState.active) ∧ (s.claims.opening = none) ∧ (j.sweep = none) ∧ (s.seq.staged = Slot.empty) ∧
      (s.seq.completions.length < 16) ∧ (c.awaited = []) ∧ (o.pair.bus < s.claims.entries.length) ∧ (a.buses.getLsbD o.pair.bus = true) ∧
      (o.attempt = 2)) ∧
    (∃ (s : State) (e : Exchange) (o : ChainOp) (j : Job) (c : OwnClaim) (a : ChainAnswer), (s.Reading e o j c) ∧ (o.kind = OpKind.release) ∧
      (s.claims.station = StationState.active) ∧ (s.claims.opening = none) ∧ (j.sweep = none) ∧ (s.seq.staged = Slot.empty) ∧
      (s.seq.completions.length < 16) ∧ (c.awaited = []) ∧ (o.pair.bus < s.claims.entries.length) ∧ (a.buses.getLsbD o.pair.bus = false)) :=
  ⟨⟨readingLine .release 1 .releasing .releasing, asked (.readLine pair), opIn .release 1 .reading, jobOf [] .releasing 1,
    claimIn .releasing .demand, answer 2, ⟨by decide, by decide, by decide, by decide, by decide, by decide, by decide, by decide, by decide,
    by decide, by decide⟩, by decide, by decide, by decide, by decide, by decide, by decide, by decide, by decide, by decide, by decide⟩,
   ⟨readingLine .release 2 .releasing .releasing, asked (.readLine pair), opIn .release 2 .reading, jobOf [] .releasing 1,
     claimIn .releasing .demand, answer 2, ⟨by decide, by decide, by decide, by decide, by decide, by decide, by decide, by decide, by decide,
     by decide, by decide⟩, by decide, by decide, by decide, by decide, by decide, by decide, by decide, by decide, by decide, by decide⟩,
   ⟨readingLine .release 1 .releasing .releasing, asked (.readLine pair), opIn .release 1 .reading, jobOf [] .releasing 1,
     claimIn .releasing .demand, answer 1, ⟨by decide, by decide, by decide, by decide, by decide, by decide, by decide, by decide, by decide,
     by decide, by decide⟩, by decide, by decide, by decide, by decide, by decide, by decide, by decide, by decide, by decide⟩⟩

/-- What every clause on a request without an answer asks. -/
abbrev Unheard (s : State) (e : Exchange) (o : ChainOp) (k : ExchangeKind) (r : ChainRequest) (cmd : Instr) (err : ErrorDetail) : Prop :=
  e.request = r ∧ unitOf o.pair.line < s.chain.units.length ∧ EndsUnanswered e k (unitOf o.pair.line) cmd err

theorem witness_ReadbackDecidesTheConnect_unanswered :
    (∃ s e o j c cmd err, s.OnChain e o j c ∧ Unheard s e o .operate (.operate o.pair) cmd err ∧ o.kind = .connect ∧ j.phase = .connecting ∧
      c.state = .held ∧ s.head.state = .offBus) ∧
    (∃ s e o j c cmd err, s.OnChain e o j c ∧ Unheard s e o .readLine (.readLine o.pair) cmd err ∧ o.kind = .connect ∧ o.attempt = 2 ∧
      j.phase = .connecting ∧ c.state = .held ∧ s.head.state = .offBus) ∧
    (∃ s e o j c cmd err, s.OnChain e o j c ∧ Unheard s e o .operate (.operate o.pair) cmd err ∧ o.kind = .connect ∧ j.phase = .releasing) :=
  ⟨⟨unheard (.operate pair) false (opIn .connect 1 .acting) .connecting .held, asked (.operate pair), opIn .connect 1 .acting,
      jobOf [] .connecting 1, claimIn .held .demand, .answerStartTimeout, .chainNoAnswer .operate (some 0),
      ⟨by decide, by decide, by decide, by decide, by decide, by decide, by decide⟩, by decide⟩,
   ⟨unheard (.readLine pair) true (opIn .connect 2 .reading) .connecting .held, { asked (.readLine pair) with begun := true },
      opIn .connect 2 .reading, jobOf [] .connecting 1, claimIn .held .demand, .answerEndTimeout, .chainStuck .readLine (some 0),
      ⟨by decide, by decide, by decide, by decide, by decide, by decide, by decide⟩, by decide⟩,
   ⟨unheard (.operate pair) true { opIn .connect 1 .acting with abandoned := true } .releasing .releasing,
      { asked (.operate pair) with begun := true }, { opIn .connect 1 .acting with abandoned := true }, jobOf [] .releasing 1,
      claimIn .releasing .demand, .answerEndTimeout, .chainStuck .operate (some 0),
      ⟨by decide, by decide, by decide, by decide, by decide, by decide, by decide⟩, by decide⟩⟩

theorem witness_ReadbackDecidesTheRelease_unanswered :
    (∃ s e o j c cmd err, s.OnChain e o j c ∧ Unheard s e o .release (.release o.pair) cmd err ∧ o.kind = .release ∧ o.attempt = 1 ∧
      s.claims.station ≠ .resetting ∧ j.sweep = none ∧ s.seq.staged = .empty) ∧
    (∃ s e o j c cmd err, s.OnChain e o j c ∧ Unheard s e o .readLine (.readLine o.pair) cmd err ∧ o.kind = .release ∧ o.attempt = 2 ∧
      s.claims.station ≠ .resetting ∧ j.sweep = none ∧ s.seq.staged = .empty) :=
  ⟨⟨unheard (.release pair) false (opIn .release 1 .acting) .releasing .releasing, asked (.release pair), opIn .release 1 .acting,
      jobOf [] .releasing 1, claimIn .releasing .demand, .answerStartTimeout, .chainNoAnswer .release (some 0),
      ⟨by decide, by decide, by decide, by decide, by decide, by decide, by decide⟩, by decide⟩,
   ⟨unheard (.readLine pair) true (opIn .release 2 .reading) .releasing .releasing, { asked (.readLine pair) with begun := true },
      opIn .release 2 .reading, jobOf [] .releasing 1, claimIn .releasing .demand, .answerEndTimeout, .chainStuck .readLine (some 0),
      ⟨by decide, by decide, by decide, by decide, by decide, by decide, by decide⟩, by decide⟩⟩

theorem witness_StuckClaim_unanswered :
    ∃ (s : State) (b : Nat) (c : OwnClaim) (e : Exchange) (o : ChainOp) (cmd : Instr) (err : ErrorDetail), b < s.claims.entries.length ∧
      s.entryAt b = .own c ∧ c.state = .stuck ∧ s.LoneExchange e ∧ s.chain.ops = [o] ∧ o.pair = { bus := b, line := c.line } ∧
      o.kind = .retry ∧ Unheard s e o .release (.release o.pair) cmd err :=
  ⟨withOp (withExchange (withClaim desk (claimIn .stuck .demand)) (.release pair)) (opIn .retry 1 .acting), 1, claimIn .stuck .demand,
    asked (.release pair), opIn .retry 1 .acting, .answerStartTimeout, .chainNoAnswer .release (some 0), by decide⟩

theorem witness_StuckClaimIsRetriedEveryFiveSeconds :
    (∃ (s : State) (b : ℕ) (c : OwnClaim), (b < 4) ∧ (b < s.claims.entries.length) ∧ (s.entryAt b = Entry.own c) ∧ (c.state = ClaimState.stuck) ∧
      (c.awaited = []) ∧ (s.claims.opening = none) ∧ s.ChainIdle ∧ (s.chain.ops = [])) ∧
    (∃ (s : State) (b : ℕ) (c : OwnClaim) (e : Exchange) (o : ChainOp) (a : ChainAnswer), (b < 4) ∧ (b < s.claims.entries.length) ∧
      (s.entryAt b = Entry.own c) ∧ (c.state = ClaimState.stuck) ∧ (c.awaited = []) ∧ (s.claims.opening = none) ∧ (s.LoneExchange e) ∧
      (e.request = ChainRequest.readLine { bus := b, line := c.line }) ∧ (s.time.now ≤ e.lastAnswer) ∧ (s.chain.ops = [o]) ∧
      (o.pair = { bus := b, line := c.line }) ∧ (o.kind = OpKind.retry) ∧ (s.slotOf { bus := b, line := c.line } = none) ∧
      (a.buses.getLsbD b = true)) ∧
    (∃ (s : State) (b : ℕ) (c : OwnClaim) (e : Exchange) (o : ChainOp) (a : ChainAnswer), (b < 4) ∧ (b < s.claims.entries.length) ∧
      (s.entryAt b = Entry.own c) ∧ (c.state = ClaimState.stuck) ∧ (c.awaited = []) ∧ (s.claims.opening = none) ∧ (s.LoneExchange e) ∧
      (e.request = ChainRequest.readLine { bus := b, line := c.line }) ∧ (s.time.now ≤ e.lastAnswer) ∧ (s.chain.ops = [o]) ∧
      (o.pair = { bus := b, line := c.line }) ∧ (o.kind = OpKind.retry) ∧ (s.slotOf { bus := b, line := c.line } = none) ∧
      (a.buses.getLsbD b = false)) :=
  ⟨⟨withClaim desk (claimIn .stuck .demand), 1, claimIn .stuck .demand, by decide⟩,
   ⟨retrying, 1, claimIn .stuck .demand, asked (.readLine pair), opIn .retry 1 .reading, answer 2, by decide⟩,
   ⟨retrying, 1, claimIn .stuck .demand, asked (.readLine pair), opIn .retry 1 .reading, answer 0, by decide⟩⟩

theorem witness_DiscoveryPollsEveryUnit :
    (∀ again, ∃ (s : State) (e : Exchange), s.chain.exchange = some e ∧ e.request = .chainClear ∧
      s.chain.discovery = some (.clearing again) ∧ s.time.now ≤ e.lastAnswer ∧ e.begun = false) ∧
    (∀ again, ∃ (s : State) (e : Exchange), s.chain.exchange = some e ∧ e.request = .chainClear ∧
      s.chain.discovery = some (.clearing again) ∧ e.begun = true) ∧
    (∃ (s : State) (e : Exchange) (u : Nat), s.chain.exchange = some e ∧ e.request = .poll u ∧ s.chain.discovery = some (.polling u) ∧
      u < 63 ∧ s.chain.units.length = 64 ∧ e.begun = false ∧ s.time.now ≤ e.lastAnswer) ∧
    (∃ (s : State) (e : Exchange) (u : Nat), s.chain.exchange = some e ∧ e.request = .poll u ∧ s.chain.discovery = some (.polling u) ∧
      u < 63 ∧ s.chain.units.length = 64 ∧ e.begun = true) ∧
    (∃ (s : State) (e : Exchange), s.chain.exchange = some e ∧ e.request = .poll 63 ∧ s.chain.discovery = some (.polling 63) ∧
      s.chain.units.length = 64 ∧ e.begun = false ∧ s.claims.clashMark = none) ∧
    (∃ (s : State) (e : Exchange) (k : NoticeKind), s.chain.exchange = some e ∧ e.request = .poll 63 ∧
      s.chain.discovery = some (.polling 63) ∧ s.chain.units.length = 64 ∧ e.begun = true ∧ s.claims.clashMark = some k ∧
      s.seq.queue = [] ∧ s.accessSlot = none ∧ s.claims.opening = none ∧ s.line.flight = none) :=
  ⟨fun again => ⟨chainClearing again clearAsked, clearAsked, by cases again <;> decide⟩,
   fun again => ⟨chainClearing again { clearAsked with begun := true }, _, rfl, rfl, rfl, rfl⟩,
   ⟨discovery 62, asked (.poll 62), 62, by decide⟩,
   ⟨stuckDiscovery 0, begun 0, 0, by decide⟩,
   ⟨discovery 63, asked (.poll 63), by decide⟩,
   ⟨stuckDiscovery 63, begun 63, .hold, by decide⟩⟩

theorem witness_NoticesReadBack :
    (∃ (station : ℕ) (n : Notice), (station ≤ 15) ∧ (n.InRange station)) ∧
    (∃ (station : ℕ) (n : Notice), (station ≤ 15) ∧ (n.InRange station)) :=
  ⟨⟨15, .ticket 65535 16383 .closed .clear, by decide, by simp [Notice.InRange]⟩,
   ⟨0, .hold .priority { bus := 3, line := 16383 } true, by decide, by simp [Notice.InRange]⟩⟩

theorem witness_TryBeginsAfterItsQuietTime :
    (∃ (s : State) (f : Flight) (c : Instr) (symbols : ℕ), (s.line.flight = some f) ∧ (c = Instr.quietWaitEnd ∧ f.phase = TryPhase.waitQuiet ∧
      symbols = 16 ∨ c = Instr.backoffEnd ∧ f.phase = TryPhase.backoff ∧ symbols = (s.straps.station + 1) * 16 + (f.collisions - 1) * 256) ∧
      (s.line.busy = false) ∧ (c = Instr.backoffEnd ∨ s.claims.station ≠ StationState.starting ∧ s.claims.station ≠ StationState.discovering)) ∧
    (∃ (s : State) (f : Flight) (c : Instr) (symbols : ℕ), (s.line.flight = some f) ∧ (c = Instr.quietWaitEnd ∧ f.phase = TryPhase.waitQuiet ∧
      symbols = 16 ∨ c = Instr.backoffEnd ∧ f.phase = TryPhase.backoff ∧ symbols = (s.straps.station + 1) * 16 + (f.collisions - 1) * 256) ∧
      (s.line.busy = false) ∧ (c = Instr.backoffEnd ∨ s.claims.station ≠ StationState.starting ∧ s.claims.station ≠ StationState.discovering)) ∧
    (∃ (s : State) (f : Flight) (c : Instr) (symbols : ℕ), (s.line.flight = some f) ∧ (c = Instr.quietWaitEnd ∧ f.phase = TryPhase.waitQuiet ∧
      symbols = 16 ∨ c = Instr.backoffEnd ∧ f.phase = TryPhase.backoff ∧ symbols = (s.straps.station + 1) * 16 + (f.collisions - 1) * 256) ∧
      (s.line.busy = true ∨ c = Instr.quietWaitEnd ∧ s.claims.station = StationState.starting)) :=
  ⟨⟨withFlight desk (flying .announce .waitQuiet 0), flying .announce .waitQuiet 0, .quietWaitEnd, 16, by decide⟩,
   ⟨withFlight desk (flying .announce .backoff 7), flying .announce .backoff 7, .backoffEnd, 1584, by decide⟩,
   ⟨withFlight (stationIn .starting) (flying .announce .waitQuiet 0), flying .announce .waitQuiet 0, .quietWaitEnd, 16, by decide⟩⟩

theorem witness_CollisionBacksOffOrDrops :
    (∃ (s : State) (f : Flight) (since : Nat), s.line.flight = some f ∧ f.phase = .trying since ∧ f.withdrawn = false ∧
      f.collisions < 7) ∧
    (∃ (s : State) (f : Flight) (since : Nat), s.line.flight = some f ∧ f.phase = .trying since ∧ s.line.Empty ∧
      (∀ u p, f.tx.notice ≠ .claim u p) ∧ f.tx.notice ≠ .announce ∧ f.withdrawn = false ∧ 7 ≤ f.collisions) ∧
    (∃ (s : State) (f : Flight) (since : Nat), s.line.flight = some f ∧ f.phase = .trying since ∧ s.line.Empty ∧
      (∀ u p, f.tx.notice ≠ .claim u p) ∧ f.tx.notice ≠ .announce ∧ f.withdrawn = true) ∧
    (∃ (s : State) (f : Flight) (since : Nat), s.line.flight = some f ∧ f.phase = .trying since ∧ s.line.Empty ∧
      f.tx.notice = .announce ∧ f.tx.tag = .joining ∧ s.claims.station = .joining ∧ f.withdrawn = false ∧ 7 ≤ f.collisions) ∧
    (∃ (s : State) (f : Flight) (since : Nat) (p : Pair), s.line.flight = some f ∧ f.phase = .trying since ∧ s.line.Empty ∧
      f.tx.notice = .claim .demand p ∧ f.withdrawn = true ∧ s.entryAt p.bus = .free) ∧
    (∃ (s : State) (f : Flight) (since : Nat) (p : Pair) (c : OwnClaim), s.line.flight = some f ∧ f.phase = .trying since ∧
      s.line.Empty ∧ f.tx.notice = .claim .demand p ∧ f.withdrawn = true ∧ s.entryAt p.bus = .own c ∧ c.withdrawn = true ∧
      c.line = p.line ∧ s.claims.opening = none) ∧
    (∃ (s : State) (f : Flight) (since : Nat) (p : Pair) (c : OwnClaim) (o : Opening), s.line.flight = some f ∧
      f.phase = .trying since ∧ s.line.Empty ∧ f.tx.notice = .claim .demand p ∧ f.withdrawn = false ∧ 7 ≤ f.collisions ∧
      s.entryAt p.bus = .own c ∧ s.claims.opening = some o ∧ o.placed = some p.bus ∧ o.urgency = .demand) ∧
    (∃ (s : State) (f : Flight) (since : Nat) (p : Pair) (c : OwnClaim) (o : Opening) (j : Job) (info : SweepInfo) (d : Nat),
      s.line.flight = some f ∧ f.phase = .trying since ∧ s.line.Empty ∧ f.tx.notice = .claim .routine p ∧ f.withdrawn = false ∧
      7 ≤ f.collisions ∧ s.entryAt p.bus = .own c ∧ s.claims.opening = some o ∧ o.placed = some p.bus ∧ o.urgency = .routine ∧
      SweepInAccess s j info d) :=
  ⟨⟨withFlight desk (flying releaseNotice (.trying 31900) 6), flying releaseNotice (.trying 31900) 6, 31900, by decide⟩,
   ⟨withFlight desk (flying releaseNotice (.trying 31900) 7), flying releaseNotice (.trying 31900) 7, 31900, by decide, by decide, by decide,
     by rintro _ _ ⟨⟩, by decide, by decide, by decide⟩,
   ⟨withFlight desk tooLate, tooLate, 31900, by decide, by decide, by decide, by rintro _ _ ⟨⟩, by decide, by decide⟩,
   ⟨withFlight (stationIn .joining) { joinFlight with collisions := 7 }, { joinFlight with collisions := 7 }, 31900, by decide⟩,
   ⟨withFlight desk lateClaim, lateClaim, 31900, pair, by decide⟩,
   ⟨withFlight (withClaim desk { sending .demand with withdrawn := true }) lateClaim, lateClaim, 31900, pair, _, by decide, by decide,
     by decide, by decide, by decide, rfl, by decide, by decide, by decide⟩,
   ⟨claiming .demand (flying (claimNotice .demand) (.trying 31900) 7), _, 31900, pair, sending .demand, opening, rfl, by decide⟩,
   ⟨sweepClaiming (flying (claimNotice .routine) (.trying 31900) 7), _, 31900, pair, sending .routine, { opening with urgency := .routine },
     sweepAccess, sweepInfo false, 200, rfl, by decide, by decide, by decide, by decide, by decide, by decide, by decide, by decide,
     by decide, by constructor <;> decide⟩⟩

/-- What every clause of SentNoticeTellsItsSource asks. -/
abbrev Trying (s : State) (f : Flight) (since : Nat) : Prop :=
  s.line.flight = some f ∧ f.phase = .trying since ∧ s.line.heldClaims = [] ∧ s.line.heldVerdicts = [] ∧ s.line.heldTickets = []

theorem witness_SentNoticeTellsItsSource :
    (∃ s f since, Trying s f since ∧ (∀ u p, f.tx.notice ≠ .claim u p) ∧ f.tx.notice ≠ .announce) ∧
    (∃ s f since, Trying s f since ∧ f.tx.notice = .announce ∧ f.tx.tag = .joining ∧ s.claims.station = .joining) ∧
    (∃ s f since u p, Trying s f since ∧ f.tx.notice = .claim u p ∧ f.withdrawn = true ∧ s.entryAt p.bus = .free) ∧
    (∀ tag ∈ [TxTag.plain, .ofReset], ∃ s f since u p c, Trying s f since ∧ f.tx.notice = .claim u p ∧ f.withdrawn = true ∧
      s.entryAt p.bus = .own c ∧ c.withdrawn = true ∧ c.line = p.line ∧ s.claims.opening = none ∧ s.line.queue.length < 16 ∧
      f.tx.tag = tag ∧ s.claims.station = .resetting) ∧
    (∃ s f since u p c o, Trying s f since ∧ f.tx.notice = .claim u p ∧ f.withdrawn = false ∧ s.entryAt p.bus = .own c ∧ c.line = p.line ∧
      c.state = .sending ∧ s.claims.opening = some o ∧ o.placed = some p.bus) :=
  ⟨⟨withFlight desk (flying releaseNotice (.trying 31900) 0), flying releaseNotice (.trying 31900) 0, 31900, by decide, by rintro _ _ ⟨⟩, by decide⟩,
   ⟨withFlight (stationIn .joining) joinFlight, joinFlight, 31900, by decide⟩,
   ⟨withFlight desk lateClaim, lateClaim, 31900, .demand, pair, by decide⟩,
   fun tag h =>
     ⟨withFlight (withClaim resetting { sending .demand with withdrawn := true }) { lateClaim with tx := { lateClaim.tx with tag := tag } },
       { lateClaim with tx := { lateClaim.tx with tag := tag } }, 31900, .demand, pair, { sending .demand with withdrawn := true },
       by fin_cases h <;> decide⟩,
   ⟨withFlight (making (claimIn .sending .demand)) (flying (.claim .demand pair) (.trying 31900) 0),
     flying (.claim .demand pair) (.trying 31900) 0, 31900, .demand, pair, claimIn .sending .demand, opening, by decide⟩⟩

theorem witness_ReceptionsBadNoticesAndClashes :
    (∃ (s : State), (s.line.busy = false) ∧ s.onLine = false ∧ s.line.endedAt + 80 ≤ s.time.now) ∧
    (∃ (s : State), (s.line.busy = true) ∧ s.onLine = false) ∧
    (∃ (s : State), s.onLine = true) ∧
    (∃ (s : State) (bytes : List Byte), (bytes.length = 10) ∧ s.Hears ∧ s.NothingToGrant ∧ (checkAgrees bytes = false)) ∧
    (∃ (s : State) (bytes : List Byte), (bytes.length = 10) ∧ s.Hears ∧ s.NothingToGrant ∧ (checkAgrees bytes = true) ∧ (readNotice bytes = none)) ∧
    (∃ (s : State) (bytes : List Byte) (n : Notice), (bytes.length = 10) ∧ s.Hears ∧ s.NothingToGrant ∧ (checkAgrees bytes = true) ∧
      (readNotice bytes = some n) ∧ (sourceOf bytes = s.straps.station) ∧ (s.claims.station = StationState.isolated)) ∧
    (∃ (s : State) (bytes : List Byte) (n : Notice), (bytes.length = 10) ∧ s.Hears ∧ s.NothingToGrant ∧ (checkAgrees bytes = true) ∧
      (readNotice bytes = some n) ∧ (sourceOf bytes = s.straps.station) ∧ (s.claims.station = StationState.resetting) ∧
      (s.claims.clashMark = none)) ∧
    (∃ (s : State) (bytes : List Byte) (n : Notice), (bytes.length = 10) ∧ s.Hears ∧ s.NothingToGrant ∧ (checkAgrees bytes = true) ∧
      (readNotice bytes = some n) ∧ (sourceOf bytes = s.straps.station) ∧
      (s.claims.station = StationState.starting ∨ s.claims.station = StationState.joining ∨ s.claims.station = StationState.active) ∧
      (s.seq.queue.map (fun q => q.order.tag)).Nodup ∧ s.accessSlot = none ∧ s.claims.opening = none ∧ s.seq.queue.length = 3) :=
  ⟨⟨desk, by decide +kernel⟩,
   ⟨heard desk, by decide +kernel⟩,
   ⟨withFlight desk joinFlight, by decide +kernel⟩,
   ⟨heard desk, List.replicate 10 0, by decide +kernel⟩,
   ⟨heard desk, badKind, by decide +kernel⟩,
   ⟨heard (stationIn .isolated), noticeBytes 2 releaseNotice, releaseNotice, by decide +kernel⟩,
   ⟨heard (stationIn .resetting), noticeBytes 2 releaseNotice, releaseNotice, by decide +kernel⟩,
   ⟨heard (ordered [waitingOrder 8, endedOrder 3 0, waitingOrder 9]), noticeBytes 2 releaseNotice, releaseNotice, by decide +kernel⟩⟩

/-- The CLAIM of the claim in the making has its try on the line, in a station of the given state. -/
def claimOnLine (st : StationState) : State :=
  let s := claiming .demand (flying (claimNotice .demand) (.trying 31900) 0)
  s.setClaims { s.claims with station := st }

/-- The CLAIM of the claim in the making waits out its backoff on a quiet line, ahead of two queued notices. -/
def claimBacksOff : State :=
  let s := claiming .demand (flying (claimNotice .demand) .backoff 3)
  s.setLine { s.line with queue := [verdictTx, ticketTx] }

/-- What becomes of a claim in the making that ends before it is HELD: each of its cases. -/
theorem witness_ClaimEndsUnheld :
    (∃ x w o, ClaimEndsUnheld x w ∧ x.claims.opening = some o ∧ o.placed = none) ∧
    (∃ x w, ClaimEndsUnheld x w ∧ x.line.queue.any Tx.isClaim = true ∧ (w.entryAt 1).own? = none) ∧
    (∃ x w, ClaimEndsUnheld x w ∧ x.line.queue = [] ∧ w.line.flight = none ∧ x.line.flight.isSome = true) ∧
    (∃ x w, ClaimEndsUnheld x w ∧ SendsNow x ∧
      w.line.flight = some { tx := verdictTx, collisions := 0, phase := .trying x.time.now, withdrawn := false }) ∧
    (∀ st ∈ [StationState.active, .resetting], ∃ x w c, ClaimEndsUnheld x w ∧ w.entryAt 1 = .own c ∧ c.withdrawn = true ∧
      x.onLine = true ∧ x.claims.station = st ∧ (w.line.flight.map (·.tx.tag) = some .ofReset ↔ st = .resetting)) ∧
    (∃ x w, ClaimEndsUnheld x w ∧ w.line.queue.length = x.line.queue.length + 1) :=
  ⟨⟨waitingClaim, _, _, .inr ⟨_, rfl, .inl ⟨rfl, rfl⟩⟩, rfl, rfl⟩,
   ⟨sendingHears (making (sending .demand)) .demand, _,
     .inr ⟨_, rfl, .inr ⟨1, _, rfl, rfl, .inl ⟨rfl,
       _, ⟨rfl, rfl, rfl, .inl ⟨[verdictTx], claimTx .demand, [ticketTx], rfl, rfl, rfl,
         by simp [verdictTx, ticketTx, Tx.isClaim], rfl⟩⟩, rfl⟩⟩⟩, by decide, by decide⟩,
   ⟨claiming .demand (flying (claimNotice .demand) .backoff 3), _,
     .inr ⟨_, rfl, .inr ⟨1, _, rfl, rfl, .inl ⟨rfl,
       _, ⟨rfl, rfl, rfl, .inr ⟨_, rfl, rfl, rfl, .inr rfl, by decide, .inl ⟨rfl, rfl⟩⟩⟩, rfl⟩⟩⟩, by decide, by decide, by decide⟩,
   ⟨claimBacksOff, _,
     .inr ⟨_, rfl, .inr ⟨1, _, rfl, rfl, .inl ⟨rfl,
       _, ⟨rfl, rfl, rfl, .inr ⟨_, rfl, rfl, rfl, .inr rfl, by decide, .inr ⟨verdictTx, [ticketTx], rfl, rfl⟩⟩⟩, rfl⟩⟩⟩, by decide, by decide⟩,
   fun st h =>
     ⟨claimOnLine st, _, _,
       .inr ⟨_, rfl, .inr ⟨1, _, rfl, rfl, .inr (.inl ⟨rfl, _, 31900, rfl, rfl, rfl, rfl, by rintro _ ⟨⟩, rfl⟩)⟩⟩, rfl, rfl, rfl, rfl,
       by fin_cases h <;> decide⟩,
   ⟨claimsOf .contest, _, contest_ends _ (by decide), by decide⟩⟩

theorem witness_Clashes_job :
    (∃ (s : State) (j : Job) (x w : State), s.Hears ∧ s.seq.active = .job j ∧ j.phase = .access ∧ j.sweep = none ∧ s.seq.staged = .empty ∧
      x = { s.afterNotice.capture (.stationClash .release) with
            claims := { s.claims with station := .isolated, joinUntil := none }
            seq := queueIsolated s.afterNotice } ∧ ClaimEndsUnheld x w) ∧
    (∃ (s : State) (j : Job) (info : SweepInfo), s.Hears ∧ s.seq.active = .job j ∧ j.phase = .access ∧ j.sweep = some info ∧ s.seq.staged = .empty) :=
  ⟨⟨claimsOf .contest, accessJob, _, _, by decide, rfl, rfl, rfl, rfl, rfl, contest_ends _ (by decide)⟩,
   ⟨heard (sweepClaiming (flying (claimNotice .routine) .backoff 3)), sweepAccess, _, by decide, rfl, rfl, rfl, rfl⟩⟩

theorem witness_OfferedNoticesQueueInOrder :
    (∃ (s : State) (tx : Tx), (foldsInto tx s.line.queue = true) ∧ (s.line.flight.isSome = true)) ∧
    (∃ (s : State) (tx : Tx), (foldsInto tx s.line.queue = false) ∧ (s.line.flight.isSome = true) ∧ (s.line.queue.length < 16)) ∧
    (∀ x ∈ [(desk, true), (heard desk, false), (notYetQuiet desk, false), (stationIn .starting, false)],
      x.1.line.flight = none ∧ x.1.line.queue = [] ∧ decide (SendsNow x.1) = x.2) ∧
    (∃ (s : State) (tx : Tx) (l : ℕ) (v : Verdict) (k : ℕ), (16 ≤ s.line.queue.length) ∧ (tx.notice = Notice.verdict l v k)) ∧
    (∃ (s : State) (tx : Tx) (i : ℕ) (l : ℕ) (st : TicketState) (v : Verdict), (16 ≤ s.line.queue.length) ∧ (tx.notice = Notice.ticket i l st v)) ∧
    (∃ (s : State) (tx : Tx) (p : Pair), (16 ≤ s.line.queue.length) ∧ (tx.notice = Notice.release p)) ∧
    (∃ (s : State) (tx : Tx), 16 ≤ s.line.queue.length ∧ foldsInto tx s.line.queue = false ∧ tx.notice = .hold .demand pair false ∧
      foldsInto tx s.line.heldClaims = true) ∧
    (∃ s : State, s.line.flight.isSome = true ∧ s.holders = []) ∧
    (∃ (s : State) (first : Tx) (rest : List Tx), s.line.flight = none ∧ s.line.queue = first :: rest ∧ SendsNow s ∧ s.holders = []) :=
  ⟨⟨queued [renewal], renewal, by decide⟩,
   ⟨queued (fullQueue.take 15), renewal, by decide⟩,
   by decide,
   ⟨queued fullQueue, verdictTx, 600, .clear, 65535, by decide⟩,
   ⟨queued fullQueue, ticketTx, 8193, 600, .opened, .loop, by decide⟩,
   ⟨queued fullQueue, releaseTx, pair, by decide⟩,
   ⟨(queued fullQueue).setLine { (queued fullQueue).line with heldClaims := [renewal] }, renewal, by decide⟩,
   ⟨queued fullQueue, by decide⟩,
   ⟨desk.setLine { desk.line with queue := [verdictTx, ticketTx] }, verdictTx, [ticketTx], by decide⟩⟩

/-- The hypotheses on the queue that an asserting HOLD for the pair of the tests meets. -/
def Meets (s : State) (ahead rest kept : List Tx) : Prop :=
  s.line.queue = ahead ++ rest ∧ (∀ x ∈ ahead, ∃ v q, x.notice = .hold v q true ∧ q ≠ pair) ∧
    (∀ x ∈ rest, ∀ v q, x.notice ≠ .hold v q true) ∧ kept = rest.filter (fun x => !x.holdsPair pair)

/-- A full queue behind an asserting HOLD meets them, whatever its last notice but a HOLD. -/
theorem meets_crowded (s : State) (y : Tx) (hs : s.line.queue = crowded y) (hy : ∀ v q m, y.notice ≠ .hold v q m) :
    Meets s [assertion 2 9] (fullQueue.take 14 ++ [y]) (fullQueue.take 14 ++ [y]) := by
  have hk : y.holdsPair pair = false := by
    unfold Tx.holdsPair
    split
    · rename_i h; exact absurd h (hy _ _ _)
    · rfl
  have hf : ∀ x ∈ fullQueue.take 14, x = verdictTx := by decide
  refine ⟨by rw [hs]; rfl, ?_, ?_, ?_⟩
  · intro x hx; rw [List.mem_singleton.mp hx]; exact ⟨_, _, rfl, by decide⟩
  · intro x hx v q h
    rcases List.mem_append.mp hx with hx | hx
    · rw [hf x hx] at h; cases h
    · rw [List.mem_singleton.mp hx] at h; exact hy _ _ _ h
  · rw [List.filter_append, List.filter_eq_self.mpr (fun x hx => by rw [hf x hx]; rfl)]; simp [hk]

theorem witness_OfferedNotices_asserting :
    (∃ (s : State), ∃ x ∈ s.line.queue, ∃ v, x.notice = .hold v pair true) ∧
    (∃ (s : State) (ahead rest kept : List Tx), Meets s ahead rest kept ∧ (ahead ++ kept).length < 16 ∧ s.line.flight.isSome = true) ∧
    (∃ (s : State) (ahead rest kept mid : List Tx) (y : Tx) (l : Nat) (v : Verdict) (k : Nat), Meets s ahead rest kept ∧
      16 ≤ (ahead ++ kept).length ∧ kept = mid ++ [y] ∧ y.notice = .verdict l v k) ∧
    (∃ (s : State) (ahead rest kept mid : List Tx) (y : Tx) (i l : Nat) (st : TicketState) (v : Verdict), Meets s ahead rest kept ∧
      16 ≤ (ahead ++ kept).length ∧ kept = mid ++ [y] ∧ y.notice = .ticket i l st v) ∧
    (∃ (s : State) (ahead rest kept mid : List Tx) (y : Tx) (q : Pair), Meets s ahead rest kept ∧
      16 ≤ (ahead ++ kept).length ∧ kept = mid ++ [y] ∧ y.notice = .release q) ∧
    (∃ (s : State) (ahead rest kept mid : List Tx) (y : Tx) (q : Pair) (o : Opening) (c : OwnClaim), Meets s ahead rest kept ∧
      16 ≤ (ahead ++ kept).length ∧ kept = mid ++ [y] ∧ y.notice = .claim .demand q ∧ s.claims.opening = some o ∧
      o.placed = some q.bus ∧ o.urgency = .demand ∧ s.entryAt q.bus = .own c) ∧
    (∃ (s : State) (ahead rest kept mid : List Tx) (y : Tx) (q : Pair) (o : Opening) (c : OwnClaim) (j : Job) (info : SweepInfo)
      (d : Nat), Meets s ahead rest kept ∧ 16 ≤ (ahead ++ kept).length ∧ kept = mid ++ [y] ∧ y.notice = .claim .routine q ∧
      s.claims.opening = some o ∧ o.placed = some q.bus ∧ o.urgency = .routine ∧ s.entryAt q.bus = .own c ∧
      SweepInAccess s j info d) :=
  ⟨⟨queued [assertion 1 7], assertion 1 7, by decide, .demand, rfl⟩,
   ⟨queued [assertion 2 9, renewal, verdictTx], [assertion 2 9], [renewal, verdictTx], [verdictTx],
     ⟨rfl, by intro x hx; rw [List.mem_singleton.mp hx]; exact ⟨_, _, rfl, by decide⟩,
       by intro x hx v q h; simp [renewal, verdictTx] at hx; rcases hx with rfl | rfl <;> simp at h, by decide⟩, by decide, by decide⟩,
   ⟨queued (crowded verdictTx), _, _, _, fullQueue.take 14, verdictTx, 600, .clear, 65535,
     meets_crowded _ verdictTx rfl (by rintro _ _ _ ⟨⟩), by decide, rfl, rfl⟩,
   ⟨queued (crowded ticketTx), _, _, _, fullQueue.take 14, ticketTx, 8193, 600, .opened, .loop,
     meets_crowded _ ticketTx rfl (by rintro _ _ _ ⟨⟩), by decide, rfl, rfl⟩,
   ⟨queued (crowded releaseTx), _, _, _, fullQueue.take 14, releaseTx, pair,
     meets_crowded _ releaseTx rfl (by rintro _ _ _ ⟨⟩), by decide, rfl, rfl⟩,
   ⟨{ claiming .demand (flying releaseNotice .waitQuiet 0) with line := (queued (crowded (claimTx .demand))).line }, _, _, _,
     fullQueue.take 14, claimTx .demand, pair, opening, sending .demand,
     meets_crowded _ (claimTx .demand) rfl (by rintro _ _ _ ⟨⟩), by decide, rfl, rfl, by decide, by decide, by decide, by decide⟩,
   ⟨{ sweepClaiming (flying releaseNotice .waitQuiet 0) with line := (queued (crowded (claimTx .routine))).line }, _, _, _,
     fullQueue.take 14, claimTx .routine, pair, { opening with urgency := .routine }, sending .routine, sweepAccess, sweepInfo false, 200,
     meets_crowded _ (claimTx .routine) rfl (by rintro _ _ _ ⟨⟩), by decide, rfl, rfl, by decide, by decide, by decide, by decide,
     by constructor <;> decide⟩⟩

theorem witness_OfferedNotices_held :
    (∀ s ∈ [waitingLine [] [verdictTx] [], waitingLine [] [verdictTx] [ticketTx], waitingLine [releaseTx] [] [], waitingClaim, takenClaim],
      s.line.flight = none ∧ s.line.queue = verdictTx :: fullQueue.take 15 ∧ (fullQueue.take 15).length = 15 ∧
        SendsNow (s.setLine { s.line with busy := false })) ∧
    (∃ o, waitingClaim.claims.opening = some o ∧ waitingClaim.line.heldClaims = [claimTx .demand] ∧ o.placed = none ∧ o.line = pair.line ∧
      o.urgency = .demand ∧ waitingClaim.pairFree .demand pair = true) ∧
    (∃ o, takenClaim.claims.opening = some o ∧ takenClaim.line.heldClaims = [claimTx .demand] ∧ o.placed = none ∧ o.line = pair.line ∧
      o.urgency = .demand ∧ takenClaim.pairFree .demand pair = false ∧ takenClaim.candidate pair.line .demand o.pref = none) :=
  ⟨by decide +kernel, ⟨_, rfl, by decide⟩, ⟨_, rfl, by decide⟩⟩

/-- The claims of a re-offered CLAIM: over a FIRM ROUTINE conflict, with another pair free, and in ROUTINE with no pair free. -/
theorem witness_OfferedNotices_conflicts :
    ((waitingClaim.setEntry 1 (.peer (peer .routine true))).pairFree .demand pair = true) ∧
    ((waitingClaim.setEntry 1 (.peer (peer .demand true))).pairFree .demand pair = false ∧
      (waitingClaim.setEntry 1 (.peer (peer .demand true))).candidate pair.line .demand none = some 0 ∧
      waitingClaim.claims.station = .active) ∧
    ∃ (s : State) (o : Opening), s.line.flight = none ∧ s.line.busy = true ∧ s.line.queue = verdictTx :: fullQueue.take 15 ∧
      s.line.heldClaims = [claimTx .routine] ∧ s.claims.opening = some o ∧ o.placed = none ∧ o.line = pair.line ∧ o.urgency = .routine ∧
      s.pairFree .routine pair = false ∧ s.candidate pair.line .routine o.pref ≠ none ∧ s.claims.station = .active :=
  ⟨by decide, by decide, waitingSweep [.free, .peer (peer .demand true), .free, .free], _, rfl, rfl, rfl, rfl, rfl, rfl, rfl, rfl,
   by decide +kernel⟩

/-- A re-offered CLAIM of a sweep job that finds no pair free, its line in the table and not, its job in either slot. -/
theorem witness_OfferedNotices_notFree :
    ∀ entries ∈ [firmPeers, firmPeers.set 2 (.peer (peer .demand true))], ∀ id ∈ [SlotId.active, .staged],
      ∃ (s : State) (o : Opening) (j : Job) (info : SweepInfo), s.line.flight = none ∧ s.line.busy = true ∧
        s.line.queue = verdictTx :: fullQueue.take 15 ∧ s.line.heldClaims = [claimTx .routine] ∧ s.claims.opening = some o ∧
        o.placed = none ∧ o.line = pair.line ∧ o.urgency = .routine ∧ s.candidate pair.line .routine o.pref = none ∧
        s.pairFree .routine pair = false ∧ s.claims.entries = entries ∧ s.accessSlot = some id ∧ s.slot id = .job j ∧
        j.sweep = some info ∧ SlotsStand s id := by
  intro entries he id hid
  refine
    ⟨if id = .active then waitingSweep entries else behindHolder (waitingSweep entries), { opening with urgency := .routine, placed := none },
      sweepAccess, sweepInfo false, ?_⟩
  fin_cases he <;> fin_cases hid <;>
    refine ⟨rfl, rfl, rfl, rfl, rfl, rfl, rfl, rfl, by decide +kernel, by decide +kernel, rfl, by decide, rfl, rfl, ?_⟩
  all_goals
    first
      | exact ⟨fun _ => rfl, by rintro ⟨⟩⟩
      | exact ⟨by rintro ⟨⟩, by rintro _ _ ⟨⟩ ⟨⟩⟩

theorem witness_PrecedenceIsByUrgencyThenStation :
    ∃ station station' : Nat, station ≠ station' :=
  ⟨0, 15, by decide⟩

theorem witness_ContestWindowEndsHeld :
    ∃ (s : State) (o : Opening) (b : ℕ) (c : OwnClaim) (j : Job), (s.claims.opening = some o) ∧ (o.placed = some b) ∧ (s.entryAt b = Entry.own c) ∧
      (b < s.claims.entries.length) ∧ (c.state = ClaimState.contest) ∧ (c.withdrawn = false) ∧ s.ChainIdle ∧ (s.chain.ops = []) ∧
      (s.seq.active = Slot.job j) ∧ (j.phase = Phase.access) ∧ (j.bus = none) ∧ (j.order.line = c.line) ∧
      ((s.unitAt (unitOf c.line)).state = UnitState.ok) :=
  ⟨withJob (making contesting) accessJob, opening, 1, contesting, accessJob, by decide⟩

theorem witness_ContestWindow_unitDown :
    ∀ sweep ∈ [none, some (sweepInfo true)], ∃ (s : State) (o : Opening) (b : Nat) (c : OwnClaim) (j : Job), s.claims.opening = some o ∧
      o.placed = some b ∧ s.entryAt b = .own c ∧ b < s.claims.entries.length ∧ c.state = .contest ∧ c.withdrawn = false ∧ s.ChainIdle ∧
      s.chain.ops = [] ∧ s.seq.active = .job j ∧ j.phase = .access ∧ j.bus = none ∧ j.order.line = c.line ∧ j.sweep = sweep ∧
      (s.unitAt (unitOf c.line)).state ≠ .ok ∧ s.head.state = .offBus ∧ s.claims.station ≠ .resetting ∧ s.seq.staged = .empty := by
  intro sweep h
  refine ⟨alarmed { accessJob with sweep := sweep }, opening, 1, contesting, { accessJob with sweep := sweep }, ?_⟩
  fin_cases h <;> decide

theorem witness_ContestWindow_grant :
    (∃ (s : State) (c : OwnClaim) (rest : List ChainRequest), s.chain.exchange = none ∧ s.chain.discovery = none ∧ s.entryAt 1 = .own c ∧
      s.chain.jobGroup = .operate { bus := 1, line := c.line } :: rest ∧ c.state = .held ∧ c.withdrawn = false) ∧
    (∀ ph ∈ [Phase.connecting, .releasing], ∃ (s : State) (c : OwnClaim) (j : Job) (o : ChainOp), s.chain.exchange = none ∧
      s.chain.discovery = none ∧ s.entryAt 1 = .own c ∧ s.chain.jobGroup = [.operate { bus := 1, line := c.line }] ∧ c.state ≠ .held ∧
      s.chain.ops = [o] ∧ o.pair = { bus := 1, line := c.line } ∧ s.seq.active = .job j ∧ j.bus = some 1 ∧ j.order.line = c.line ∧
      j.nothingOperated = false ∧ s.head.state = .offBus ∧ j.phase = ph) :=
  ⟨⟨operateWaits .held .connecting, claimIn .held .demand, [], by decide⟩,
   by
    intro ph h
    refine ⟨operateWaits .releasing ph, claimIn .releasing .demand, jobOf [] ph 1, opIn .connect 1 .acting, ?_⟩
    fin_cases h <;> decide⟩

theorem witness_AwaitedYieldsRunOut :
    (∃ (s : State) (c : OwnClaim) (o : Opening), s.entryAt 1 = .own c ∧ 1 < s.claims.entries.length ∧ s.claims.opening = some o ∧
      o.placed = some 1 ∧ c.state = .awaitYield ∧ c.awaited ≠ [] ∧ o.urgency ≠ .routine) ∧
    (∃ (s : State) (c : OwnClaim) (a b : Awaited), s.entryAt 1 = .own c ∧ 1 < s.claims.entries.length ∧ c.awaited = [a, b] ∧
      a.expiry ≤ b.expiry ∧ s.NothingToGrant ∧ [b].filter (fun y => !(y.station == a.station && y.pair == a.pair)) ≠ []) ∧
    (∃ (s : State) (c : OwnClaim) (a : Awaited), s.entryAt 1 = .own c ∧ 1 < s.claims.entries.length ∧ c.awaited = [a] ∧ s.NothingToGrant ∧
      c.state = .sending) ∧
    (∃ (s : State) (c : OwnClaim) (a : Awaited), s.entryAt 1 = .own c ∧ 1 < s.claims.entries.length ∧ c.awaited = [a] ∧ s.NothingToGrant ∧
      c.state = .awaitYield ∧ max s.time.now a.expiry < c.sentAt + ms 40) ∧
    (∃ (s : State) (c : OwnClaim) (a : Awaited) (j : Job), s.entryAt 1 = .own c ∧ 1 < s.claims.entries.length ∧ c.awaited = [a] ∧
      c.state = .awaitYield ∧ c.sentAt + ms 40 = max s.time.now a.expiry ∧ c.withdrawn = false ∧ s.seq.active = .job j ∧ j.phase = .access ∧
      j.bus = none ∧ j.order.line = c.line ∧ s.ChainIdle ∧ s.chain.ops = [] ∧ (s.unitAt (unitOf c.line)).state = .ok) :=
  ⟨⟨making (yielding [awaited5, awaited6]), yielding [awaited5, awaited6], opening, by decide⟩,
   ⟨making (yielding [awaited5, awaited6]), yielding [awaited5, awaited6], awaited5, awaited6, by decide⟩,
   ⟨making (sending .demand), sending .demand, awaited5, by decide⟩,
   ⟨making (yielding [awaited5]), yielding [awaited5], awaited5, by decide⟩,
   ⟨withJob (making { yielding [awaited5] with sentAt := 19700 }) accessJob, { yielding [awaited5] with sentAt := 19700 }, awaited5, accessJob,
     by decide⟩⟩

theorem witness_ClaimTimersRunOut :
    (∃ (s : State) (b : ℕ) (c : OwnClaim), (s.entryAt b = Entry.own c) ∧ (b < s.claims.entries.length) ∧ (b < 4) ∧
      (c.state = ClaimState.held ∨ c.state = ClaimState.releasing ∨ c.state = ClaimState.stuck)) ∧
    (∃ (s : State) (b : ℕ) (c : OwnClaim) (d : Disturbance) (rest : List Disturbance), (s.entryAt b = Entry.own c) ∧
      (b < s.claims.entries.length) ∧ (b < 4) ∧ (c.disturbances = d :: rest) ∧ (∀ x ∈ rest, d.deadline ≤ x.deadline) ∧
      rest.filter (fun x => !(x.station == d.station && x.pair == d.pair)) ≠ []) ∧
    (∃ (s : State) (j : Job) (c : OwnClaim) (d : Disturbance), (s.entryAt 1 = Entry.own c) ∧ (1 < s.claims.entries.length) ∧
      (c.disturbances = [d]) ∧ (s.seq.active = Slot.job j) ∧ j.phase = .suspended) ∧
    (∃ (s : State) (j : Job) (c : OwnClaim) (d : Disturbance), (s.entryAt 1 = Entry.own c) ∧ (1 < s.claims.entries.length) ∧
      (c.disturbances = [d]) ∧ (s.seq.active = Slot.job j) ∧ j.phase = .running ∧ j.bus = some 1 ∧ s.head.bus = some 1 ∧ s.head.state = .onBus ∧
      s.head.hazardFound = false ∧ (j.order.stepAt j.step).kind = .resist) ∧
    (∃ (s : State) (b : ℕ) (c : PeerClaim), (b < 4) ∧ (s.entryAt b = Entry.peer c) ∧ (∀ (o : Opening),
      s.claims.opening = some o → o.placed ≠ none)) ∧
    (∃ (s : State) (t : ℕ), (s.claims.joinUntil = some t) ∧ (s.claims.station = StationState.joining)) :=
  ⟨⟨withClaim desk (claimIn .stuck .demand), 1, claimIn .stuck .demand, by decide⟩,
   ⟨withClaim desk disturbed, 1, disturbed, disturbedBy 5, [disturbedBy 6], by decide⟩,
   ⟨disturbedOnHead .suspended, jobOf (stepsOf .resist) .suspended 2, { disturbed with disturbances := [disturbedBy 5] }, disturbedBy 5, by decide⟩,
   ⟨disturbedOnHead .running, jobOf (stepsOf .resist) .running 2, { disturbed with disturbances := [disturbedBy 5] }, disturbedBy 5, by decide⟩,
   ⟨desk.setEntry 3 (.peer (peer .demand true)), 3, peer .demand true, by decide⟩,
   ⟨joining, 33000, by decide⟩⟩

theorem witness_ClaimTimers_waiting :
    ∃ (s : State) (c : PeerClaim) (o : Opening), s.entryAt 3 = .peer c ∧ s.claims.opening = some o ∧ o.placed = none ∧
      s.claims.station = .active ∧ s.line.heldClaims.any Tx.isClaim = false ∧ s.line.flight.isSome = true ∧
      s.candidate o.line o.urgency o.pref = none ∧ (s.setEntry 3 .free).candidate o.line o.urgency o.pref = some 3 :=
  ⟨waitingAmong firmPeers, { peer .demand true with line := 303 }, { opening with placed := none }, by decide⟩

theorem witness_ClaimTimers_idle :
    ∃ (s : State) (c : PeerClaim) (o : Opening), s.entryAt 3 = .peer c ∧ s.claims.opening = some o ∧ o.placed = none ∧
      s.claims.station = .active ∧ s.line.heldClaims.any Tx.isClaim = false ∧ s.line.flight = none ∧ s.line.queue = [] ∧ SendsNow s ∧
      (s.setEntry 3 .free).candidate o.line o.urgency o.pref = some 3 :=
  ⟨idleLine (waitingAmong firmPeers), { peer .demand true with line := 303 }, { opening with placed := none }, by decide⟩

/-- What every clause of HeardNoticeGoesToItsBlock asks of the state and the notice. -/
abbrev Heard (s : State) (station : Nat) (n : Notice) : Prop :=
  s.Hears ∧ s.NothingToGrant ∧ station ≤ 15 ∧ station ≠ s.straps.station ∧ n.InRange station

theorem witness_HeardNoticeGoesToItsBlock :
    (∃ (s : State) (u : Urgency) (p : Pair), Heard s 5 (.claim u p) ∧ s.claims.opening = none ∧ (∀ e ∈ s.claims.entries, e.own? = none)) ∧
    (∃ (s : State) (u : Urgency) (p : Pair) (m : Bool), Heard s 15 (.hold u p m) ∧ s.claims.opening = none ∧
      (∀ e ∈ s.claims.entries, e.own? = none)) ∧
    (∃ (s : State) (p : Pair) (q : PeerClaim), Heard s 5 (.release p) ∧ s.claims.opening = none ∧ (∀ e ∈ s.claims.entries, e.own? = none) ∧
      s.entryAt p.bus = .peer q ∧ q.station = 5 ∧ q.line = p.line) ∧
    (∃ (s : State) (p : Pair), Heard s 5 (.release p) ∧ s.claims.opening = none ∧ (∀ e ∈ s.claims.entries, e.own? = none) ∧
      s.entryAt p.bus = .free) ∧
    (∃ (s : State), Heard s 5 .announce ∧ (standingClaims s).length = 2 ∧ s.reports.filter.passes .announce = true) ∧
    (∃ (s : State) (i l : Nat) (st : TicketState) (v : Verdict), Heard s 5 (.ticket i l st v) ∧ s.isHome l = false) ∧
    (∃ (s : State) (i l : Nat) (st : TicketState) (v : Verdict), Heard s 5 (.ticket i l st v) ∧ s.isHome l = true) ∧
    (∃ (s : State) (l : Nat) (v : Verdict) (k : Nat), Heard s 5 (.verdict l v k) ∧ s.isHome l = false) ∧
    (∃ (s : State) (l : Nat) (v : Verdict) (k : Nat), Heard s 5 (.verdict l v k) ∧ s.isHome l = true ∧ k = 65535) :=
  ⟨⟨heard desk, .demand, pair, ⟨by decide, by decide, by decide, by decide, by simp [Notice.InRange, pair]⟩, by decide, by decide⟩,
   ⟨heard desk, .demand, { bus := 3, line := 16383 }, true, ⟨by decide, by decide, by decide, by decide, by simp [Notice.InRange]⟩, by decide,
     by decide⟩,
   ⟨heard (desk.setEntry 1 (.peer (peer .demand true))), { bus := 1, line := 300 }, peer .demand true,
     ⟨by decide, by decide, by decide, by decide, by simp [Notice.InRange]⟩, by decide⟩,
   ⟨heard desk, pair, ⟨by decide, by decide, by decide, by decide, by simp [Notice.InRange, pair]⟩, by decide⟩,
   ⟨listening, ⟨by decide, by decide, by decide, by decide, trivial⟩, by decide⟩,
   ⟨heard desk, 20481, 600, .opened, .loop, ⟨by decide, by decide, by decide, by decide, by simp [Notice.InRange]⟩, by decide⟩,
   ⟨heard desk, 20481, 511, .opened, .loop, ⟨by decide, by decide, by decide, by decide, by simp [Notice.InRange]⟩, by decide⟩,
   ⟨heard desk, 512, .loop, 0, ⟨by decide, by decide, by decide, by decide, by simp [Notice.InRange]⟩, by decide⟩,
   ⟨heard desk, 0, .loop, 65535, ⟨by decide, by decide, by decide, by decide, by simp [Notice.InRange]⟩, by decide⟩⟩

theorem witness_HeardNotice_cache :
    (∃ (cache : List ForeignTicket) (e : ForeignTicket) (before : List ForeignTicket) (x : ForeignTicket) (after : List ForeignTicket),
      cache = before ++ x :: after ∧ x.ident = e.ident ∧ (∀ y ∈ before ++ after, y.ident ≠ e.ident) ∧ e.state = .closed) ∧
    (∃ (cache : List ForeignTicket) (e : ForeignTicket) (before : List ForeignTicket) (x : ForeignTicket) (after : List ForeignTicket),
      cache = before ++ x :: after ∧ x.ident = e.ident ∧ (∀ y ∈ before ++ after, y.ident ≠ e.ident) ∧ e.state ≠ .closed ∧
      ∀ y ∈ before ++ after, y.line ≠ e.line) ∧
    (∃ (cache : List ForeignTicket) (e : ForeignTicket) (before : List ForeignTicket) (x : ForeignTicket) (after front : List ForeignTicket)
      (y : ForeignTicket) (back : List ForeignTicket), cache = before ++ x :: after ∧ x.ident = e.ident ∧
      (∀ y ∈ before ++ after, y.ident ≠ e.ident) ∧ e.state ≠ .closed ∧ before ++ after = front ++ y :: back ∧ y.line = e.line ∧
      ∀ z ∈ front ++ back, z.line ≠ e.line) ∧
    (∃ (cache : List ForeignTicket) (e : ForeignTicket), (∀ x ∈ cache, x.ident ≠ e.ident) ∧ e.state = .closed) ∧
    (∃ (cache : List ForeignTicket) (e : ForeignTicket) (before : List ForeignTicket) (x : ForeignTicket) (after : List ForeignTicket),
      (∀ x ∈ cache, x.ident ≠ e.ident) ∧ e.state ≠ .closed ∧ cache = before ++ x :: after ∧ x.line = e.line ∧
      (∀ y ∈ before ++ after, y.line ≠ e.line) ∧ cache.length = 32) ∧
    (∃ (cache : List ForeignTicket) (e : ForeignTicket), (∀ x ∈ cache, x.ident ≠ e.ident) ∧ e.state ≠ .closed ∧
      (∀ x ∈ cache, x.line ≠ e.line) ∧ cache.length = 31) ∧
    (∃ (cache : List ForeignTicket) (e x : ForeignTicket) (rest : List ForeignTicket), (∀ x ∈ cache, x.ident ≠ e.ident) ∧ e.state ≠ .closed ∧
      (∀ x ∈ cache, x.line ≠ e.line) ∧ cache = x :: rest ∧ cache.length = 32) :=
  ⟨⟨_, { foreign 20481 600 with state := .closed }, [foreign 20482 601], foreign 20481 600, [], rfl, by decide +kernel⟩,
   ⟨_, { foreign 20481 700 with state := .held }, [foreign 20482 601], foreign 20481 600, [], rfl, by decide +kernel⟩,
   ⟨_, foreign 20481 601, [foreign 20482 601], foreign 20481 600, [], [], foreign 20482 601, [], rfl, by decide +kernel⟩,
   ⟨fullCache, { foreign 24577 600 with state := .closed }, by decide +kernel⟩,
   ⟨fullCache, foreign 24577 600, [], foreign 20481 600, fullCache.tail, by decide +kernel⟩,
   ⟨fullCache.tail, foreign 24577 600, by decide +kernel⟩,
   ⟨fullCache, foreign 24577 700, foreign 20481 600, fullCache.tail, by decide +kernel⟩⟩

theorem test_cache_moves_the_heard_entry_to_the_back :
    cacheHear [foreign 20481 600, foreign 20482 601] (foreign 20481 602) = [foreign 20482 601, foreign 20481 602] := by decide

theorem witness_PeerEntriesFollowClaimsAndHolds :
    (pair.bus < peers.length ∧ ownConflict pair peers = false) ∧
    (∃ b < peers.length, ∃ c, peers.getD b .free = .peer c ∧ c.station ≠ 5 ∧ c.line = pair.line ∧ c.firm = true ∧
      precedes .demand 5 c.urgency c.station = false ∧ precedes .priority 5 c.urgency c.station = true) :=
  ⟨by decide, 1, by decide, _, rfl, by decide⟩

/-- What every clause of StandingClaimAnswersConflicts asks of the state, the claim and the pair. -/
abbrev HearsConflict (s : State) (station : Nat) (c : OwnClaim) (p : Pair) : Prop :=
  s.Hears ∧ s.NothingToGrant ∧ station ≤ 15 ∧ station ≠ s.straps.station ∧ p.bus ≤ 3 ∧ p.line ≤ 16383 ∧ s.entryAt 1 = .own c ∧
    c.withdrawn = false ∧ (p.bus = 1 ∨ p.line = c.line) ∧ ∀ b' < s.claims.entries.length, b' ≠ 1 → (s.entryAt b').own? = none

theorem filter_off (s : State) (h : s.reports.filter = desk.reports.filter) (n : Notice) : s.reports.filter.passes n = false := by
  rw [h]
  cases n <;> rfl

theorem witness_StandingClaimAnswersConflicts :
    (∃ s c p, HearsConflict s 5 c p ∧ s.claims.opening = none ∧ c.state = .held ∧ c.urgency = .demand ∧ s.line.flight = none ∧ s.line.queue = []) ∧
    (∃ s j c p, HearsConflict s 5 c p ∧ s.claims.opening = none ∧ c.state = .held ∧ c.urgency = .routine ∧ s.seq.active = .job j ∧
      j.bus = some 1 ∧ j.order.line = c.line ∧ s.head.bus = some 1 ∧ s.head.state = .foreign) ∧
    (∃ s j c p, HearsConflict s 1 c p ∧ s.claims.opening = none ∧ c.state = .held ∧ c.disturbances = [] ∧
      precedes c.urgency s.straps.station .demand 1 = false ∧ s.seq.active = .job j ∧ j.phase = .suspended ∧ j.bus = some 1 ∧
      j.order.line = c.line ∧ s.head.bus = some 1 ∧ s.head.state = .onBus) ∧
    (∃ s j c p, HearsConflict s 1 c p ∧ s.claims.opening = none ∧ c.state = .held ∧ c.disturbances = [] ∧
      precedes c.urgency s.straps.station .demand 1 = false ∧ (∀ i ∈ s.seq.active.job?, i.bus ≠ some 1) ∧ s.seq.staged = .job j ∧
      j.phase = .ready ∧ j.bus = some 1 ∧ j.order.line = c.line ∧ j.nothingOperated = false ∧ s.ChainIdle ∧ s.chain.ops = []) ∧
    (∃ s c p, HearsConflict s 5 c p ∧ s.claims.opening = none ∧ c.state = .held ∧ ∃ d ∈ c.disturbances, d.station = 5 ∧ d.pair = p) ∧
    (∃ s j c p, HearsConflict s 5 c p ∧ s.claims.opening = none ∧ c.state = .held ∧ c.disturbances = [] ∧
      precedes c.urgency s.straps.station .demand 5 = true ∧ s.seq.active = .job j ∧ j.phase = .running ∧ j.bus = some 1 ∧
      j.order.line = c.line ∧ s.head.bus = some 1 ∧ s.head.activity = .resistOn) ∧
    (∃ s j c p, HearsConflict s 5 c p ∧ s.claims.opening = none ∧ c.state = .held ∧ c.disturbances = [] ∧
      precedes c.urgency s.straps.station .demand 5 = true ∧ (∀ i ∈ s.seq.active.job?, i.bus ≠ some 1) ∧ s.seq.staged = .job j ∧
      j.bus = some 1 ∧ j.order.line = c.line) ∧
    (∃ s c p, HearsConflict s 5 c p ∧ s.claims.opening = none ∧ c.state = .stuck) :=
  ⟨⟨withClaim (heard desk) (claimIn .held .demand), claimIn .held .demand, otherPair, by decide +kernel⟩,
   ⟨holding .routine .running (headIn .foreign .sampling), jobOf (stepsOf .hold) .running 2, claimIn .held .routine, linePair, by decide +kernel⟩,
   ⟨holding .demand .suspended (headIn .onBus .idle), jobOf (stepsOf .hold) .suspended 2, claimIn .held .demand, otherPair, by decide +kernel⟩,
   ⟨stagedClaim .demand, jobOf [] .ready 1, claimIn .held .demand, linePair, by decide +kernel⟩,
   ⟨withClaim (heard desk) disturbed, disturbed, otherPair, by decide +kernel⟩,
   ⟨holding .demand .running (headIn .resist .resistOn), jobOf (stepsOf .hold) .running 2, claimIn .held .demand, linePair, by decide +kernel⟩,
   ⟨stagedClaim .demand, jobOf [] .ready 1, claimIn .held .demand, otherPair, by decide +kernel⟩,
   ⟨withClaim (heard desk) (claimIn .stuck .demand), claimIn .stuck .demand, otherPair, by decide +kernel⟩⟩

/-- As `HearsConflict`, of a claim in the making on bus 1. -/
abbrev MakingConflict (s : State) (station : Nat) (c : OwnClaim) (p : Pair) (u : Urgency) : Prop :=
  HearsConflict s station c p ∧ s.claims.opening = some { opening with urgency := u } ∧ c.disturbances = []

theorem claim_stopped (s : State) (u : Urgency) (h : s.line.heldClaims = [] ∧ s.line.heldVerdicts = [] ∧ s.line.heldTickets = []) :
    ∃ y, ClaimStopped (sendingHears s u).afterNotice y :=
  ⟨_, h.1, h.2.1, h.2.2, .inl ⟨[verdictTx], claimTx u, [ticketTx], rfl, rfl, rfl, by simp [verdictTx, ticketTx, Tx.isClaim], rfl⟩⟩

theorem witness_StandingClaim_making :
    (∃ s c p, MakingConflict s 1 c p .demand ∧ c.state = .sending ∧ (∃ y, ClaimStopped s.afterNotice y) ∧
      precedes .demand 1 c.urgency s.straps.station = true) ∧
    (∃ s c p, MakingConflict s 5 c p .demand ∧ c.state = .contest ∧ c.urgency = .demand) ∧
    (∃ s j info d c p, MakingConflict s 5 c p .routine ∧ c.state = .sending ∧ (∃ y, ClaimStopped s.afterNotice y) ∧
      SweepInAccess s.afterNotice j info d) ∧
    (∃ s c p, MakingConflict s 5 c p .demand ∧ c.state = .awaitYield ∧ (∃ a ∈ c.awaited, a.station = 5 ∧ a.pair = p) ∧ c.awaited.length = 2 ∧
      p.bus < s.claims.entries.length ∧ ∀ q, s.entryAt p.bus ≠ .peer q) ∧
    (∃ s c p, MakingConflict s 5 c p .demand ∧ c.awaited = [{ station := 5, pair := p, expiry := 32500 }] ∧ c.state = .awaitYield ∧
      s.afterNotice.time.now < c.sentAt + ms 40) ∧
    (∃ s j c p, MakingConflict s 5 c p .demand ∧ c.awaited = [{ station := 5, pair := p, expiry := 32500 }] ∧ c.state = .awaitYield ∧
      c.sentAt + ms 40 ≤ s.afterNotice.time.now ∧ s.seq.active = .job j ∧ j.phase = .access ∧ j.bus = none ∧ j.order.line = c.line ∧ s.ChainIdle ∧
      s.chain.ops = [] ∧ (s.unitAt (unitOf c.line)).state = .ok) :=
  ⟨⟨sendingHears (making (sending .demand)) .demand, sending .demand, otherPair, by decide +kernel, rfl, claim_stopped _ _ (by decide +kernel), by decide +kernel⟩,
   ⟨makingHears contesting, contesting, linePair, by decide +kernel⟩,
   ⟨sendingHears (sweepClaiming (flying releaseNotice .waitQuiet 0)) .routine, sweepAccess, { retest := false, pass := 0 }, 200,
     sending .routine, otherPair, by decide +kernel, rfl, claim_stopped _ _ (by decide +kernel), rfl, rfl, rfl, rfl, rfl, rfl, rfl, rfl, rfl, rfl, by decide +kernel⟩,
   ⟨makingHears (yielding [awaited5, awaited6]), yielding [awaited5, awaited6], otherPair, by decide +kernel, rfl, by decide +kernel, rfl, by decide +kernel, by rintro _ ⟨⟩⟩,
   ⟨makingHears (yielding [awaited5]), yielding [awaited5], otherPair, by decide +kernel⟩,
   ⟨withJob (makingHears { yielding [awaited5] with sentAt := 3000 }) accessJob, accessJob, { yielding [awaited5] with sentAt := 3000 }, otherPair,
     by decide +kernel⟩⟩

theorem witness_HeadConnectsDischargesAndLeaves :
    (∃ (s : State) (j : Job) (b : ℕ) (c : OwnClaim), OnItsBus s j b c ∧ (s.head.activity = HeadActivity.connecting) ∧
      (j.phase = Phase.ready) ∧ PlainFrom j (j.step + 1) ∧ s.NothingToGrant) ∧
    (∃ (s : State) (j : Job) (b : ℕ), (s.seq.active = Slot.job j) ∧ (j.bus = some b) ∧ (s.head.activity = HeadActivity.discharging true)) ∧
    (∃ (s : State) (j : Job) (b : ℕ), (s.seq.active = Slot.job j) ∧ (j.bus = some b) ∧ (s.head.activity = HeadActivity.discharging false) ∧
      (j.phase ≠ Phase.running)) ∧
    (∃ (s : State) (j : Job), s.seq.active = .job j ∧ j.bus = some 1 ∧ s.head.activity = .discharging false ∧ j.phase = .running ∧
      s.disturbed (some 1) = true) ∧
    (∃ (s : State) (j : Job) (c : OwnClaim), s.seq.active = .job j ∧ j.bus = some 1 ∧ s.head.activity = .discharging false ∧
      j.phase = .running ∧ s.head.bus = some 1 ∧ s.head.hazardFound = false ∧ s.entryAt 1 = .own c ∧ c.disturbances = [] ∧
      (j.order.stepAt j.step).kind = .resist) ∧
    (∃ (s : State) (j : Job) (b : ℕ), (s.seq.active = Slot.job j) ∧ (j.bus = some b) ∧ (s.head.activity = HeadActivity.opening) ∧
      (j.phase = Phase.releasing) ∧ (j.nothingOperated = false) ∧ (s.seq.staged = Slot.empty) ∧ s.ChainIdle ∧ (s.chain.ops = [])) ∧
    (∀ k ∈ [jobBehind .releasing (some 0), jobBehind .access none, jobBehind .ready (some 0)], ∃ (s : State) (j : Job), s.seq.active = .job j ∧
      j.bus = some 1 ∧ s.head.activity = .opening ∧ j.phase = .releasing ∧ j.nothingOperated = false ∧ s.ChainIdle ∧ s.chain.ops = [] ∧
      s.seq.staged = .job k) :=
  ⟨⟨onHead (stepsOf .resist) .ready 1 (headIn .connecting .connecting), jobOf (stepsOf .resist) .ready 1, 1, claimIn .held .demand,
      ⟨rfl, rfl, rfl, rfl, rfl, rfl⟩, by decide⟩,
   ⟨onHead [] .releasing 2 (headIn .discharge (.discharging true)), jobOf [] .releasing 2, 1, by decide⟩,
   ⟨onHead [] .suspended 2 (headIn .discharge (.discharging false)), jobOf [] .suspended 2, 1, by decide⟩,
   ⟨(disturbedOnHead .running).setHead (headIn .discharge (.discharging false)), jobOf (stepsOf .resist) .running 2, by decide⟩,
   ⟨onHead (stepsOf .resist) .running 2 (headIn .discharge (.discharging false)), jobOf (stepsOf .resist) .running 2, claimIn .held .demand,
     by decide⟩,
   ⟨onHead [] .releasing 2 (headIn .discharge .opening), jobOf [] .releasing 2, 1, by decide⟩,
   fun k h => ⟨leaving k, jobOf [] .releasing 2, by fin_cases h <;> decide⟩⟩

theorem witness_ForeignStageClearsOrAborts :
    (∀ inserted, ∃ (s : State) (j : Job) (b : ℕ) (c : OwnClaim) (tg : List ℤ) (rg : List ℤ) (tr : List ℤ), OnItsBus s j b c ∧ (tg.length = 80) ∧
      (rg.length = 80) ∧ (tr.length = 80) ∧ (s.head.activity = HeadActivity.sampling) ∧ (s.head.state = HeadState.foreign) ∧
      (j.phase = Phase.running) ∧ (j.inserted = inserted) ∧ s.NothingToGrant ∧ ((foreignReadings tg rg tr).tripped.any = false) ∧
      s.head.hazardFound = false ∧ PlainFrom j (j.step + 1) ∧ (j.order.stepAt j.step).kind = .resist) ∧
    (∃ (s : State) (j : Job) (b : ℕ) (tg : List ℤ) (rg : List ℤ) (tr : List ℤ), (tg.length = 80) ∧ (rg.length = 80) ∧ (tr.length = 80) ∧
      (s.head.activity = HeadActivity.sampling) ∧ (s.head.state = HeadState.foreign) ∧ (s.head.bus = some b) ∧ (s.seq.active = Slot.job j) ∧
      (j.bus = some b) ∧ (j.phase = Phase.running) ∧ (j.inserted = false) ∧ s.NothingToGrant ∧ ((foreignReadings tg rg tr).tripped.any = true)) :=
  ⟨fun inserted =>
    ⟨withJob (onHead [] .running 2 (headIn .foreign .sampling)) { jobOf (stepsOf .resist) .running 2 with inserted := inserted },
      { jobOf (stepsOf .resist) .running 2 with inserted := inserted }, 1, claimIn .held .demand, run 80 60000, run 80 0, run 80 0,
      ⟨rfl, rfl, rfl, rfl, rfl, rfl⟩, by decide, by decide, by decide, rfl, rfl, rfl, rfl, by cases inserted <;> decide, by decide +kernel, rfl,
      by cases inserted <;> decide, by cases inserted <;> rfl⟩,
   ⟨onHead (marked3 .foreign) .running 2 (headIn .foreign .sampling), jobOf (marked3 .foreign) .running 2, 1, run 80 60001, run 80 0, run 80 0,
     by decide +kernel⟩⟩

theorem witness_ResistStageRunsItsConfigurations :
    (∃ (s : State) (current : List ℤ) (voltage : List ℤ) (k : HeadConfig), (current.length = 16) ∧ (voltage.length = 16) ∧
      (s.head.state = HeadState.resist) ∧ (s.head.config = some k) ∧ (s.head.activity = HeadActivity.resistOff) ∧
      (|meanOf (recordRun 250000 voltage)| ≤ 60000)) ∧
    (∃ (s : State) (current : List ℤ) (voltage : List ℤ) (k : HeadConfig), (current.length = 16) ∧ (voltage.length = 16) ∧
      (s.head.state = HeadState.resist) ∧ (s.head.config = some k) ∧ (s.head.activity = HeadActivity.resistSettle)) ∧
    (∃ (s : State) (current : List ℤ) (voltage : List ℤ) (k : HeadConfig) (off : ℤ × ℤ) (next : HeadConfig), (current.length = 16) ∧
      (voltage.length = 16) ∧ (s.head.state = HeadState.resist) ∧ (s.head.config = some k) ∧ (s.head.activity = HeadActivity.resistOn) ∧
      (s.head.work.off = some off) ∧ (k = HeadConfig.a ∧ next = HeadConfig.b ∨ k = HeadConfig.b ∧ next = HeadConfig.c)) ∧
    (∃ (s : State) (current : List ℤ) (voltage : List ℤ) (k : HeadConfig) (off : ℤ × ℤ) (a : ResistReading) (c : ResistReading) (j : Job) (b : ℕ)
      (own : OwnClaim), OnItsBus s j b own ∧
      (current.length = 16) ∧ (voltage.length = 16) ∧ (s.head.state = HeadState.resist) ∧ (s.head.config = some k) ∧
      (s.head.activity = HeadActivity.resistOn) ∧ (s.head.work.off = some off) ∧ (k = HeadConfig.c) ∧ (s.head.work.resist = [a, c]) ∧
      (j.phase = Phase.running) ∧ s.head.hazardFound = false ∧ PlainFrom j (j.step + 1) ∧ s.NothingToGrant) :=
  ⟨⟨inResist .resistOff .a StageWork.none, run 16 0, run 16 60000, .a, by decide⟩,
   ⟨inResist .resistSettle .b StageWork.none, run 16 0, run 16 60000, .b, by decide⟩,
   ⟨inResist .resistOn .b (resistWork [noReading]), run 16 0, run 16 60000, .b, (0, 0), .c, by decide⟩,
   ⟨inResist .resistOn .c (resistWork [noReading, noReading]), run 16 0, run 16 60000, .c, (0, 0), noReading, noReading,
     jobOf (marked3 .resist) .running 2, 1, claimIn .held .demand, ⟨rfl, rfl, rfl, rfl, rfl, rfl⟩, by decide⟩⟩

theorem witness_OffPhaseHazardAborts :
    ∃ (s : State) (current : List ℤ) (voltage : List ℤ) (k : HeadConfig) (j : Job) (b : ℕ), (current.length = 16) ∧ (voltage.length = 16) ∧
      (s.head.state = HeadState.resist) ∧ (s.head.config = some k) ∧ (s.head.activity = HeadActivity.resistOff) ∧ (s.head.bus = some b) ∧
      (s.seq.active = Slot.job j) ∧ (j.bus = some b) ∧ (j.phase = Phase.running) ∧ s.NothingToGrant ∧
      (60000 < |meanOf (recordRun 250000 voltage)|) :=
  ⟨inResist .resistOff .c StageWork.none, run 16 0, run 16 (-60001), .c, jobOf (marked3 .resist) .running 2, 1, by decide⟩

theorem witness_CapacityStageRunsItsConfigurations :
    (∃ (s : State) (current : List ℤ) (k : HeadConfig), (current.length = 256) ∧ (s.head.state = HeadState.capacity) ∧ (s.head.config = some k) ∧
      (s.head.activity = HeadActivity.capacityRecord)) ∧
    (∃ (s : State) (current : List ℤ) (k : HeadConfig) (next : HeadConfig), (current.length = 256) ∧ (s.head.state = HeadState.capacity) ∧
      (s.head.config = some k) ∧ (s.head.activity = HeadActivity.capacityDrain) ∧ (k = HeadConfig.a ∧ next = HeadConfig.b ∨ k = HeadConfig.b ∧
      next = HeadConfig.c)) ∧
    (∃ (s : State) (current : List ℤ) (k : HeadConfig) (x : List ℤ) (y : List ℤ) (z : List ℤ) (j : Job) (b : ℕ) (c : OwnClaim), OnItsBus s j b c ∧
      (current.length = 256) ∧
      (s.head.state = HeadState.capacity) ∧ (s.head.config = some k) ∧ (s.head.activity = HeadActivity.capacityDrain) ∧ (k = HeadConfig.c) ∧
      (s.head.work.runs = [x, y, z]) ∧ (j.phase = Phase.running) ∧ s.head.hazardFound = false ∧ PlainFrom j (j.step + 1) ∧ s.NothingToGrant) :=
  ⟨⟨inCapacity .capacityRecord .a StageWork.none, run 256 0, .a, by decide +kernel⟩,
   ⟨inCapacity .capacityDrain .b StageWork.none, run 256 0, .b, .c, by decide +kernel⟩,
   ⟨inCapacity .capacityDrain .c runsDone, run 256 0, .c, run 256 0, run 256 0, run 256 0, jobOf (marked3 .capacity) .running 2, 1,
     claimIn .held .demand, ⟨rfl, rfl, rfl, rfl, rfl, rfl⟩, by decide +kernel⟩⟩

theorem witness_ForeignReductionAndHazardTest :
    ∃ (tg : List ℤ) (rg : List ℤ) (tr : List ℤ), (tg.length = 80) ∧ (rg.length = 80) ∧ (tr.length = 80) :=
  ⟨run 80 250000, run 80 0, run 80 (-250000), by decide⟩

theorem witness_ResistancesFollowFromTheReadings :
    ∃ (setting : Int) (r : ResistReadings) (x : ResistResults) (flag : Bool),
      10000 ≤ setting ∧ setting ≤ 100000 ∧ solveResist setting r = (x, flag) :=
  ⟨100000, { a := noReading, b := noReading, c := noReading, overrange := false }, _, _, by decide, by decide, rfl⟩

theorem witness_CapacitancesFollowFromTheReadings :
    ∃ (setting : Int) (perKm : Nat) (r : CapacityReadings) (x : CapacityResults) (flag : Bool),
      10000 ≤ setting ∧ setting ≤ 100000 ∧ 20000 ≤ perKm ∧ perKm ≤ 80000 ∧ r.a.length = 256 ∧ r.b.length = 256
        ∧ r.c.length = 256 ∧ solveCapacity setting perKm r = (x, flag) :=
  ⟨10000, 80000, { a := run 256 0, b := run 256 0, c := run 256 0, overrange := false }, _, _, by decide, by decide,
    by decide, by decide, by decide +kernel, by decide +kernel, by decide +kernel, rfl⟩

theorem witness_VerdictIsTheFirstClassThatApplies :
    ∃ (i : EvalInput) (r : Results) (v : Option Verdict), evaluate i = (r, v) :=
  ⟨{ hazardFound := true, foreign := none, resist := none, capacity := none, setting := 100000, perKm := 40000,
     settings := Settings.powerOn }, _, _, rfl⟩

/-- What every take of AccessStartTakesTheFirstOrder asks of the state. -/
abbrev MayStart (s : State) : Prop :=
  s.claims.station = .active ∧ s.accessBusy = false ∧ s.line.heldClaims.any Tx.isClaim = false ∧
    (s.line.flight.isSome = true ∨ s.line.queue = [])

/-- What its takes of the sweep offer ask. -/
abbrev SweepOffered (s : State) : Prop := OfferTaken s ∧ s.straps.firstLine ≤ s.sweep.pointer ∧ 1 ≤ s.straps.units

theorem witness_AccessStartTakesTheFirstOrder :
    (∃ (s : State), s.claims.station ≠ .active ∨ s.accessBusy = true) ∧
    (∃ (s : State) (before after : List QueuedOrder) (o : Order), MayStart s ∧ OrderReady s before after o ∧
      s.sweep.guardPassed = false ∧ s.seq.active = .empty) ∧
    (∃ (s : State) (before after : List QueuedOrder) (o : Order), MayStart s ∧ OrderReady s before after o ∧
      s.sweep.guardPassed = false ∧ s.seq.active ≠ .empty ∧ s.seq.staged = .empty ∧ 2 ≤ s.straps.buses ∧ (∀ j, s.seq.active ≠ .job j)) ∧
    (∃ (s : State) (before after : List QueuedOrder) (o : Order) (j : Job), MayStart s ∧ OrderReady s before after o ∧
      s.sweep.guardPassed = false ∧ s.seq.active = .job j ∧ s.seq.staged = .empty ∧ 2 ≤ s.straps.buses ∧ j.phase = .running) ∧
    (∃ (s : State) (before after : List QueuedOrder) (o : Order) (j : Job), MayStart s ∧ OrderReady s before after o ∧
      s.sweep.guardPassed = false ∧ s.seq.active = .job j ∧ s.seq.staged = .empty ∧ 2 ≤ s.straps.buses ∧ j.phase = .releasing ∧
      j.headFreed = true) ∧
    (∃ (s : State) (p k : Nat), MayStart s ∧ SweepOffered s ∧ s.sweep.state = .seeking ∧ s.sweep.once = false ∧ NoneOverdue s ∧
      s.seq.active = .empty ∧ p = s.sweep.pointer + k ∧ p ≤ s.straps.lastLine ∧
      (∀ i < k, PassedOver s (s.sweep.pointer + i) ∨ Skipped s (s.sweep.pointer + i)) ∧ ¬ PassedOver s p ∧ ¬ Skipped s p ∧
      s.candidate p .routine none = some 0 ∧ k = 3) ∧
    (∃ (s : State), MayStart s ∧ SweepOffered s ∧ s.sweep.state = .seeking ∧ s.sweep.once = false ∧ NoneOverdue s ∧
      s.seq.active = .empty ∧ s.sweep.pointer ≤ s.straps.lastLine ∧ s.sweep.onComplete = false ∧
      (∀ line, s.straps.firstLine ≤ line → line ≤ s.straps.lastLine → (s.recordOf line).repetition = 0)) :=
  ⟨⟨stationIn .isolated, by decide⟩,
   ⟨ready [endedOrder 3 0, waitingOrder 9, waitingOrder 10], [endedOrder 3 0], [waitingOrder 10], orderOf [], by decide⟩,
   ⟨(ready [waitingOrder 9]).setSeq
      { (ready [waitingOrder 9]).seq with active := .donePending (recordOf 1 0) }, [], [], orderOf [], by decide, by decide, by decide,
      by decide, by decide, by decide, by rintro _ ⟨⟩⟩,
   ⟨freed.updateJob .active (fun j => { j with phase := .running }), [waitingOrder 3], [], otherOrder.order, _, by decide, by decide, by decide,
     rfl, by decide⟩,
   ⟨freed, [waitingOrder 3], [], otherOrder.order, _, by decide, by decide, by decide, rfl, by decide⟩,
   ⟨walking, 7, 3, by decide⟩,
   ⟨excluded, by decide, by decide, by decide, by decide, by decide, by decide, by decide, by decide, excluded_lines⟩⟩

/-- What every take of an offer with its guard passed meets: a job in the active slot, the staged slot free, and an order queued. -/
abbrev GuardPassed (s : State) : Prop :=
  MayStart s ∧ SweepOffered s ∧ s.sweep.guardPassed = true ∧ s.seq.active ≠ .empty ∧ s.seq.staged = .empty ∧ 2 ≤ s.straps.buses ∧
    OrderReady s [waitingOrder 3] [] otherOrder.order

theorem witness_AccessStart_offers :
    (∀ st ∈ [SweepState.haltedComplete, .seeking], ∃ (s : State) (before after : List Ticket) (k : Ticket) (m : Nat), GuardPassed s ∧
      FirstOverdue s before after k m ∧ s.sweep.state = st ∧ s.sweep.once = false ∧ s.sweep.pointerOwed = false ∧ s.candidate k.line .routine none = some 1) ∧
    (∃ s : State, GuardPassed s ∧ s.sweep.state = .seeking ∧ s.sweep.once = false ∧ s.sweep.pointerOwed = true ∧ PassedOver s 20 ∧
      ¬ PassedOver s 21 ∧ ¬ Skipped s 21 ∧ s.candidate 21 .routine none = some 1) ∧
    (∃ s : State, MayStart s ∧ SweepOffered s ∧ s.seq.active = .empty ∧ s.sweep.state = .seeking ∧ s.sweep.once = true ∧
      (s.recordOf s.sweep.pointer).hazard = false ∧ (s.recordOf s.sweep.pointer).repetition = 0 ∧
      (s.unitAt (s.sweep.pointer / 256)).state = .ok ∧ s.candidate s.sweep.pointer .routine none = some 0) ∧
    (∃ s t : State, GuardPassed s ∧ NothingTaken s t ∧ s.sweep.once = true ∧ s.sweep.pointer < s.straps.lastLine) ∧
    (∃ s t : State, MayStart s ∧ SweepOffered s ∧ s.seq.active = .empty ∧ NothingTaken s t ∧ s.sweep.once = true ∧
      s.straps.lastLine ≤ s.sweep.pointer) ∧
    (∃ s t : State, MayStart s ∧ SweepOffered s ∧ s.seq.active = .empty ∧ NothingTaken s t ∧ s.sweep.onComplete = true ∧
      s.sweep.once = false) ∧
    (∃ s t : State, GuardPassed s ∧ NothingTaken s t ∧ s.sweep.state = .haltedComplete) :=
  ⟨by
    intro st h
    refine ⟨guarded (sweepIn st) [retestAt 1 30 1, retestAt 2 31 0, retestAt 3 32 0], [retestAt 1 30 1], [retestAt 3 32 0],
      retestAt 2 31 0, 0, ?_⟩
    fin_cases h <;> decide,
   ⟨guarded { sweepIn .seeking with pointerOwed := true } [retestAt 2 31 0], by decide⟩,
   ⟨walking.setSweep { walking.sweep with once := true }, by decide⟩,
   ⟨guarded { sweepIn .seeking with once := true } [], _, by decide,
     .inr (.inl ⟨rfl, rfl, .inl (by decide), _, .inl ⟨by decide, rfl⟩, rfl⟩), by decide, by decide⟩,
   ⟨lastLine.setSweep { lastLine.sweep with once := true }, _, by decide, by decide, by decide,
     .inr (.inl ⟨rfl, rfl, .inr (by decide), _, .inr ⟨by decide, rfl⟩, rfl⟩), by decide, by decide⟩,
   ⟨lastLine, _, by decide, by decide, by decide,
     .inl ⟨rfl, rfl, .inl (by decide), by decide, .inr ⟨rfl, rfl, fun line h h' => by rw [Nat.le_antisymm h' h]; decide, rfl⟩⟩, by decide,
     by decide⟩,
   ⟨guarded (sweepIn .haltedComplete) [retestAt 2 31 1], _, by decide, .inr (.inr ⟨rfl, by decide, rfl⟩), by decide⟩⟩

/-- What a claim request meets: FIRM ROUTINE conflicts to be awaited, no pair free, a full queue; and a sweep job refused. -/
theorem witness_AccessStart_claims :
    (∀ x ∈ [(orderBefore routinePeers [], some 2), (orderBefore (routinePeers.set 2 (.own { claimIn .held .demand with line := 9 })) [], some 0),
        (orderBefore firmPeers [], none), (orderBefore routinePeers fullQueue, some 2)],
      MayStart x.1 ∧ OrderReady x.1 [] [] (waitingOrder 9).order ∧ x.1.seq.active = .empty ∧ x.1.sweep.offer = false ∧
        x.1.candidate 7 .demand none = x.2) ∧
    (yieldsAsked (orderBefore routinePeers []) { bus := 0, line := 301 }).map (·.station) = [5, 5] ∧
    (∃ s : State, MayStart s ∧ SweepOffered s ∧ s.seq.active = .empty ∧ s.seq.staged = .empty ∧ s.sweep.state = .seeking ∧ s.sweep.once = false ∧
      NoneOverdue s ∧ ¬ PassedOver s s.sweep.pointer ∧ ¬ Skipped s s.sweep.pointer ∧
      s.candidate s.sweep.pointer .routine none = none) :=
  ⟨by decide +kernel, by decide, offerBefore firmPeers, by decide⟩

/-- An access start on an idle transmitter: an order and a sweep offer, on a quiet line and on a busy one. -/
theorem witness_AccessStart_idle :
    ∀ f ∈ [(fun s : State => s, true), (heard, false)],
      (∃ (s : State) (before after : List QueuedOrder) (o : Order), MayStart s ∧ OrderReady s before after o ∧ s.sweep.guardPassed = false ∧
        s.seq.active = .empty ∧ s.line.flight = none ∧ decide (SendsNow s) = f.2 ∧ s.candidate o.line o.urgency o.pref = some 0) ∧
      (∃ s : State, MayStart s ∧ SweepOffered s ∧ s.seq.active = .empty ∧ s.sweep.state = .seeking ∧ s.sweep.once = true ∧
        (s.recordOf s.sweep.pointer).hazard = false ∧ (s.unitAt (s.sweep.pointer / 256)).state = .ok ∧ s.line.flight = none ∧
        decide (SendsNow s) = f.2 ∧ s.candidate s.sweep.pointer .routine none = some 0) := by
  intro f h
  refine
    ⟨⟨f.1 (idleLine (ready [endedOrder 3 0, waitingOrder 9])), [endedOrder 3 0], [], orderOf [], ?_⟩,
      ⟨f.1 (idleLine (walking.setSweep { walking.sweep with once := true })), ?_⟩⟩
  all_goals fin_cases h <;> decide

theorem witness_OrderLimitsRunOut :
    (∃ (s : State) (before : List QueuedOrder) (after : List QueuedOrder) (o : Order), s.time.InRange ∧
      (s.seq.queue = before ++ { order := o, waiting := none } :: after) ∧ (∀ x ∈ before ++ after, x.order.tag ≠ o.tag) ∧
      (s.seq.completions.length < 16) ∧ (o.tag < 65536) ∧ (o.submitted + s.settings.accessWait * 1000 ≤ 4294967295000)) ∧
    (∃ (s : State) (j : Job), s.time.InRange ∧ (s.seq.active = Slot.job j) ∧ (j.phase = Phase.running) ∧
      ((j.order.stepAt j.step).kind = StepKind.hold) ∧ s.NothingToGrant ∧ ((j.order.stepAt (j.step + 1)).marked = false) ∧
      ((j.order.stepAt (j.step + 1)).kind = StepKind.hold)) ∧
    (∃ (s : State) (j : Job), s.time.InRange ∧ (s.seq.active = Slot.job j) ∧ (j.phase = Phase.running) ∧
      ((j.order.stepAt j.step).kind = StepKind.hold) ∧ s.NothingToGrant ∧ ((j.order.stepAt (j.step + 1)).marked = true)) ∧
    (∃ (s : State) (j : Job) (b : ℕ) (c : OwnClaim), OnItsBus s j b c ∧ s.time.InRange ∧ (j.phase = Phase.running) ∧
      ((j.order.stepAt j.step).kind = StepKind.hold) ∧ (s.head.state = HeadState.onBus) ∧ s.head.hazardFound = false ∧ PlainFrom j (j.step + 1) ∧
      s.NothingToGrant ∧ (j.order.stepAt (j.step + 1)).kind = .release) ∧
    (∃ (s : State) (j : Job) (b : ℕ) (c : OwnClaim), s.time.InRange ∧ (s.seq.active = Slot.job j) ∧ (j.phase = Phase.suspended) ∧
      s.NothingToGrant ∧ (j.bus = some b) ∧ (s.head.bus = some b) ∧ (s.head.state ≠ HeadState.offBus) ∧ s.entryAt b = .own c ∧ c.state = .held ∧
      (j.suspendedAt + s.settings.suspend * 1000 ≤ 4294967295000)) :=
  ⟨⟨ordered [waitingOrder 8, waitingOrder 9], [waitingOrder 8], [], orderOf [], by decide⟩,
   ⟨onHead [plainStep .connect, plainStep .hold, plainStep .hold] .running 2 (headIn .onBus .idle), jobOf [plainStep .connect, plainStep .hold,
     plainStep .hold] .running 2, by decide⟩,
   ⟨onHead [plainStep .connect, plainStep .hold, { kind := .verdict, marked := true, seconds := 0 }]
  .running 2 (headIn .onBus .idle), jobOf [plainStep .connect, plainStep .hold, { kind := .verdict, marked := true, seconds := 0 }]
  .running 2, by decide⟩,
   ⟨onHead [plainStep .connect, plainStep .hold, plainStep .release] .running 2 (headIn .onBus .idle),
     jobOf [plainStep .connect, plainStep .hold, plainStep .release] .running 2, 1, claimIn .held .demand, ⟨rfl, rfl, rfl, rfl, rfl, rfl⟩, by decide⟩,
   ⟨Tests.suspended, suspendedJob, 1, claimIn .held .demand, by decide⟩⟩

theorem witness_OrderLimits_access :
    ∃ (s t w : State) (j : Job), s.time.InRange ∧ s.seq.active = .job j ∧ j.phase = .access ∧ j.sweep = none ∧ s.seq.staged = .empty ∧
      (∀ q ∈ s.seq.queue, q.order.tag ≠ j.order.tag) ∧ s.claims.station = .active ∧ j.order.tag < 65536 ∧
      j.order.submitted + s.settings.accessWait * 1000 ≤ 4294967295000 ∧
      t = s.passClockTo (j.order.submitted + s.settings.accessWait * 1000) ∧ ClaimEndsUnheld t w :=
  ⟨claimsOf .contest, _, _, accessJob, by decide, rfl, rfl, rfl, rfl, by decide, rfl, by decide, by decide, rfl, contest_ends _ (by decide)⟩

theorem witness_SubmitOrderIsCheckedInOrder :
    (∃ (s : State) (o : OrderRecord), (o.wellFormed = true) ∧ s.TakesCommands ∧ (s.claims.station ≠ StationState.active)) ∧
    (∃ (s : State) (o : OrderRecord), (o.wellFormed = true) ∧ s.TakesCommands ∧ (s.claims.station = StationState.active) ∧
      (¬OrderFieldsInRange o s.straps.buses)) ∧
    (∃ (s : State) (o : OrderRecord), (o.wellFormed = true) ∧ s.TakesCommands ∧ (s.claims.station = StationState.active) ∧
      (OrderFieldsInRange o s.straps.buses) ∧ (¬StepListKeepsRules o)) ∧
    (∃ (s : State) (o : OrderRecord), (o.wellFormed = true) ∧ s.TakesCommands ∧ (s.claims.station = StationState.active) ∧
      (OrderFieldsInRange o s.straps.buses) ∧ (StepListKeepsRules o) ∧ ((s.unitAt (o.line / 256)).state = UnitState.absent)) ∧
    (∃ (s : State) (o : OrderRecord), (o.wellFormed = true) ∧ s.TakesCommands ∧ (s.claims.station = StationState.active) ∧
      (OrderFieldsInRange o s.straps.buses) ∧ (StepListKeepsRules o) ∧ ((s.unitAt (o.line / 256)).state ≠ UnitState.absent) ∧ (TagIsHeld s o.tag)) ∧
    (∃ (s : State) (o : OrderRecord), (o.wellFormed = true) ∧ s.TakesCommands ∧ (s.claims.station = StationState.active) ∧
      (OrderFieldsInRange o s.straps.buses) ∧ (StepListKeepsRules o) ∧ ((s.unitAt (o.line / 256)).state ≠ UnitState.absent) ∧
      (¬TagIsHeld s o.tag) ∧ (8 ≤ s.seq.queue.length)) ∧
    (∃ (s : State) (o : OrderRecord), (o.wellFormed = true) ∧ s.TakesCommands ∧ (s.claims.station = StationState.active) ∧
      (OrderFieldsInRange o s.straps.buses) ∧ (StepListKeepsRules o) ∧ ((s.unitAt (o.line / 256)).state ≠ UnitState.absent) ∧
      (¬TagIsHeld s o.tag) ∧ (s.seq.queue.length < 8)) :=
  ⟨⟨stationIn .isolated, goodOrder, by decide, by decide, by decide⟩,
   ⟨desk, orderRecord [entry 1 0 0, entry 6 0 601] 2, by decide, by decide, by decide, by decide⟩,
   ⟨desk, orderRecord [entry 1 0 0, entry 7 0 0, entry 2 0 0] 3, by decide, by decide, by decide, by decide, by decide⟩,
   ⟨(desk.setChain { idleChain with units := List.replicate 64 (unit .absent) }), goodOrder, by decide, by decide, by decide, by decide, by decide,
     by decide⟩,
   ⟨ordered [endedOrder 9 0], goodOrder, by decide, by decide, by decide, by decide, by decide, by decide, by decide⟩,
   ⟨ordered (List.replicate 8 (waitingOrder 1)), goodOrder, by decide, by decide, by decide, by decide, by decide, by decide, by decide, by decide⟩,
   ⟨ordered (List.replicate 7 (waitingOrder 1)), goodOrder, by decide, by decide, by decide, by decide, by decide, by decide, by decide, by decide⟩⟩

theorem witness_AcceptedOrderEntersTheQueue :
    ∃ (s : State) (o : OrderRecord) (before : List QueuedOrder) (after : List QueuedOrder) (steps : List Step), (o.wellFormed = true) ∧
      (s.claims.station = StationState.active) ∧ (OrderFieldsInRange o s.straps.buses) ∧ (StepListKeepsRules o) ∧
      ((s.unitAt (o.line / 256)).state ≠ UnitState.absent) ∧ (¬TagIsHeld s o.tag) ∧ (s.seq.queue.length < 8) ∧ (s.seq.queue = before ++ after) ∧
      (∀ x ∈ before, x.order.urgency = Urgency.priority) ∧ (∀ x ∈ after, x.order.urgency = Urgency.demand) ∧
      (some steps = List.mapM (fun e => Option.map (fun k => { kind := k, marked := e.mark != 0, seconds := if e.kind = 6 then e.seconds else 0 }) [StepKind.connect, StepKind.foreign, StepKind.resist, StepKind.capacity, StepKind.verdict, StepKind.hold, StepKind.release][e.kind - 1]?) (List.take o.count o.entries)) :=
  ⟨ordered [waitingOrder 1], goodOrder, [], [waitingOrder 1], goodOrderSteps, by decide, by decide, by decide, by decide, by decide, by decide,
    by decide, by decide, by decide, by decide, by decide⟩

theorem witness_CancelAndResumeAnswerByWhereTheOrderStands :
    (∃ (s : State) (tag : ℕ) (before : List QueuedOrder) (after : List QueuedOrder) (o : Order), s.TakesCommands ∧ (tag < 65536) ∧ (o.tag = tag) ∧
      (s.seq.queue = before ++ { order := o, waiting := none } :: after) ∧ (∀ x ∈ before ++ after, x.order.tag ≠ tag) ∧
      (s.seq.completions.length < 16)) ∧
    (∃ (s : State) (tag : ℕ) (before : List QueuedOrder) (after : List QueuedOrder) (o : Order), s.TakesCommands ∧ (tag < 65536) ∧ (o.tag = tag) ∧
      (s.seq.queue = before ++ { order := o, waiting := none } :: after) ∧ (∀ x ∈ before ++ after, x.order.tag ≠ tag) ∧
      (16 ≤ s.seq.completions.length)) ∧
    (∃ (s : State) (tag : ℕ) (j : Job) (b : ℕ) (c : OwnClaim), s.TakesCommands ∧ (tag < 65536) ∧ (s.seq.queue = []) ∧
      (s.seq.active = Slot.job j) ∧ (j.sweep = none) ∧ (j.order.tag = tag) ∧ (j.phase = .running) ∧
      s.NothingToGrant ∧ (j.bus = some b) ∧ (s.head.bus = some b) ∧ (s.head.state = .foreign) ∧ s.entryAt b = .own c ∧ c.state = .held) ∧
    (∃ (s : State) (tag : ℕ) (j : Job), s.TakesCommands ∧ (tag < 65536) ∧ (s.seq.queue = []) ∧ (s.seq.active = Slot.job j) ∧ (j.sweep = none) ∧
      (j.order.tag = tag) ∧ (j.phase = Phase.releasing)) ∧
    (∃ (s : State) (tag : ℕ) (j : Job), s.TakesCommands ∧ (tag < 65536) ∧ (s.seq.queue = []) ∧ (s.seq.active = Slot.job j) ∧ (j.sweep = none) ∧
      (j.order.tag = tag) ∧ (j.phase = Phase.suspended) ∧ ((j.order.stepAt j.step).kind = StepKind.hold) ∧ s.NothingToGrant) ∧
    (∃ (s : State) (tag : ℕ) (j : Job) (b : ℕ) (c : OwnClaim), OnItsBus s j b c ∧ s.TakesCommands ∧ (tag < 65536) ∧ (s.seq.queue = []) ∧
      (j.sweep = none) ∧ (j.order.tag = tag) ∧ (j.phase = Phase.suspended) ∧ (s.head.state = .onBus) ∧ s.head.hazardFound = false ∧
      PlainFrom j j.step ∧ s.NothingToGrant) ∧
    (∃ (s : State) (tag : ℕ) (j : Job), s.TakesCommands ∧ (tag < 65536) ∧ (s.seq.queue = []) ∧ (s.seq.active = Slot.job j) ∧ (j.sweep = none) ∧
      (j.order.tag = tag) ∧ (j.phase ≠ Phase.suspended)) ∧
    (∃ (s : State) (tag : ℕ), s.TakesCommands ∧ (tag < 65536) ∧ (∃ q ∈ s.seq.queue, q.order.tag = tag ∧ q.waiting ≠ none) ∧ (∀ q ∈ s.seq.queue,
      q.order.tag = tag → q.waiting ≠ none)) ∧
    (∃ (s : State) (tag : ℕ), s.TakesCommands ∧ (tag < 65536) ∧ (¬TagIsHeld s tag)) :=
  ⟨⟨ordered [waitingOrder 8, waitingOrder 9], 9, [waitingOrder 8], [], orderOf [], by decide⟩,
   ⟨completed 16 [waitingOrder 9, waitingOrder 8], 9, [], [waitingOrder 8], orderOf [], by decide⟩,
   ⟨onHead (stepsOf .foreign) .running 2 (headIn .foreign .sampling), 9, jobOf (stepsOf .foreign) .running 2, 1, claimIn .held .demand, by decide⟩,
   ⟨withJob desk (jobOf [] .releasing 2), 9, jobOf [] .releasing 2, by decide⟩,
   ⟨Tests.suspended, 9, suspendedJob, by decide⟩,
   ⟨Tests.suspended, 9, suspendedJob, 1, claimIn .held .demand, ⟨rfl, rfl, rfl, rfl, rfl, rfl⟩, by decide⟩,
   ⟨withJob desk (jobOf [] .releasing 2), 9, jobOf [] .releasing 2, by decide⟩,
   ⟨ordered [endedOrder 9 0], 9, by decide⟩,
   ⟨desk, 65535, by decide⟩⟩

theorem witness_Cancel_access :
    ∃ (s w : State) (j : Job), s.TakesCommands ∧ s.seq.queue = [] ∧ s.seq.active = .job j ∧ j.sweep = none ∧ j.order.tag < 65536 ∧
      j.phase = .access ∧ s.seq.staged = .empty ∧ ClaimEndsUnheld s w :=
  ⟨claimsOf .contest, _, accessJob, by decide, rfl, rfl, rfl, by decide, rfl, rfl, contest_ends _ (by decide)⟩

/-- Where CANCEL finds an order in CONNECTING or READY, in each slot: no connect running, its request waiting, its settle, and one on the chain. -/
theorem witness_Cancel_chain :
    ∀ id ∈ [SlotId.active, .staged],
      (∃ (s : State) (j : Job) (c : OwnClaim), s.TakesCommands ∧ s.seq.queue = [] ∧ s.slot id = .job j ∧
        (id = .staged → s.seq.active.tag? ≠ some 9) ∧ j.sweep = none ∧ j.order.tag = 9 ∧ j.phase = .ready ∧
        (id = .staged ∨ s.head.bus ≠ some 1 ∨ s.head.state = .offBus) ∧ j.bus = some 1 ∧ j.nothingOperated = false ∧ s.entryAt 1 = .own c ∧
        c.state = .held ∧ (∀ o ∈ s.chain.ops, o.pair ≠ { bus := 1, line := j.order.line }) ∧ s.ChainIdle) ∧
      (∃ (s : State) (j : Job) (o : ChainOp), s.TakesCommands ∧ s.seq.queue = [] ∧ s.slot id = .job j ∧ j.phase = .connecting ∧
        s.opOf pair = some o ∧ o.kind = .connect ∧ .operate pair ∈ s.chain.jobGroup ∧ s.chain.exchange.isSome = true) ∧
      (∃ (s : State) (j : Job) (o : ChainOp), s.TakesCommands ∧ s.seq.queue = [] ∧ s.slot id = .job j ∧ j.phase = .connecting ∧
        s.opOf pair = some o ∧ o.kind = .connect ∧ o.stage = .settling 33000 ∧ s.ChainIdle) ∧
      (∃ (s : State) (j : Job) (o : ChainOp), s.TakesCommands ∧ s.seq.queue = [] ∧ s.slot id = .job j ∧ j.phase = .connecting ∧
        s.opOf pair = some o ∧ o.kind = .connect ∧ o.stage = .reading ∧ s.chain.jobGroup = [] ∧ s.NothingToGrant) := by
  intro id h
  refine ⟨⟨connectIn id .ready [] [] none, jobOf [] .ready 1, claimIn .held .demand, ?_⟩,
    ⟨connectIn id .connecting [opIn .connect 1 .acting] [.operate pair] (some (asked (.poll 0))), jobOf [] .connecting 1,
      opIn .connect 1 .acting, ?_⟩,
    ⟨connectIn id .connecting [opIn .connect 1 (.settling 33000)] [] none, jobOf [] .connecting 1, opIn .connect 1 (.settling 33000), ?_⟩,
    ⟨connectIn id .connecting [opIn .connect 2 .reading] [] (some (asked (.readLine pair))), jobOf [] .connecting 1,
      opIn .connect 2 .reading, ?_⟩⟩ <;> fin_cases h <;> decide

/-- An order in the staged slot in ACCESS, releasing, or ended with its record waiting; and the places of a known order that is not suspended. -/
theorem witness_Cancel_staged :
    (∃ (s w : State) (j : Job), s.TakesCommands ∧ s.seq.queue = [] ∧ s.seq.staged = .job j ∧ s.seq.active.tag? ≠ some 9 ∧ j.sweep = none ∧
      j.order.tag = 9 ∧ j.phase = .access ∧ SlotsStand s .staged ∧ ClaimEndsUnheld s w) ∧
    (∃ (s : State) (j : Job), s.TakesCommands ∧ s.seq.queue = [] ∧ s.seq.staged = .job j ∧ s.seq.active.tag? ≠ some 9 ∧ j.sweep = none ∧
      j.order.tag = 9 ∧ j.phase = .releasing) ∧
    (∃ (s : State) (w : Waiting), s.TakesCommands ∧ s.seq.queue = [] ∧ s.seq.active.tag? ≠ some 9 ∧ s.seq.staged = .donePending w ∧
      w.record.tag = 9) ∧
    (∀ s ∈ [ordered [waitingOrder 9], ordered [endedOrder 9 1], desk.setSlot .staged (.job accessJob),
        desk.setSlot .active (.donePending (recordOf 9 1))],
      s.TakesCommands ∧ TagIsHeld s 9 ∧ (s.seq.active.job?).isNone = true) :=
  ⟨⟨(claimsOf .contest).setSeq { desk.seq with staged := .job accessJob }, _, accessJob, by decide, rfl, rfl, by decide, rfl, rfl, rfl,
      ⟨by decide, fun _ _ h => by cases h⟩, contest_ends _ (by decide)⟩,
   ⟨desk.setSlot .staged (.job (jobOf [] .releasing 2)), jobOf [] .releasing 2, by decide⟩,
   ⟨desk.setSlot .staged (.donePending (recordOf 9 1)), recordOf 9 1, by decide⟩,
   by decide⟩

theorem witness_FinishedReadsRemoveTheOldest :
    (∃ (s : State) (c : Completion) (rest : List Completion), s.TakesCommands ∧ (s.seq.completions = c :: rest)) ∧
    (∃ (s : State) (r : Report) (rest : List Report), s.TakesCommands ∧ (s.reports.queue = r :: rest) ∧ (∀ (bytes : List Byte),
      r.content = ReportContent.heard bytes → bytes.length = 8)) ∧
    (∃ (s : State) (t : Transaction), (s.port = some t) ∧ (t.reading = Reading.nothing)) ∧
    (∃ (s : State) (t : Transaction) (c : Completion) (rest : List Completion) (before : List QueuedOrder) (after : List QueuedOrder) (o : Order) (w : Waiting), (s.port = some t) ∧ (t.reading = Reading.completion) ∧ (s.seq.completions = c :: rest) ∧ (s.seq.active = Slot.empty) ∧ (s.seq.staged = Slot.empty) ∧ (s.seq.queue = before ++ { order := o, waiting := some w } :: after) ∧ (∀ x ∈ before ++ after, ∀ (y : Waiting), x.waiting = some y → w.ended < y.ended) ∧ (rest.length < 16)) ∧
    (∃ (s : State) (t : Transaction) (gone : Bool), (s.port = some t) ∧ (t.reading = Reading.report gone)) :=
  ⟨⟨completed 1 [], (recordOf 1 0).record, [], by decide⟩,
   ⟨reported 1, report, [], by decide, by decide, by rintro _ ⟨⟩⟩,
   ⟨desk.setPort (some (reading .nothing)), reading .nothing, by decide⟩,
   ⟨(completed 16 [waitingOrder 8, endedOrder 2 7, endedOrder 3 8]).setPort (some (reading .completion)), reading .completion,
     (recordOf 1 0).record, List.replicate 15 (recordOf 1 0).record, [waitingOrder 8], [endedOrder 3 8], { orderOf [] with tag := 2 },
     recordOf 2 7, by decide⟩,
   ⟨(reported 1).setPort (some (reading (.report false))), reading (.report false), false, by decide⟩⟩

theorem witness_FinishedReads_heard : ∃ (r : Report) (bytes : List Byte), r.content = .heard bytes ∧ bytes.length = 8 :=
  ⟨{ time := 5, content := .heard (List.replicate 8 0) }, _, rfl, rfl⟩

theorem witness_BucketDecaysByWholePeriods :
    (∃ (r r' : LineRecord) (d : Delivery) (t period : Nat), 0 < period ∧ r' = r.judged d 0 t period ∧ t < r.stamp) ∧
    (∃ (r r' : LineRecord) (d : Delivery) (t period k : Nat), 0 < period ∧ r' = r.judged d 0 t period ∧
      r.stamp ≤ t ∧ k * period ≤ t - r.stamp ∧ t - r.stamp < (k + 1) * period) :=
  ⟨⟨bucket 5 101, _, delivery .loop, 100, 60, by decide, rfl, by decide⟩,
   ⟨bucket 5 100, _, delivery .loop, 220, 60, 2, by decide, rfl, by decide, by decide, by decide⟩⟩

theorem witness_AppliedVerdictOpensAndMovesTickets :
    (∃ (s : State), (recordsWf s.records.table = true) ∧ (s.records.clear.isSome = true)) ∧
    (∃ (s : State) (d : Delivery), (recordsWf s.records.table = true) ∧ (s.records.clear = none) ∧ ((s.recordOf d.line).ticket = none) ∧
      ((s.recordOf d.line).pending = false) ∧ (d.verdict ≠ Verdict.hazard) ∧ raised s d < s.settings.openLevel) ∧
    (∃ (s : State) (d : Delivery), (recordsWf s.records.table = true) ∧ (s.records.clear = none) ∧ ((s.recordOf d.line).ticket = none) ∧
      ((s.recordOf d.line).pending = true) ∧ d.verdict = .clear ∧ raised s d ≤ s.settings.clearLevel) ∧
    (∀ s ∈ [fullTickets .held true, fullTickets .held false], ∃ (d : Delivery), (recordsWf s.records.table = true) ∧
      (s.records.clear = none) ∧ ((s.recordOf d.line).ticket = none) ∧ d.verdict = .hazard ∧ 128 ≤ s.tickets.table.length ∧
      ∀ x ∈ s.tickets.table, x.state ≠ .closed) ∧
    (∃ (s : State) (d : Delivery), (recordsWf s.records.table = true) ∧ (s.records.clear = none) ∧ ((s.recordOf d.line).ticket = none) ∧
      ((s.recordOf d.line).pending = false) ∧ (d.verdict = Verdict.hazard ∨ s.settings.openLevel ≤ raised s d) ∧
      (s.tickets.table.length < 128) ∧ (∀ x ∈ s.tickets.table, x.ident % 4096 ≠ if s.tickets.serial < 4095 then s.tickets.serial + 1 else 1)) ∧
    (∃ (s : State) (d : Delivery) (before after : List Ticket) (x : Ticket), (recordsWf s.records.table = true) ∧ (s.records.clear = none) ∧
      ((s.recordOf d.line).ticket = none) ∧ ((s.recordOf d.line).pending = true) ∧ d.verdict = .marginal ∧
      128 ≤ s.tickets.table.length ∧ s.tickets.table = before ++ x :: after ∧ x.state = .closed ∧ (∀ y ∈ before, y.state ≠ .closed) ∧
      ∀ y ∈ before ++ after, y.ident % 4096 ≠ if s.tickets.serial < 4095 then s.tickets.serial + 1 else 1) ∧
    (∃ (s : State) (d : Delivery) (before : List Ticket) (after : List Ticket) (t : Ticket), (recordsWf s.records.table = true) ∧
      (s.records.clear = none) ∧ ((s.recordOf d.line).ticket = some t.ident) ∧ (s.tickets.table = before ++ t :: after) ∧ (∀ x ∈ before ++ after,
      x.ident ≠ t.ident) ∧ (t.state = TicketState.opened ∨ t.state = TicketState.held) ∧ (d.verdict ≠ Verdict.clear)) ∧
    (∃ (s : State) (d : Delivery) (before : List Ticket) (after : List Ticket) (t : Ticket), (recordsWf s.records.table = true) ∧
      (s.records.clear = none) ∧ ((s.recordOf d.line).ticket = some t.ident) ∧ (s.tickets.table = before ++ t :: after) ∧ (∀ x ∈ before ++ after,
      x.ident ≠ t.ident) ∧ (t.state = TicketState.opened ∨ t.state = TicketState.held) ∧ (d.verdict = Verdict.clear) ∧
      raised s d ≤ s.settings.clearLevel) ∧
    (∃ (s : State) (d : Delivery) (before : List Ticket) (after : List Ticket) (t : Ticket), (recordsWf s.records.table = true) ∧
      (s.records.clear = none) ∧ ((s.recordOf d.line).ticket = some t.ident) ∧ (s.tickets.table = before ++ t :: after) ∧ (∀ x ∈ before ++ after,
      x.ident ≠ t.ident) ∧ (t.state = TicketState.cleared) ∧ (d.verdict = Verdict.hazard ∨ s.settings.openLevel ≤ raised s d)) :=
  ⟨⟨clearing, by decide⟩,
   ⟨desk, delivery .loop, by decide⟩,
   ⟨fullTickets .held true, delivery .clear, by decide⟩,
   fun s hs => ⟨delivery .hazard, by revert s; decide +kernel⟩,
   ⟨withTicket 4095 600 .closed, delivery .hazard, by decide⟩,
   ⟨fullTickets .closed true, delivery .marginal, [ticketIn 200 300 .opened],
     (List.range 126).map (fun n => ticketIn (300 + n) (310 + n) .held), ticketIn 201 301 .closed, by decide +kernel⟩,
   ⟨withTicket 3 7 .opened, delivery .loop, [], [], ticketIn 3 7 .opened, by decide⟩,
   ⟨withTicket 3 7 .held, delivery .clear, [], [], ticketIn 3 7 .held, by decide⟩,
   ⟨withTicket 3 7 .cleared, delivery .hazard, [], [], ticketIn 3 7 .cleared, by decide⟩⟩

theorem witness_TicketsAreRefused :
    (∃ (s : State) (i : Nat), s.TakesCommands ∧ i < 65536 ∧ s.records.clear.isSome = true ∧ s.tickets.table = []) ∧
    (∃ (s : State) (i : Nat), s.TakesCommands ∧ i < 65536 ∧ s.records.clear = none ∧ i % 4096 = 0 ∧ s.tickets.table = []) ∧
    (∃ (s : State) (i : Nat), s.TakesCommands ∧ i < 65536 ∧ s.records.clear = none ∧ i % 4096 ≠ 0 ∧ i / 4096 ≠ s.straps.station) ∧
    (∃ (s : State) (i : Nat), s.TakesCommands ∧ i < 65536 ∧ s.records.clear = none ∧ i % 4096 ≠ 0 ∧ i / 4096 = s.straps.station ∧
      ∀ x ∈ s.tickets.table, x.ident ≠ i) :=
  ⟨⟨desk.setRecords { desk.records with clear := some 1 }, 8194, by decide⟩,
   ⟨desk, 8192, by decide⟩,
   ⟨desk, 12287 + 1 + 4095, by decide⟩,
   ⟨withTicket 3 7 .opened, 8194, by decide⟩⟩

theorem witness_SweepOutcomes :
    (∀ line due, (testing line due).sweep.state = .testing ∧ (testing line due).sweep.once = false ∧
      (testing line due).sweep.stopPending = false ∧ (testing line due).sweep.due = some due) ∧
    ((testing 510 200).sweep.onError = true ∧ (testing 510 200).sweep.pointer < (testing 510 200).straps.lastLine) ∧
    (testing 511 200).straps.lastLine ≤ (testing 511 200).sweep.pointer ∧
    (∃ s : State, s.sweep.state = .testing ∧ s.sweep.stopPending = true ∧ s.straps.lastLine ≤ s.sweep.pointer ∧ s.sweep.onComplete = true) ∧
    (∃ s : State, s.sweep.state = .testing ∧ s.sweep.stopPending = false ∧ s.sweep.once = true ∧ s.sweep.pointer < s.straps.lastLine) ∧
    (∃ s : State, s.sweep.state = .testing ∧ s.sweep.stopPending = false ∧ s.sweep.once = false ∧ s.straps.lastLine ≤ s.sweep.pointer ∧
      s.sweep.onComplete = true) ∧
    (∃ s : State, s.sweep.state = .haltedComplete ∧ s.sweep.stopPending = true) :=
  ⟨fun _ _ => ⟨rfl, rfl, rfl, rfl⟩, by decide, by decide,
   ⟨desk.setSweep { (testing 511 200).sweep with onComplete := true, stopPending := true }, by decide⟩,
   ⟨desk.setSweep { (testing 510 200).sweep with once := true }, by decide⟩,
   ⟨desk.setSweep { (testing 511 200).sweep with onComplete := true }, by decide⟩,
   ⟨desk.setSweep { sweepIn .haltedComplete with stopPending := true }, by decide⟩⟩

theorem witness_StoresAreReadWithoutChange :
    (∃ (s : State) (line : ℕ), s.TakesCommands ∧ (line < 65536) ∧ (s.records.clear.isSome = true)) ∧
    (∃ (s : State) (line : ℕ), s.TakesCommands ∧ (line < 65536) ∧ (s.records.clear = none) ∧
      (line / 256 < s.straps.base ∨ s.straps.base + s.straps.units ≤ line / 256)) ∧
    (∃ (s : State) (line : ℕ) (level stamp : ℕ), s.TakesCommands ∧ (line < 65536) ∧ (s.records.clear = none) ∧ (s.straps.base ≤ line / 256) ∧
      (line / 256 < s.straps.base + s.straps.units) ∧ 0 < s.settings.decay ∧
      DecaysTo (s.recordOf line) (s.time.clock / 1000 / 60) s.settings.decay level stamp) ∧
    (∃ (s : State) (ident : ℕ), s.TakesCommands ∧ (ident < 65536) ∧ (s.records.clear = none) ∧ (ident % 4096 = 0)) ∧
    (∃ (s : State) (ident : ℕ), s.TakesCommands ∧ (ident < 65536) ∧ (s.records.clear = none) ∧ (ident % 4096 ≠ 0) ∧
      (ident / 4096 ≠ s.straps.station)) ∧
    (∃ (s : State) (ident : ℕ), s.TakesCommands ∧ (ident < 65536) ∧ (s.records.clear = none) ∧ (ident % 4096 ≠ 0) ∧
      (ident / 4096 = s.straps.station) ∧ (∀ t ∈ s.tickets.table, t.ident ≠ ident)) ∧
    (∃ (s : State) (ident : ℕ) (before : List Ticket) (after : List Ticket) (t : Ticket), s.TakesCommands ∧ (ident < 65536) ∧
      (s.records.clear = none) ∧ (ident % 4096 ≠ 0) ∧ (ident / 4096 = s.straps.station) ∧ (s.tickets.table = before ++ t :: after) ∧
      (t.ident = ident) ∧ (∀ x ∈ before, x.ident ≠ ident)) ∧
    (∃ (s : State) (place : ℕ), s.TakesCommands ∧ (place < 256) ∧ (s.records.clear = none) ∧ (127 < place)) ∧
    (∃ (s : State) (place : ℕ), s.TakesCommands ∧ (place < 256) ∧ (s.records.clear = none) ∧ (place ≤ 127) ∧ (s.tickets.table.length ≤ place)) ∧
    (∃ (s : State) (place : ℕ) (before : List Ticket) (after : List Ticket) (t : Ticket), s.TakesCommands ∧ (place < 256) ∧
      (s.records.clear = none) ∧ (place ≤ 127) ∧ (s.tickets.table = before ++ t :: after) ∧ (before.length = place)) ∧
    (∃ (s : State), s.TakesCommands ∧ (s.records.clear = none) ∧ (s.tickets.cache.length ≤ 32)) :=
  ⟨⟨clearing, 7, by decide⟩,
   ⟨desk, 512, by decide⟩,
   ⟨desk, 511, 0, 0, by decide, by decide, by decide, by decide, by decide, by decide, ⟨by decide, fun k _ h _ => by
     have h0 : (desk.recordOf 511).stamp = 0 ∧ (desk.recordOf 511).level = 0 ∧ desk.time.clock / 1000 / 60 = 0 := by decide
     simp [h0.2.1, h0.2.2]⟩⟩,
   ⟨desk, 8192, by decide⟩,
   ⟨desk, 12289, by decide⟩,
   ⟨desk, 8193, by decide⟩,
   ⟨withTicket 4095 7 .closed, 12287, [], [], ticketIn 4095 7 .closed, by decide⟩,
   ⟨desk, 128, by decide⟩,
   ⟨desk, 127, by decide⟩,
   ⟨withTicket 3 7 .cleared, 0, [], [], ticketIn 3 7 .cleared, by decide⟩,
   ⟨desk, by decide⟩⟩

theorem witness_ClassesAreSetAndRecordsCleared :
    (∃ (s : State) (first : ℕ) (count : ℕ) (repetition : ℕ) (offset : ℕ) (c : Instr), (recordsWf s.records.table = true) ∧ s.TakesCommands ∧
      (first < 65536) ∧ (count < 65536) ∧ (repetition < 256) ∧ (offset < 256) ∧ (c = Instr.setLineClass first count repetition offset) ∧
      (s.records.clear = none) ∧ ((1 ≤ count ∧ count ≤ 4096) ∧ (repetition = 0 ∧ offset = 0 ∨ repetition ∈ [1, 2, 4, 8, 16, 32, 64] ∧
      offset < repetition)) ∧ (s.straps.base ≤ first / 256 ∧ (first + count - 1) / 256 < s.straps.base + s.straps.units)) ∧
    (∃ (s : State), (recordsWf s.records.table = true) ∧ s.TakesCommands ∧
      (s.records.clear.isSome = true ∨ s.sweep.state ≠ SweepState.stopped ∨ s.seq.active ≠ Slot.empty ∨ s.seq.staged ≠ Slot.empty)) ∧
    (∃ (s : State), (recordsWf s.records.table = true) ∧ s.TakesCommands ∧ (s.records.clear = none) ∧ (s.sweep.state = SweepState.stopped) ∧
      (s.seq.active = Slot.empty) ∧ (s.seq.staged = Slot.empty)) ∧
    (∃ (s : State) (done : ℕ), (recordsWf s.records.table = true) ∧ (s.records.clear = some done)) :=
  ⟨⟨desk, 7, 505, 64, 63, .setLineClass 7 505 64 63, by decide⟩,
   ⟨sweeping .interval, by decide⟩,
   ⟨desk, by decide⟩,
   ⟨clearing, 1, by decide⟩⟩

theorem witness_TicketsAreAssignedAndClosed :
    (∃ (s : State) (before : List Ticket) (after : List Ticket) (t : Ticket), (s.tickets.table = before ++ t :: after) ∧ (∀ x ∈ before ++ after,
      x.ident ≠ t.ident) ∧ (t.ident < 65536) ∧ s.TakesCommands ∧ (s.records.clear = none) ∧ (t.ident % 4096 ≠ 0) ∧
      (t.ident / 4096 = s.straps.station) ∧ (t.state = TicketState.opened)) ∧
    (∃ (s : State) (before : List Ticket) (after : List Ticket) (t : Ticket), (s.tickets.table = before ++ t :: after) ∧ (∀ x ∈ before ++ after,
      x.ident ≠ t.ident) ∧ (t.ident < 65536) ∧ s.TakesCommands ∧ (s.records.clear = none) ∧ (t.ident % 4096 ≠ 0) ∧
      (t.ident / 4096 = s.straps.station) ∧ (t.state ≠ TicketState.closed)) ∧
    (∃ (s : State) (before : List Ticket) (after : List Ticket) (t : Ticket), (s.tickets.table = before ++ t :: after) ∧ (∀ x ∈ before ++ after,
      x.ident ≠ t.ident) ∧ (t.ident < 65536) ∧ s.TakesCommands ∧ (s.records.clear = none) ∧ (t.ident % 4096 ≠ 0) ∧
      (t.ident / 4096 = s.straps.station) ∧ (t.state = TicketState.closed)) ∧
    (∃ (s : State) (before : List Ticket) (after : List Ticket) (t : Ticket) (deadline : ℕ), (s.tickets.table = before ++ t :: after) ∧
      (∀ x ∈ before ++ after, x.ident ≠ t.ident) ∧ (t.ident < 65536) ∧ s.time.InRange ∧ (t.state = TicketState.cleared) ∧
      (t.deadline = some deadline) ∧ (deadline * 1000 ≤ 4294967295000)) ∧
    (∃ (s : State) (before : List Ticket) (after : List Ticket) (t : Ticket) (i : ℕ) (c : Instr), (s.tickets.table = before ++ t :: after) ∧
      (∀ x ∈ before ++ after, x.ident ≠ t.ident) ∧ (t.ident < 65536) ∧ (c = Instr.assignTicket i ∨ c = Instr.closeTicket i) ∧ s.TakesCommands ∧
      (i < 65536) ∧ (s.records.clear = none) ∧ (i % 4096 ≠ 0) ∧ (i / 4096 = s.straps.station) ∧ (∀ x ∈ s.tickets.table, x.ident ≠ i)) :=
  ⟨⟨withTicket 3 7 .opened, [], [], ticketIn 3 7 .opened, by decide⟩,
   ⟨withTicket 3 7 .cleared, [], [], ticketIn 3 7 .cleared, by decide⟩,
   ⟨withTicket 3 7 .closed, [], [], ticketIn 3 7 .closed, by decide⟩,
   ⟨withTicket 3 7 .cleared, [], [], ticketIn 3 7 .cleared, 60, by decide⟩,
   ⟨withTicket 3 7 .opened, [], [], ticketIn 3 7 .opened, 8194, .assignTicket 8194, by decide⟩⟩

theorem witness_SweepFallsDueByTheClock :
    (∃ (s : State) (d : ℕ), s.time.InRange ∧ (s.sweep.due = some d) ∧ (d ≤ 4294967295000) ∧ (s.sweep.state = SweepState.interval)) ∧
    (∃ (s : State) (d : ℕ), s.time.InRange ∧ (s.sweep.due = some d) ∧ (d ≤ 4294967295000) ∧ (s.sweep.state = SweepState.haltedComplete) ∧
      (s.sweep.offer = false) ∧ (s.sweepInSlot = false) ∧ (∀ x ∈ s.tickets.table, ∀ (m : ℕ),
      x.retestDue = some m → (s.passClockTo d).time.clock / 1000 < m)) ∧
    (∃ (s : State) (d : ℕ), s.time.InRange ∧ (s.sweep.due = some d) ∧ (d + s.settings.guard * 1000 ≤ 4294967295000) ∧ (s.sweep.offer = true) ∧
      (s.sweep.guardPassed = false)) :=
  ⟨⟨sweeping .interval, 200, by decide⟩,
   ⟨sweeping .haltedComplete, 200, by decide⟩,
   ⟨offered, 200, by decide⟩⟩

theorem witness_SweepCommandsMoveTheSweep :
    (∃ (s : State) (r : SweepStartRecord), s.TakesCommands ∧ (r.wellFormed = true) ∧ (s.records.clear.isSome = true)) ∧
    (∃ (s : State) (r : SweepStartRecord), s.TakesCommands ∧ (r.wellFormed = true) ∧ (s.records.clear = none) ∧
      (s.sweep.state ≠ SweepState.stopped)) ∧
    (∃ (s : State) (r : SweepStartRecord), s.TakesCommands ∧ (r.wellFormed = true) ∧ (s.records.clear = none) ∧
      (s.sweep.state = SweepState.stopped) ∧ (16383 < r.start) ∧ (r.start ≠ 65535)) ∧
    (∃ (s : State) (r : SweepStartRecord), s.TakesCommands ∧ (r.wellFormed = true) ∧ (s.records.clear = none) ∧
      (s.sweep.state = SweepState.stopped) ∧ (r.start ≤ 16383) ∧ (r.start / 256 < s.straps.base ∨ s.straps.base + s.straps.units ≤ r.start / 256)) ∧
    (∃ (s : State) (r : SweepStartRecord), s.TakesCommands ∧ (r.wellFormed = true) ∧ (s.records.clear = none) ∧
      (s.sweep.state = SweepState.stopped) ∧ (r.start = 65535 ∨ r.start ≤ 16383 ∧ s.straps.base ≤ r.start / 256 ∧
      r.start / 256 < s.straps.base + s.straps.units)) ∧
    (∃ (s : State), s.TakesCommands ∧ (s.sweep.state = SweepState.stopped)) ∧
    (∃ (s : State), s.TakesCommands ∧
      (s.sweep.state = SweepState.interval ∨ s.sweep.state = SweepState.seeking ∨ s.sweep.state = SweepState.haltedError ∨ s.sweep.state = SweepState.haltedComplete ∧ (s.sweep.offer = true ∨ s.sweepInSlot = false))) ∧
    (∃ (s : State), s.TakesCommands ∧ (s.sweep.state = SweepState.testing ∨ s.sweep.state = SweepState.haltedComplete ∧ s.sweep.offer = false ∧
      s.sweepInSlot = true)) ∧
    (∃ (s : State), s.TakesCommands ∧ (s.sweep.stopPending = true ∨ s.sweep.state ≠ SweepState.haltedError ∧
      s.sweep.state ≠ SweepState.haltedComplete)) ∧
    (∃ (s : State), s.TakesCommands ∧ (s.sweep.stopPending = false) ∧ (s.sweep.state = SweepState.haltedError) ∧
      (s.sweep.pointer + 1 < (s.straps.base + s.straps.units) * 256)) ∧
    (∃ (s : State), s.TakesCommands ∧ (s.sweep.stopPending = false) ∧ (s.sweep.state = SweepState.haltedError) ∧
      (s.sweep.pointer + 1 = (s.straps.base + s.straps.units) * 256) ∧ (s.sweep.onComplete = true) ∧ (s.sweep.once = false)) ∧
    (∃ (s : State), s.TakesCommands ∧ (s.sweep.stopPending = false) ∧ (s.sweep.state = SweepState.haltedComplete) ∧ (∃ j,
      s.seq.active = Slot.job j ∧ j.sweep.isSome = true)) ∧
    (∃ (s : State) (d : ℕ), s.TakesCommands ∧ (s.sweep.stopPending = false) ∧ (s.sweep.state = SweepState.haltedComplete) ∧
      (s.sweepInSlot = false) ∧ (s.sweep.offer = false) ∧ (s.sweep.due = some d) ∧ (s.time.clock < d)) :=
  ⟨⟨clearing, startRecord 7 5, by decide⟩,
   ⟨sweeping .interval, startRecord 7 5, by decide⟩,
   ⟨desk, startRecord 65534 5, by decide⟩,
   ⟨desk, startRecord 512 5, by decide⟩,
   ⟨desk, startRecord 511 0, by decide⟩,
   ⟨desk, by decide⟩,
   ⟨sweeping .haltedComplete, by decide⟩,
   ⟨sweeping .testing, by decide⟩,
   ⟨sweeping .testing, by decide⟩,
   ⟨haltedAt 510, by decide⟩,
   ⟨haltedAt 511, by decide⟩,
   ⟨withJob (sweeping .haltedComplete) sweepJob, by decide, by decide, by decide, ⟨_, rfl, by decide⟩⟩,
   ⟨sweeping .haltedComplete, 200, by decide⟩⟩

theorem witness_ReportsQueueAndErrorsAreCaptured :
    (∃ (s : State), (s.reports.queue.length < 64)) ∧
    (∃ (s : State) (t : Transaction) (gone : Bool), (64 ≤ s.reports.queue.length) ∧ (s.port = some t) ∧ (t.reading = Reading.report gone)) ∧
    (∃ (s : State) (t : Transaction), (64 ≤ s.reports.queue.length) ∧ (s.port = some t) ∧ (t.reading = Reading.reportEmpty)) ∧
    (∃ (s : State), (s.reports.first = none)) ∧
    (∃ (s : State), (s.reports.first ≠ none)) :=
  ⟨⟨reported 63, by decide⟩,
   ⟨(reported 64).setPort (some (reading (.report false))), reading (.report false), false, by decide⟩,
   ⟨(reported 64).setPort (some (reading .reportEmpty)), reading .reportEmpty, by decide⟩,
   ⟨desk, by decide⟩,
   ⟨captured, by decide⟩⟩

theorem witness_ReportingCommandsTakeEffect :
    (∃ (s : State) (marks : List ℕ) (value : ℕ) (mask : ℕ), s.TakesCommands ∧ (marks.length = 6) ∧ (∀ m ∈ marks, m < 256) ∧ (value < 65536) ∧
      (mask < 65536) ∧ (16383 < value ∨ 16383 < mask)) ∧
    (∃ (s : State) (marks : List ℕ) (value : ℕ) (mask : ℕ), s.TakesCommands ∧ (marks.length = 6) ∧ (∀ m ∈ marks, m < 256) ∧ (value < 65536) ∧
      (mask < 65536) ∧ (value ≤ 16383) ∧ (mask ≤ 16383)) ∧
    (∃ (s : State), s.TakesCommands ∧ (s.chain.polling = true) ∧ s.NothingToGrant) ∧
    (∃ (s : State), s.TakesCommands ∧ (s.chain.polling = false) ∧ s.ChainIdle) :=
  ⟨⟨desk, [0, 1, 2, 3, 4, 255], 16384, 0, by decide⟩,
   ⟨desk, [0, 1, 2, 3, 4, 255], 16383, 16383, by decide⟩,
   ⟨captured, by decide⟩,
   ⟨halted, by decide⟩⟩

theorem witness_DeskPortChecksEveryCommand :
    (∃ (code : ℕ) (length : ℕ), (code < 256) ∧ (length < 256) ∧ (commandLength code ≠ some (max 2 length))) ∧
    (∃ (s : State) (c : Instr) (bytes : List Byte), (c.wellFormed = true) ∧ (encodeCommand c = some bytes) ∧ (∀ (code length : ℕ),
      c ≠ Instr.badCommand code length) ∧ (s.claims.station = StationState.discovering ∧
      c ≠ Instr.readStatus ∨ s.claims.station = StationState.resetting)) ∧
    (∃ (s : State), (s.claims.station ≠ StationState.resetting)) :=
  ⟨⟨6, 3, by decide⟩,
   ⟨stationIn .discovering, .join, [20, 2], by decide, by decide, by rintro _ _ ⟨⟩, by decide⟩,
   ⟨stationIn .discovering, by decide⟩⟩

theorem witness_DeskPort_slots : (∃ j : Job, j.sweep = none) ∧ ∃ j : Job, j.sweep.isSome = true :=
  ⟨⟨jobOf [] .ready 1, rfl⟩, sweepJob, rfl⟩

theorem witness_PowerOnTimeSettingsAndJoin :
    (∃ (m : StrapMasks) (station : ℕ) (buses : ℕ) (base : ℕ) (units : ℕ), (IsStrapped m.station station) ∧ (IsStrapped m.buses buses) ∧
      (IsStrapped m.baseUnit base) ∧ (IsStrapped m.units units)) ∧
    (∃ (s : State) (r : SettingsRecord), s.TakesCommands ∧ (r.wellFormed = true) ∧ (s.claims.station = StationState.starting)) ∧
    (∀ x ∈ [(stationIn .starting, true), (heard (stationIn .starting), false)], ∃ t : State, x.1.TakesCommands ∧ x.1.claims.station = .starting ∧
      x.1.line.flight = none ∧ x.1.line.queue = [] ∧
      t = { x.1 with claims := { x.1.claims with station := .joining }, port := plainResponse .accepted } ∧ decide (SendsNow t) = x.2) ∧
    (∀ q ∈ [[], fullQueue], ∃ (s t : State) (f : Flight), s.TakesCommands ∧ s.claims.station = .starting ∧ s.line.flight = some f ∧
      f.phase = .waitQuiet ∧ s.line.queue = q ∧
      t = { s with claims := { s.claims with station := .joining }, port := plainResponse .accepted } ∧ SendsNow t) ∧
    (∃ (s : State), s.TakesCommands ∧ (s.claims.station = StationState.starting) ∧ (s.line.flight.isSome = true) ∧ (s.line.busy = true) ∧
      (s.line.queue.length < 16)) :=
  ⟨⟨masks, 2, 1, 63, 1, by decide⟩,
   ⟨stationIn .starting, lowSettings, by decide⟩,
   by
    intro x h
    refine ⟨_, ?_, ?_, ?_, ?_, rfl, ?_⟩ <;> fin_cases h <;> decide,
   by
    intro q h
    refine
      ⟨(withFlight (stationIn .starting) (flying releaseNotice .waitQuiet 0)).setLine
        { desk.line with flight := some (flying releaseNotice .waitQuiet 0), queue := q }, _, flying releaseNotice .waitQuiet 0, ?_, ?_, rfl, rfl, rfl,
        rfl, ?_⟩ <;> fin_cases h <;> decide,
   ⟨withFlight (heard (stationIn .starting)) (flying releaseNotice .waitQuiet 0), by decide⟩⟩

/-- SET TIME with no limit passed, and with every kind of limit passed at once. -/
theorem witness_SetTime :
    (∃ s : State, s.TakesCommands ∧ (s.seq.queue.map (fun q => q.order.tag)).Nodup ∧ s.NothingToGrant ∧ s.time.clock = 100 ∧
      ∃ x : State, x = waitsPassed { s with time := { s.time with clock := 3000 }, port := none } ∧ AccessWaitApplied x x ∧
        SuspensionApplied x x) ∧
    (∃ y z : State, timed.TakesCommands ∧ (timed.seq.queue.map (fun q => q.order.tag)).Nodup ∧ timed.NothingToGrant ∧
      AccessWaitApplied timedWaits y ∧ SuspensionApplied y z ∧ timedWaits.seq.queue.length = 2 ∧ y.seq.completions.length = 2 ∧
      z.head.activity = .discharging true ∧ (clearHoldsPassed z).tickets.table.map (·.state) = [.closed] ∧
      (duePassed (clearHoldsPassed z)).sweep.state = .seeking ∧ (guardPast (duePassed (clearHoldsPassed z))).sweep.guardPassed = true) :=
  ⟨⟨timed, by decide, by decide, by decide, rfl, _, rfl,
      .inl ⟨rfl, by
        intro id j h h' _
        obtain rfl : id = .staged := Option.some.inj (h.symm.trans (by decide))
        cases h'
        decide⟩,
      .inl ⟨rfl, by
        intro j h _
        cases h
        decide⟩⟩,
   ⟨timedAccess, _, by decide, by decide, by decide,
      .inr ⟨.staged, { accessJob with order := { orderOf [] with tag := 6, line := 30 } }, timedUnheld, by decide, rfl, rfl, by decide,
        ⟨by decide, fun _ _ _ _ => by decide⟩,
        .inr ⟨{ opening with line := 30, placed := some 2 }, rfl,
          .inr ⟨2, { sending .demand with line := 30, state := .contest }, rfl, rfl, .inr (.inr ⟨.inl rfl, rfl⟩)⟩⟩, rfl⟩,
      .inr ⟨suspendedJob, 1, claimIn .held .demand, rfl, rfl, by decide, rfl, rfl, by decide, rfl, rfl, rfl⟩,
      by decide, by decide, by decide, by decide +kernel, by decide +kernel, by decide +kernel⟩⟩

/-- What a station reset makes of the state before the claim in the making ends. -/
def resetBegun (s : State) : State :=
  { s with
    claims := { s.claims with station := .resetting, joinUntil := none, clashMark := none }
    line := joinAbandoned s.line
    seq := { s.seq with queue := [], completions := [] }
    sweep :=
      { s.sweep with
        state := .stopped
        due := none
        offer := false
        guardPassed := false
        pointerOwed := false
        stopPending := false }
    port := plainResponse .accepted }

theorem witness_StationReset_begins :
    (∃ s w : State, s.TakesCommands ∧ s.claims.station ≠ .starting ∧ s.NothingToGrant ∧ ClaimEndsUnheld (resetBegun s) w ∧
      SlotDiscarded s.seq.active ∧ SlotDiscarded s.seq.staged ∧ s.seq.active ≠ .empty) ∧
    (∃ (s w : State) (j : Job) (own : OwnClaim), s.TakesCommands ∧ s.claims.station ≠ .starting ∧ s.NothingToGrant ∧
      ClaimEndsUnheld (resetBegun s) w ∧ s.seq.active = .job j ∧ SlotDiscarded s.seq.staged ∧ j.phase = .running ∧ j.bus = some 0 ∧
      s.head.bus = some 0 ∧ s.head.state ≠ .offBus ∧ w.entryAt 0 = .own own ∧ own.state = .held ∧ s.seq.staged ≠ .empty) ∧
    (∃ (s w : State) (j : Job) (own : OwnClaim), s.TakesCommands ∧ s.claims.station ≠ .starting ∧ ClaimEndsUnheld (resetBegun s) w ∧
      SlotDiscarded s.seq.active ∧ s.seq.staged = .job j ∧ j.phase = .ready ∧ j.bus = some 0 ∧ j.nothingOperated = false ∧
      w.entryAt 0 = .own own ∧ own.state = .held ∧ s.ChainIdle ∧ s.chain.ops = []) :=
  ⟨⟨claimsOf .contest, _, by decide, by decide, by decide, contest_ends _ (by decide), by rintro _ ⟨⟩; rfl, by rintro _ ⟨⟩, by decide⟩,
   ⟨resetBusy, _, _, { claimIn .held .demand with line := 9 }, by decide, by decide, by decide, contest_ends _ (by decide), rfl, by rintro _ ⟨⟩; rfl, rfl, rfl, rfl,
     by decide, by decide, rfl, by decide⟩,
   ⟨resetStaged, _, _, { claimIn .held .demand with line := 9 }, by decide, by decide, contest_ends _ (by decide), by rintro _ ⟨⟩; rfl, rfl, rfl, rfl, rfl, by decide,
     rfl, by decide, rfl⟩⟩

/-- As `resetting`, with a clash marked or not. -/
def resettingWith (mark : Option NoticeKind) : State := resetting.setClaims { resetting.claims with clashMark := mark }

/-- The end of a reset on a quiet line: with an idle transmitter, and with a notice waiting out its backoff. -/
theorem witness_StationReset_quiet :
    ∀ f ∈ [none, some (flying releaseNotice .backoff 1)], ∃ s : State, s.claims.station = .resetting ∧ s.seq.active = .empty ∧
      s.seq.staged = .empty ∧ s.seq.queue = [] ∧ s.claims.opening = none ∧ s.line.flight = f ∧ (∀ g, f = some g → g.tx.tag ≠ .ofReset) ∧
      (∀ tx ∈ s.line.queue ++ s.line.heldClaims, tx.tag ≠ .ofReset) ∧ s.claims.clashMark = none ∧ SendsNow s := by
  intro f h
  refine ⟨(stationIn .resetting).setLine { desk.line with flight := f }, rfl, rfl, rfl, rfl, rfl, rfl, ?_, ?_, rfl, ?_⟩
  · fin_cases h <;> rintro _ ⟨⟩; decide
  · rintro _ ⟨⟩
  · fin_cases h <;> decide

theorem witness_StationReset_ends :
    (∃ (s : State), (s.claims.station = StationState.resetting) ∧ (s.seq.active = Slot.empty) ∧ (s.seq.staged = Slot.empty) ∧
      (s.line.flight = none) ∧ (s.seq.queue = []) ∧ (s.claims.opening = none) ∧ (s.line.busy = true) ∧ (∀ tx ∈ s.line.queue ++ s.line.heldClaims,
      tx.tag ≠ TxTag.ofReset) ∧ (s.claims.clashMark = none)) ∧
    (∀ mark ∈ [none, some NoticeKind.hold], ∃ (s : State) (f : Flight), s.claims.station = .resetting ∧ s.seq.active = .empty ∧
      s.seq.staged = .empty ∧ s.seq.queue = [] ∧ s.claims.opening = none ∧ s.line.busy = true ∧ s.line.flight = some f ∧
      f.tx.isClaim = true ∧ f.withdrawn = true ∧ f.tx.tag ≠ .ofReset ∧ (∀ tx ∈ s.line.queue ++ s.line.heldClaims, tx.tag ≠ .ofReset) ∧
      s.claims.clashMark = mark) ∧
    (∃ (s : State) (k : NoticeKind), (s.claims.station = StationState.resetting) ∧ (s.seq.active = Slot.empty) ∧ (s.seq.staged = Slot.empty) ∧
      (s.line.flight = none) ∧ (s.seq.queue = []) ∧ (s.claims.opening = none) ∧ (s.line.busy = true) ∧ (∀ tx ∈ s.line.queue ++ s.line.heldClaims,
      tx.tag ≠ TxTag.ofReset) ∧ (s.claims.clashMark = some k)) :=
  ⟨⟨resetting, by decide⟩,
   fun mark h => ⟨withFlight (resettingWith mark) lateClaim, lateClaim, by fin_cases h <;> decide⟩,
   ⟨clashMarked, .hold, by decide⟩⟩

/-- What holds the end of a reset: a job in either slot, a CLAIM that the reset withdrew in flight, a RELEASE of the reset in the queue or held
back. -/
theorem witness_StationReset_waits :
    (∃ s : State, s.claims.station = .resetting ∧ s.seq.active ≠ .empty) ∧
    (∃ s : State, s.claims.station = .resetting ∧ s.seq.staged ≠ .empty) ∧
    (∃ (s : State) (f : Flight), s.claims.station = .resetting ∧ s.line.flight = some f ∧ f.tx.isClaim = true ∧ f.withdrawn = true ∧
      f.tx.tag = .ofReset) ∧
    (∃ s : State, s.claims.station = .resetting ∧ s.seq.active = .empty ∧ s.seq.staged = .empty ∧ s.line.flight = none ∧
      ∃ tx ∈ s.line.queue ++ s.line.heldClaims, tx.tag = .ofReset) :=
  ⟨⟨withJob resetting (jobOf [] .releasing 2), by decide⟩,
   ⟨behindHolder (withJob resetting (jobOf [] .releasing 2)), by decide⟩,
   ⟨withFlight resetting (ofReset lateClaim), ofReset lateClaim, by decide⟩,
   ⟨resetting.setLine { resetting.line with heldClaims := [{ releaseTx with tag := .ofReset }] }, by decide⟩⟩

end Sys2Proof.Tests
end

/-! SUPPORT. Precedence between two claims (R39): by rank of urgency, then by station. -/

namespace Sys2Proof.Machine

/-- The urgency codes a notice carries stand in the order of R39. -/
theorem Urgency.code_eq_rankOf (u : Urgency) : u.code = rankOf u := by
  cases u <;> rfl

/-- `precedes` is the lexicographic order of R39. -/
theorem precedes_iff (u u' : Urgency) (station station' : Nat) :
    precedes u station u' station' = true ↔
      rankOf u' < rankOf u ∨ rankOf u = rankOf u' ∧ station < station' := by
  simp [precedes, Urgency.code_eq_rankOf]

/-- The order of R39 leaves no tie between different stations: unequal ranks decide by themselves, and between equal ranks the stations do. -/
theorem precedes_eq_not_precedes (u u' : Urgency) {station station' : Nat} (hne : station ≠ station') :
    precedes u station u' station' = !precedes u' station' u station := by
  rw [Bool.eq_iff_iff, Bool.not_eq_true', ← Bool.not_eq_true, precedes_iff, precedes_iff]
  rcases eq_or_ne (rankOf u) (rankOf u') with sameRank | otherRank
  · simp only [sameRank, lt_irrefl, false_or, true_and]
    omega
  · simp only [otherRank, otherRank.symm, false_and, or_false]
    omega

/-- Settles O26: `precedes` is the order of R39, and that order is total and antisymmetric over different stations. -/
theorem precedenceIsByUrgencyThenStation : Obligations.PrecedenceIsByUrgencyThenStation :=
  fun u u' station station' => ⟨precedes_iff u u' station station', precedes_eq_not_precedes u u'⟩

end Sys2Proof.Machine

/-! SUPPORT. The verdict as a search through the ranking of the classes (R99), each with its own test (R100 to R104). -/

namespace Sys2Proof.Machine

/-- The classes in the order in which they are tried (R99). -/
def Verdict.ranking : List Verdict := [.hazard, .foreign, .loop, .ground, .lowInsulation, .openLead, .marginal, .clear]

/-- The ranking leaves no class out. -/
@[simp] theorem Verdict.mem_ranking (v : Verdict) : v ∈ Verdict.ranking := by
  cases v <;> decide

/-- The codes of the classes rise along the ranking. -/
theorem Verdict.ranking_sorted : Verdict.ranking.Pairwise (fun v w => v.code < w.code) := by
  decide

/-- In a list sorted by a key, the first element that passes a test is the one of least key that passes it. -/
theorem find?_eq_some_iff_least {α : Type} (key : α → Nat) (test : α → Bool) {l : List α}
    (sorted : l.Pairwise (fun a b => key a < key b)) (k : α) :
    l.find? test = some k ↔ k ∈ l ∧ test k = true ∧ ∀ a ∈ l, key a < key k → ¬ test a = true := by
  induction l with
  | nil => simp
  | cons x xs ih =>
    obtain ⟨below, rest⟩ := List.pairwise_cons.mp sorted
    by_cases passed : test x = true
    · rw [List.find?_cons_of_pos passed]
      constructor
      · rintro ⟨⟩
        refine ⟨List.mem_cons_self, passed, List.forall_mem_cons.mpr ⟨fun h => absurd h (lt_irrefl _), fun a ha h => ?_⟩⟩
        exact absurd h (below a ha).le.not_gt
      · rintro ⟨hk, -, least⟩
        rcases List.mem_cons.mp hk with rfl | later
        · rfl
        · exact absurd passed (least x List.mem_cons_self (below k later))
    · rw [List.find?_cons_of_neg passed, ih rest]
      constructor
      · rintro ⟨hk, hp, least⟩
        exact ⟨List.mem_cons_of_mem _ hk, hp, List.forall_mem_cons.mpr ⟨fun _ => passed, least⟩⟩
      · rintro ⟨hk, hp, least⟩
        have later : k ∈ xs := (List.mem_cons.mp hk).resolve_left (by rintro rfl; exact passed hp)
        exact ⟨later, hp, fun a ha => least a (List.mem_cons_of_mem _ ha)⟩

/-! ## The test of each class (R100 to R104) -/

/-- The test by which `verdictFor` tries a class. -/
def classTest (hazardFound : Bool) (r : Results) (st : Settings) : Verdict → Bool
  | .hazard => hazardFound
  | .foreign => r.foreign.any (fun v => foreignClass v st.foreign)
  | .loop => r.resist.any (fun x => x.tr.atMost st.loop)
  | .ground => r.resist.any (fun x => x.tg.atMost st.ground || x.rg.atMost st.ground)
  | .lowInsulation => r.resist.any (fun x => anyAtMost x st.insulation)
  | .openLead => r.capacity.any (fun c => openLeadClass c st.imbalance)
  | .marginal => r.resist.any (fun x => anyAtMost x (2 * st.insulation))
  | .clear => r.foreign.isSome || r.resist.isSome || r.capacity.isSome

/-- The chain of tests in `verdictFor` is the search through the ranking. -/
theorem verdictFor_eq_find? (hazardFound : Bool) (r : Results) (st : Settings) :
    verdictFor hazardFound r st = Verdict.ranking.find? (classTest hazardFound r st) := by
  have tryNext (v : Verdict) (vs : List Verdict) : (v :: vs).find? (classTest hazardFound r st) =
      if classTest hazardFound r st v = true then some v else vs.find? (classTest hazardFound r st) := by
    cases h : classTest hazardFound r st v <;> simp [h]
  simp only [Verdict.ranking, tryNext, List.find?_nil]
  rfl

theorem Resistance.atMost_iff (x : Resistance) (threshold : Nat) : x.atMost threshold = true ↔ AtOrBelow x threshold := by
  simp [Resistance.atMost, AtOrBelow]

theorem anyAtMost_iff (x : ResistResults) (threshold : Nat) :
    anyAtMost x threshold = true ↔ AtOrBelow x.tr threshold ∨ AtOrBelow x.tg threshold ∨ AtOrBelow x.rg threshold := by
  simp [anyAtMost, Resistance.atMost_iff, or_assoc]

theorem foreignClass_iff (v : ForeignValues) (threshold : Nat) :
    foreignClass v threshold = true ↔
      (threshold : Int) < |v.dcTG| ∨ (threshold : Int) < |v.dcRG| ∨ (threshold : Int) < |v.dcTR|
        ∨ threshold < v.acTG ∨ threshold < v.acRG ∨ threshold < v.acTR := by
  simp [foreignClass, or_assoc]

theorem openLeadClass_iff (c : CapacityResults) (threshold : Nat) :
    openLeadClass c threshold = true ↔ 1000 ≤ c.tr ∧ c.imbalance < threshold := by
  simp [openLeadClass]

/-- Each test succeeds exactly when its class applies; a class whose readings are not held fails it (R99). -/
theorem classTest_iff (hazardFound : Bool) (r : Results) (st : Settings) (v : Verdict) :
    classTest hazardFound r st v = true ↔ ClassApplies hazardFound r st v := by
  cases v with
  | hazard => rfl
  | foreign => simp [classTest, ClassApplies, Option.any_eq_true, foreignClass_iff]
  | loop => simp [classTest, ClassApplies, Option.any_eq_true, Resistance.atMost_iff]
  | ground => simp [classTest, ClassApplies, Option.any_eq_true, Resistance.atMost_iff]
  | lowInsulation => simp [classTest, ClassApplies, Option.any_eq_true, anyAtMost_iff]
  | openLead => simp [classTest, ClassApplies, Option.any_eq_true, openLeadClass_iff]
  | marginal => simp [classTest, ClassApplies, Option.any_eq_true, anyAtMost_iff]
  | clear => simp [classTest, ClassApplies, Option.isSome_iff_ne_none, or_assoc]

/-- The verdict on a results record is the class of least code that applies (R99). -/
theorem verdictFor_eq_some_iff (hazardFound : Bool) (r : Results) (st : Settings) (k : Verdict) :
    verdictFor hazardFound r st = some k ↔
      ClassApplies hazardFound r st k ∧ ∀ k' : Verdict, k'.code < k.code → ¬ ClassApplies hazardFound r st k' := by
  rw [verdictFor_eq_find?, find?_eq_some_iff_least Verdict.code _ Verdict.ranking_sorted]
  simp only [Verdict.mem_ranking, classTest_iff, true_and, forall_const]

/-- The results record is flagged OVERRANGE when some held readings are, or the arithmetic on them is (R98). -/
theorem resultsOf_overrange (i : EvalInput) :
    (resultsOf i).overrange = true ↔
      (∃ x, i.foreign = some x ∧ x.overrange = true)
        ∨ (∃ x, i.resist = some x ∧ (x.overrange = true ∨ (solveResist i.setting x).2 = true))
        ∨ (∃ x, i.capacity = some x ∧ (x.overrange = true ∨ (solveCapacity i.setting i.perKm x).2 = true)) := by
  simp only [resultsOf, Option.any_map, Bool.or_eq_true, Option.any_eq_true, and_or_left, exists_or, or_assoc, or_left_comm]

/-- Settles O42: the verdict is the first class of the ranking that applies, on the results record of R98; the weights of R106 are its table. -/
theorem verdictIsTheFirstClassThatApplies : Obligations.VerdictIsTheFirstClassThatApplies := by
  refine ⟨fun i r v evaluated => ?_, rfl⟩
  obtain ⟨rfl, rfl⟩ := Prod.mk.inj evaluated
  exact ⟨verdictFor_eq_some_iff i.hazardFound (resultsOf i) i.settings, rfl, Option.map_map .., Option.map_map ..,
    resultsOf_overrange i⟩

end Sys2Proof.Machine

/-! SUPPORT. The fault bucket's decay (R142), and the level and stamp a verdict leaves (R143). -/

namespace Sys2Proof.Machine

/-- A clock behind the stamp costs the bucket nothing. -/
theorem decayBucket_of_lt {level stamp t : Nat} (behind : t < stamp) (period : Nat) :
    decayBucket level stamp t period = (level, t) :=
  if_pos behind

/-- A bucket that outlasts the `k` whole periods since its stamp has the stamp moved on by them. -/
theorem decayBucket_of_left {level stamp t period k : Nat} (reached : stamp ≤ t)
    (whole : (t - stamp) / period = k) (left : 0 < level - k) :
    decayBucket level stamp t period = (level - k, stamp + k * period) := by
  subst whole
  rw [decayBucket, if_neg reached.not_gt, if_pos left]

/-- A bucket that the `k` whole periods since its stamp empty is stamped with the present minute. -/
theorem decayBucket_of_emptied {level stamp t period k : Nat} (reached : stamp ≤ t)
    (whole : (t - stamp) / period = k) (emptied : level - k = 0) :
    decayBucket level stamp t period = (0, t) := by
  subst whole
  rw [decayBucket, if_neg reached.not_gt, if_neg emptied.not_gt]

/-- The decay of R142, for whatever `k` counts the whole periods since the stamp. -/
theorem decayBucket_decaysTo (r : LineRecord) (t period : Nat) :
    DecaysTo r t period (decayBucket r.level r.stamp t period).1 (decayBucket r.level r.stamp t period).2 := by
  refine ⟨fun behind => ?_, fun k reached atLeast below => ?_⟩
  · rw [decayBucket_of_lt behind]
    exact ⟨rfl, rfl⟩
  · have whole : (t - r.stamp) / period = k := Nat.div_eq_of_lt_le atLeast below
    rcases Nat.eq_zero_or_pos (r.level - k) with emptied | left
    · rw [decayBucket_of_emptied reached whole emptied]
      exact ⟨emptied.symm, fun h => absurd h (lt_irrefl 0), fun _ => rfl⟩
    · rw [decayBucket_of_left reached whole left]
      exact ⟨rfl, fun _ => rfl, fun h => absurd h left.ne'⟩

@[simp] theorem LineRecord.judged_level (r : LineRecord) (d : Delivery) (seconds t period : Nat) :
    (r.judged d seconds t period).level = min 255 ((decayBucket r.level r.stamp t period).1 + d.verdict.weight) := rfl

@[simp] theorem LineRecord.judged_stamp (r : LineRecord) (d : Delivery) (seconds t period : Nat) :
    (r.judged d seconds t period).stamp = (decayBucket r.level r.stamp t period).2 := rfl

/-- Settles O49: a verdict decays the bucket by `decayBucket`, keeps its stamp and adds the weight to its level. -/
theorem bucketDecaysByWholePeriods : Obligations.BucketDecaysByWholePeriods := by
  rintro r _ d seconds t period - rfl
  rw [LineRecord.judged_level, LineRecord.judged_stamp]
  exact ⟨_, rfl, decayBucket_decaysTo r t period⟩

end Sys2Proof.Machine

/-! SUPPORT. What each command carries over, apart from POWER_ON: the straps, the settings but for LOAD SETTINGS, the queue of commands, and the three
invariants of Safety. Each command is a run of operations that `Keeps` covers, with the few changes of its own. -/

namespace Sys2Proof.Machine

/-- From `s` to `t` the straps, the settings and the queue of commands stand, and each of the three invariants is carried over. -/
structure Carries (s t : State) : Prop where
  straps : t.straps = s.straps
  settings : t.settings = s.settings
  pending : t.pending = s.pending
  sound : s.Sound → t.Sound
  own : OneClaimPerLine s.claims.entries → OneClaimPerLine t.claims.entries
  law : TicketLaw s.straps s.tickets.table s.records → TicketLaw t.straps t.tickets.table t.records

namespace Carries

variable {r s t : State}

theorem refl (s : State) : Carries s s := ⟨rfl, rfl, rfl, id, id, id⟩

theorem trans (h : Carries r s) (k : Carries s t) : Carries r t where
  straps := k.straps.trans h.straps
  settings := k.settings.trans h.settings
  pending := k.pending.trans h.pending
  sound := k.sound ∘ h.sound
  own := k.own ∘ h.own
  law := k.law ∘ h.law

/-- What an operation keeps, it carries over. -/
theorem ofKeeps (k : Keeps s t) : Carries s t where
  straps := k.straps
  settings := k.settings
  pending := k.pending
  sound h :=
    { straps := by rw [k.straps]; exact h.straps
      settings := by rw [k.settings]; exact h.settings
      time := by rw [k.time]; exact h.time
      units := ⟨k.units.trans h.units.1, k.ranges h.units.2⟩
      poller := k.poller h.poller
      entries := by rw [k.entries, k.straps]; exact h.entries
      records := k.records h.records
      serial := k.serial h.serial
      sweep := by rw [k.straps]; exact k.sweep h.straps h.sweep
      capacity := by
        obtain ⟨queue, completions, tickets, cache, reports, transmit⟩ := h.capacity
        exact ⟨k.queue queue, k.completions completions, k.tickets tickets, k.cache cache, k.reports reports,
          k.transmit transmit⟩ }
  own := k.own
  law h := by rw [k.straps]; exact k.law h

/-- An operation that follows what is carried over. -/
theorem keeps (h : Carries r s) (k : Keeps s s → Keeps s t) : Carries r t := h.trans (ofKeeps (k (Keeps.refl s)))

/-- A change of the time alone that leaves it in its range. -/
theorem setTime (h : Carries r s) (x : Time) (hx : s.time.InRange → x.InRange) : Carries r (s.setTime x) :=
  h.trans
    { (refl s) with
      sound := fun k => { k with time := hx k.time }
      own := id
      law := id }

theorem pass (h : Carries r s) (q : Nat) : Carries r (s.pass q) :=
  h.setTime _ fun _ => ⟨Nat.min_le_right _ _, Nat.mod_lt _ (by decide)⟩

theorem passTo (h : Carries r s) (m : Nat) : Carries r (s.passTo m) := h.pass _

theorem passClockTo (h : Carries r s) (m : Nat) : Carries r (s.passClockTo m) := h.pass _

/-- An event of the station clock, from what it does once its moment is there. -/
theorem atClock (h : Carries r s) (m : Nat) (event : State → State)
    (he : ∀ u, Carries r u → u = s.passClockTo m → Carries r (event u)) : Carries r (s.atClock m event) := by
  unfold State.atClock
  split
  · exact he _ (h.passClockTo m) rfl
  · exact h

/-- A desk command, from what its owner does with it. -/
theorem desk (owner : State → State) (ho : Carries (s.setPort none) (owner (s.setPort none))) :
    Carries s (s.desk owner) := by
  have free : Carries s (s.setPort none) := (refl s).keeps (·.setPort none)
  unfold State.desk
  dsimp only
  split
  · exact free.keeps (·.reply .busy)
  · exact free.trans ho

/-- A desk command whose owner is an operation that keeps everything. -/
theorem deskKeeps (owner : State → State) (ho : ∀ u, Keeps u (owner u)) : Carries s (s.desk owner) :=
  desk owner (ofKeeps (ho _))

end Carries

/-- Whatever next state an outcome answers carries over from `s`. -/
def Leads (s : State) (o : Out) : Prop := ∀ t, o = .next t → Carries s t

namespace Leads

variable {s t : State}

theorem next (h : Carries s t) : Leads s (.next t) := by
  rintro _ ⟨⟩
  exact h

theorem stay : Leads s (.next s) := next (.refl s)

theorem formed {m : String} {ok : Bool} (h : Carries s t) : Leads s (formed m ok t) := by
  unfold Machine.formed
  split
  · exact next h
  · rintro _ ⟨⟩

theorem ite {c : Prop} [Decidable c] {a b : Out} (ha : c → Leads s a) (hb : ¬c → Leads s b) :
    Leads s (if c then a else b) := by
  split
  · exact ha ‹_›
  · exact hb ‹_›

end Leads

end Sys2Proof.Machine

/-! SUPPORT. Each command of the chain, the desk line, the claims and the head carries the invariants over. -/

namespace Sys2Proof.Machine

variable {s : State}

/-! ## The drive chain -/

theorem execExchangeAnswered_leads (a : ChainAnswer) : Leads s (execExchangeAnswered a s) := by
  unfold execExchangeAnswered
  split
  · exact .ite (fun _ => .next (.ofKeeps ((Keeps.refl s).answered _ a))) fun _ => .stay
  · exact .stay

theorem execAnswerBegins_leads : Leads s (execAnswerBegins s) := by
  unfold execAnswerBegins
  split
  · exact .ite (fun _ => .next (.ofKeeps ((Keeps.refl s).setChain _ rfl rfl))) fun _ => .stay
  · exact .stay

theorem execAnswerStartTimeout_leads : Leads s (execAnswerStartTimeout s) := by
  unfold execAnswerStartTimeout
  split
  · exact .ite (fun _ => .stay) fun _ => .next (((Carries.refl s).passTo _).keeps (·.noAnswer _ _))
  · exact .stay

theorem execAnswerEndTimeout_leads : Leads s (execAnswerEndTimeout s) := by
  unfold execAnswerEndTimeout
  split
  · exact .ite (fun _ => .next (((Carries.refl s).passTo _).keeps (·.noAnswer _ _))) fun _ => .stay
  · exact .stay

theorem nextUnit_lt {units : List UnitEntry} {pointer u : Nat} (h : nextUnit units pointer = some u) :
    u < Config.unitCount := by
  have hm := List.mem_of_find?_eq_some h
  obtain ⟨i, -, rfl⟩ := List.mem_map.mp hm
  exact Nat.mod_lt _ (by decide)

theorem Keeps.pollNext {r : State} (h : Keeps r s) : Keeps r s.pollNext := by
  unfold State.pollNext
  split
  · split
    · rename_i hu
      exact ((h.setPointer _ (by rfl) (nextUnit_lt hu)).askPoll _).pump
    · exact h
  · exact h

theorem execPollingPoint_leads : Leads s (execPollingPoint s) := by
  unfold execPollingPoint
  exact .ite (fun _ => .stay) fun _ =>
    .next (((Carries.refl s).passTo _).keeps fun k => (k.setChain _ (by rfl) (by rfl)).pollNext)

theorem Carries.settleOver (o : ChainOp) (t : Nat) : Carries s (s.settleOver o t) := by
  unfold State.settleOver
  exact ((Carries.refl s).passTo t).keeps fun k => ((k.putOp _).ask _).pump

theorem execConnectSettleEnd_leads : Leads s (execConnectSettleEnd s) := by
  unfold execConnectSettleEnd
  split
  · exact .next (.settleOver _ _)
  · exact .stay

theorem execReleaseSettleEnd_leads (b : Nat) : Leads s (execReleaseSettleEnd b s) := by
  refine .formed ?_
  split
  · exact .settleOver _ _
  · exact .refl s

theorem execReleaseRetry_leads (b : Nat) : Leads s (execReleaseRetry b s) := by
  refine .formed ?_
  split
  · split
    · exact ((Carries.refl s).passTo _).keeps fun k => (k.startRelease _ _ _).pump
    · exact .refl s
  · exact .refl s

/-! ## The desk line -/

theorem execQuietWaitEnd_leads : Leads s (execQuietWaitEnd s) := by
  unfold execQuietWaitEnd
  split
  · exact .ite (fun _ => .next (((Carries.refl s).passTo _).keeps (·.beginTry))) fun _ => .stay
  · exact .stay

theorem execBackoffEnd_leads : Leads s (execBackoffEnd s) := by
  unfold execBackoffEnd
  split
  · exact .ite (fun _ => .next (((Carries.refl s).passTo _).keeps (·.beginTry))) fun _ => .stay
  · exact .stay

namespace Keeps

variable {r : State}

theorem beginJoinPeriod (h : Keeps r s) (tag : TxTag) : Keeps r (s.beginJoinPeriod tag) := by
  unfold State.beginJoinPeriod
  split
  · exact h.setClaims _ rfl
  · exact h

theorem dropped (h : Keeps r s) (tx : Tx) : Keeps r (s.dropped tx) := by
  have k := (h.setLineElse { s.line with flight := none } rfl).capture (.lineJam tx.notice.kind)
  unfold State.dropped
  dsimp only
  split
  · exact k.loseClaim.lineMoves
  · exact (k.beginJoinPeriod _).lineMoves
  · exact k.lineMoves

theorem lateWithdrawal (h : Keeps r s) (tx : Tx) : Keeps r (s.lateWithdrawal tx) := by
  have k := h.setLineElse { s.line with flight := none } rfl
  unfold State.lateWithdrawal
  dsimp only
  split
  · split
    · exact (k.leaveEntry _).lineMoves
    · exact k.lineMoves
  · exact k.lineMoves

theorem collide (h : Keeps r s) (f : Flight) : Keeps r (s.collide f) := by
  unfold State.collide
  split
  · exact h.lateWithdrawal _
  · split
    · exact h.dropped _
    · exact h.setLineElse _ rfl

theorem claimSent (h : Keeps r s) (p : Pair) : Keeps r (s.claimSent p) := by
  unfold State.claimSent
  split
  · split
    · exact h.updateOwn _ _ fun _ => rfl
    · exact h
  · exact h

theorem lateSent (h : Keeps r s) (tag : TxTag) (p : Pair) : Keeps r (s.lateSent tag p) := by
  unfold State.lateSent
  split
  · exact (h.offer _).leaveEntry _
  · exact h

theorem sent (h : Keeps r s) (f : Flight) : Keeps r (s.sent f) := by
  have k := h.setLineElse { s.line with flight := none, busy := false, endedAt := s.time.now } rfl
  unfold State.sent
  dsimp only
  split
  · split
    · exact (k.lateSent _ _).lineMoves
    · exact (k.claimSent _).lineMoves
  · exact (k.beginJoinPeriod _).lineMoves
  · exact k.lineMoves

theorem activityEnds (h : Keeps r s) : Keeps r s.activityEnds := by
  unfold State.activityEnds
  split
  · exact h
  · exact h.setLineElse _ rfl

end Keeps

theorem execCollision_leads : Leads s (execCollision s) := by
  unfold execCollision
  split
  · split
    · exact .next (.ofKeeps (((Keeps.refl s).collide _).testIfChanged _))
    · exact .stay
  · exact .stay

theorem execNoticeSent_leads : Leads s (execNoticeSent s) := by
  unfold execNoticeSent
  split
  · split
    · exact .next (((Carries.refl s).passTo _).keeps fun k => (k.sent _).testIfChanged _)
    · exact .stay
  · exact .stay

theorem execReceptionAbandoned_leads : Leads s (execReceptionAbandoned s) :=
  .next (.ofKeeps (Keeps.refl s).activityEnds)

theorem execNoticeReceived_leads (bytes : List Byte) : Leads s (execNoticeReceived bytes s) := by
  refine .formed ?_
  dsimp only
  split
  · exact ((Carries.refl s).passTo _).keeps fun k => (k.activityEnds.takeNotice bytes).pump
  · exact .ofKeeps ((Keeps.refl s).activityEnds.takeNotice bytes).pump

theorem execStartSymbolTaken_leads : Leads s (execStartSymbolTaken s) :=
  .ite (fun _ => .stay) fun _ => .next (.ofKeeps ((Keeps.refl s).setLineElse _ rfl))

/-! ## The claims -/

theorem execContestWindowEnd_leads : Leads s (execContestWindowEnd s) := by
  unfold execContestWindowEnd
  split
  · split
    · exact .next (((Carries.refl s).passTo _).keeps fun k => (k.becomeHeld _).pump)
    · exact .next ((Carries.refl s).passTo _)
    · exact .stay
  · exact .stay

theorem execAwaitYieldLimit_leads : Leads s (execAwaitYieldLimit s) := by
  unfold execAwaitYieldLimit
  split
  · exact .ite (fun _ => .next (((Carries.refl s).passTo _).keeps (·.loseClaim))) fun _ => .stay
  · exact .stay

theorem execAwaitedEntryExpiry_leads (b : Nat) : Leads s (execAwaitedEntryExpiry b s) := by
  unfold execAwaitedEntryExpiry
  refine .formed ?_
  split
  · split
    · exact ((Carries.refl s).passTo _).keeps fun k =>
        (((k.updateOwn _ _ fun _ => by rfl).post _).awaitedLeft _).pump
    · exact .refl s
  · exact .refl s

theorem execHoldInterval_leads (b : Nat) : Leads s (execHoldInterval b s) := by
  refine .formed ?_
  split
  · split
    · exact ((Carries.refl s).passTo _).keeps fun k => (k.updateOwn _ _ fun _ => by rfl).offerRenewal _ _
    · exact .refl s
  · exact .refl s

theorem execDisturbanceDeadline_leads (b : Nat) : Leads s (execDisturbanceDeadline b s) := by
  refine .formed ?_
  split
  · split
    · exact ((Carries.refl s).passTo _).keeps (·.endDisturbance _ _ _)
    · exact .refl s
  · exact .refl s

theorem execPeerEntryExpiry_leads (b : Nat) : Leads s (execPeerEntryExpiry b s) := by
  refine .formed ?_
  split
  · exact ((Carries.refl s).passTo _).keeps fun k => ((k.setEntry _ _ rfl).post _).claimTest
  · exact .refl s

theorem execJoinPeriodEnd_leads : Leads s (execJoinPeriodEnd s) := by
  unfold execJoinPeriodEnd
  split
  · exact .ite (fun _ => .next (((Carries.refl s).passTo _).keeps (·.setClaims _ rfl))) fun _ => .stay
  · exact .stay

/-! ## The measurement head -/

namespace Keeps

variable {r : State}

theorem stageDone (h : Keeps r s) (b : Bool) : Keeps r (s.stageDone b) := by
  unfold State.stageDone
  split
  · split
    · exact h
    · split
      · exact (h.updateJob _ _).offerStage
      · exact h.finishStep
  · exact h

theorem connectedAtHead (h : Keeps r s) : Keeps r s.connectedAtHead := by
  unfold State.connectedAtHead
  split
  · split
    · exact (h.updateJob _ _).finishStep
    · exact h
  · exact h

theorem foreignEnds (h : Keeps r s) (x : ForeignReadings) : Keeps r (s.foreignEnds x) := by
  unfold State.foreignEnds
  dsimp only
  split
  · exact (h.setHead _).hazardFound _
  · exact (h.setHead _).stageDone _

theorem offSafe (h : Keeps r s) (off : Int × Int) (past : Bool) : Keeps r (s.offSafe off past) := by
  unfold State.offSafe
  split
  · exact h.setHead _
  · exact h.stopStage

theorem headFree (h : Keeps r s) : Keeps r s.headFree := by
  unfold State.headFree
  split
  · split
    · exact ((h.updateJob _ _).releaseAtChain _).settleSlots
    · exact h.settleSlots
  · exact h.settleSlots

end Keeps

theorem execHeadConnected_leads : Leads s (execHeadConnected s) :=
  .ite (fun _ => .next (((Carries.refl s).passTo _).keeps fun k => (k.setHead _).connectedAtHead.pump)) fun _ => .stay

theorem execForeignStageEnd_leads (tg rg tr : List Int) : Leads s (execForeignStageEnd tg rg tr s) := by
  refine .formed ?_
  split
  · exact ((Carries.refl s).passTo _).keeps fun k => (k.foreignEnds _).pump
  · exact .refl s

theorem execResistOffPhaseEnd_leads (current voltage : List Int) :
    Leads s (execResistOffPhaseEnd current voltage s) := by
  refine .formed ?_
  split
  · dsimp only
    split
    · exact ((Carries.refl s).passTo _).keeps fun k => ((k.setHead _).hazardFound _).pump
    · exact ((Carries.refl s).passTo _).keeps (·.offSafe _ _)
  · exact .refl s

theorem execResistSettleEnd_leads : Leads s (execResistSettleEnd s) :=
  .ite (fun _ => .next (((Carries.refl s).passTo _).keeps (·.setHead _))) fun _ => .stay

theorem execResistOnReadingEnd_leads (current : List Int) : Leads s (execResistOnReadingEnd current s) := by
  refine .formed ?_
  have h := (Carries.refl s).passTo s.head.until_
  split
  · dsimp only
    split
    · exact h.keeps (·.setHead _)
    · exact h.keeps fun k => ((k.setHead _).stageDone _).pump
    · exact h
  · exact .refl s

theorem execCapacityRecordEnd_leads (current : List Int) : Leads s (execCapacityRecordEnd current s) := by
  refine .formed ?_
  split
  · exact ((Carries.refl s).passTo _).keeps (·.setHead _)
  · exact .refl s

theorem execCapacityDrainEnd_leads : Leads s (execCapacityDrainEnd s) := by
  unfold execCapacityDrainEnd
  have h := (Carries.refl s).passTo s.head.until_
  split
  · dsimp only
    split
    · exact .next (h.keeps fun k => (k.setHead _).capacityStep)
    · exact .next (h.keeps fun k => ((k.setHead _).stageDone _).pump)
    · exact .next h
  · exact .stay

theorem execDischargeEnd_leads : Leads s (execDischargeEnd s) := by
  unfold execDischargeEnd
  have h := (Carries.refl s).passTo s.head.until_
  split
  · exact .ite (fun _ => .next (h.keeps (·.setHead _))) fun _ => .next (h.keeps fun k => (k.setHead _).offerStage)
  · exact .stay

theorem execBusRelayOpen_leads : Leads s (execBusRelayOpen s) :=
  .ite (fun _ => .next (((Carries.refl s).passTo _).keeps fun k => (k.setHead _).headFree.pump)) fun _ => .stay

end Sys2Proof.Machine

/-! SUPPORT. Each desk command and each timed event of the sequencer, the sweep, the tickets and the station carries the invariants over. -/

namespace Sys2Proof.Machine

variable {s : State}

/-! ## The desk port -/

theorem execSelectReleased_leads : Leads s (execSelectReleased s) := .next (.ofKeeps ((Keeps.refl s).setPort _))

namespace Keeps

variable {r : State}

theorem dropReports (h : Keeps r s) (x : ReportUnit) (hq : x.queue.Sublist s.reports.queue) :
    Keeps r (s.setReports x) :=
  h.setReports x hq.length_le

theorem finishReading (h : Keeps r s) (t : Transaction) : Keeps r (s.finishReading t) := by
  unfold State.finishReading
  split
  · exact h
  · split
    · rename_i hc
      refine fileWaiting (h.setSeq _ (by rfl) ?_)
      simp [hc]
    · exact h
  · refine h.dropReports _ ?_
    dsimp only
    split
    · exact .refl _
    · exact List.drop_sublist _ _
  · exact h.dropReports _ (.refl _)

theorem readOldestReport (s : State) : Keeps s s.readOldestReport := by
  unfold State.readOldestReport
  split <;> exact (refl s).setPort _

theorem newFilter (s : State) (marks : List Nat) (value mask : Nat) : Keeps s (s.newFilter marks value mask) := by
  unfold State.newFilter
  split
  · exact (refl s).reply _
  · exact ((refl s).dropReports _ (by exact .refl _)).reply _

theorem emptyCapture (h : Keeps r s) : Keeps r s.emptyCapture := h.dropReports _ (by exact .refl _)

end Keeps

theorem execResponseCompleted_leads : Leads s (execResponseCompleted s) := by
  unfold execResponseCompleted
  split
  · exact .next (.ofKeeps (((Keeps.refl s).setPort _).finishReading _))
  · exact .stay

theorem execBadCommand_leads (code length : Nat) : Leads s (execBadCommand code length s) :=
  .formed (.ofKeeps ((Keeps.refl s).reply _))

theorem execReadReport_leads : Leads s (execReadReport s) := .next (.deskKeeps _ Keeps.readOldestReport)

theorem execReadStatus_leads : Leads s (execReadStatus s) := by
  have h := (Keeps.refl s).setPort none
  exact .ite (fun _ => .next (.ofKeeps (h.reply _))) fun _ => .next (.ofKeeps (h.answer _ _))

theorem execSetFilter_leads (marks : List Nat) (value mask : Nat) : Leads s (execSetFilter marks value mask s) :=
  .formed (.deskKeeps _ fun u => .newFilter u marks value mask)

theorem execSetCriticalLevel_leads (level : Nat) : Leads s (execSetCriticalLevel level s) :=
  .formed (.deskKeeps _ fun u => ((Keeps.refl u).dropReports _ (by exact .refl _)).reply _)

theorem execClearErrors_leads : Leads s (execClearErrors s) :=
  .next (.deskKeeps _ fun u => (Keeps.refl u).emptyCapture.restartPolling.pump.reply _)

theorem execPollRestart_leads : Leads s (execPollRestart s) :=
  .next (.deskKeeps _ fun u => (Keeps.refl u).restartPolling.pump.reply _)

/-! ## The line records -/

/-- The canonical form: no record at its power-on value, and rising line numbers (log 26). -/
theorem recordsWf_iff (t : List (Nat × LineRecord)) :
    recordsWf t = true ↔ (∀ e ∈ t, e.2 ≠ LineRecord.powerOn) ∧ t.Pairwise (fun a b => a.1 < b.1) := by
  induction t with
  | nil => simp [recordsWf]
  | cons e t ih =>
    simp only [recordsWf, Bool.and_eq_true, decide_eq_true_eq, List.all_eq_true, ih, List.mem_cons, forall_eq_or_imp,
      List.pairwise_cons]
    tauto

theorem mapRecords_wf (f : Nat → LineRecord → LineRecord) {t : List (Nat × LineRecord)} (h : recordsWf t = true) :
    recordsWf (mapRecords f t) = true := by
  rw [recordsWf_iff] at h ⊢
  refine ⟨fun e he => of_decide_eq_true (List.mem_filter.mp he).2, .filter _ ?_⟩
  exact List.pairwise_map.mpr h.2

theorem mem_mapRecords {f : Nat → LineRecord → LineRecord} {t : List (Nat × LineRecord)} {e : Nat × LineRecord}
    (h : e ∈ mapRecords f t) : ∃ r, (e.1, r) ∈ t ∧ e.2 = f e.1 r := by
  obtain ⟨d, hd, rfl⟩ := List.mem_map.mp (List.mem_filter.mp h).1
  exact ⟨d.2, hd, rfl⟩

theorem clearUnit_sound (u : Nat) {t : List (Nat × LineRecord)} (h : RecordsSound t) : RecordsSound (clearUnit u t) := by
  refine mapRecords_sound _ _ h fun _ r hr => ?_
  split
  · exact Nat.zero_le _
  · exact hr

/-- While a clear runs there is no ticket, and no record names one. -/
theorem TicketLaw.clearing_ticketless {p : Straps} {ts : List Ticket} {rs : Records} (h : TicketLaw p ts rs)
    (running : rs.clear.isSome = true) : ts = [] ∧ ∀ e ∈ rs.table, e.2.ticket = none := by
  have empty := h.clearing running
  refine ⟨empty, fun e he => Option.eq_none_iff_forall_not_mem.mpr fun i hi => ?_⟩
  obtain ⟨t, ht, -⟩ := h.exists_ e he i hi
  rw [empty] at ht
  exact absurd ht List.not_mem_nil

/-- With no ticket, and no record of a table that names one. -/
theorem TicketLaw.ofTable (p : Straps) {t : List (Nat × LineRecord)} (c : Option Nat) (moment : Nat)
    (hs : recordsWf t = true) (hn : ∀ e ∈ t, e.2.ticket = none) :
    TicketLaw p [] { table := t, clear := c, clearAt := moment } := .emptied p _ hs hn

/-- A unit step of a clear takes records to their power-on values but for the class, with no ticket while it runs (R150). -/
theorem TicketLaw.clearUnit {p : Straps} {ts : List Ticket} {rs : Records} (h : TicketLaw p ts rs)
    (running : rs.clear.isSome = true) (u : Nat) (c : Option Nat) (moment : Nat) :
    TicketLaw p ts { table := clearUnit u rs.table, clear := c, clearAt := moment } := by
  obtain ⟨rfl, unnamed⟩ := h.clearing_ticketless running
  unfold Machine.clearUnit
  refine .ofTable p _ _ (mapRecords_wf _ h.sorted) fun e he => ?_
  obtain ⟨r, hr, value⟩ := mem_mapRecords he
  rw [value]
  split
  · rfl
  · exact unnamed _ hr

/-- A change of the records that leaves everything else as it is. -/
theorem Carries.setRecords (x : Records) (hr : RecordsSound s.records.table → RecordsSound x.table)
    (hl : TicketLaw s.straps s.tickets.table s.records → TicketLaw s.straps s.tickets.table x) :
    Carries s (s.setRecords x) :=
  { (Carries.refl s) with
    sound := fun k => { k with records := hr k.records }
    own := id
    law := hl }

theorem execClearUnitStep_leads : Leads s (execClearUnitStep s) := by
  unfold execClearUnitStep
  split
  · rename_i n running
    refine .next (((Carries.refl s).passTo _).trans (.setRecords _ (fun k => ?_) fun k => ?_))
    · exact clearUnit_sound _ k
    · exact k.clearUnit (by simp [running]) _ _ _
  · exact .stay

theorem Keeps.readLine (s : State) (line : Nat) : Keeps s (s.readLine line) := by
  unfold State.readLine
  (repeat' split) <;> exact (Keeps.refl s).setPort _

theorem execReadLineRecord_leads (line : Nat) : Leads s (execReadLineRecord line s) :=
  .formed (.deskKeeps _ fun u => .readLine u line)

theorem Keeps.lineClass (s : State) (first count repetition offset : Nat) :
    Keeps s (s.lineClass first count repetition offset) := by
  have set : Keeps s (s.setClass first count repetition offset) :=
    Keeps.foldl _ (fun _ _ k => k.setRecord _ _ (.inr (by rfl)) (by rfl)) _ _ (.refl s)
  unfold State.lineClass
  split
  · exact (Keeps.refl s).reply _
  split
  · exact (Keeps.refl s).reply _
  split
  · exact (Keeps.refl s).reply _
  · exact set.reply _

theorem execSetLineClass_leads (first count repetition offset : Nat) :
    Leads s (execSetLineClass first count repetition offset s) :=
  .formed (.deskKeeps _ fun u => .lineClass u first count repetition offset)

theorem TicketLaw.beginClear {p : Straps} {ts : List Ticket} {rs : Records} (h : TicketLaw p ts rs) (c : Option Nat)
    (moment : Nat) :
    TicketLaw p [] { table := mapRecords (fun _ r => r.ticketless) rs.table, clear := c, clearAt := moment } := by
  refine .ofTable p _ _ (mapRecords_wf _ h.sorted) fun e he => ?_
  obtain ⟨r, -, value⟩ := mem_mapRecords he
  rw [value]
  rfl

theorem Carries.beginClear (s : State) : Carries s s.beginClear :=
  { (Carries.refl s) with
    sound := fun k =>
      { k with
        records := mapRecords_sound (fun _ r => r.ticketless) _ k.records fun _ _ hr => hr
        capacity :=
          let ⟨queue, completions, _, rest⟩ := k.capacity
          ⟨queue, completions, Nat.zero_le _, rest⟩ }
    own := id
    law := fun k => k.beginClear _ _ }

theorem execClearRecords_leads : Leads s (execClearRecords s) := by
  refine .next (.desk _ ?_)
  unfold State.clearAll
  split
  · exact (Carries.beginClear _).keeps (·.reply _)
  · exact .ofKeeps ((Keeps.refl _).reply _)

end Sys2Proof.Machine

/-! SUPPORT. Each command of the sequencer, the sweep, the tickets and the station carries the invariants over. -/

namespace Sys2Proof.Machine

variable {r s : State}

/-! ## The sequencer -/

namespace Keeps

theorem requestClaim (h : Keeps r s) (o : Order) : Keeps r (s.requestClaim o) := by
  unfold State.requestClaim
  exact (h.setClaims _ (by rfl)).claimTest

theorem enterSweep (h : Keeps r s) (id : SlotId) (line : Nat) (retest : Bool) :
    Keeps r (s.enterSweep id line retest) := by
  unfold State.enterSweep
  dsimp only
  split
  · exact ((h.setSlot _ _).requestClaim _).settleSlots
  · exact (h.setSlot _ _).endSweepJob _ _

theorem enterOrder (h : Keeps r s) (id : SlotId) (o : Order) : Keeps r (s.enterOrder id o) := by
  unfold State.enterOrder
  refine settleSlots (requestClaim (setSlot (h.setSeq _ ?_ (by rfl)) _ _) _)
  exact List.length_filter_le _ _

theorem takeOrder (h : Keeps r s) (id : SlotId) : Keeps r (s.takeOrder id) := by
  unfold State.takeOrder
  split
  · exact h.enterOrder _ _
  · exact h

theorem takeOffer (h : Keeps r s) (id : SlotId) : Keeps r (s.takeOffer id) := by
  have k := h.takeSweep
  unfold State.takeOffer
  split <;> rename_i taken <;> rw [taken] at k
  · exact k.enterSweep _ _ _
  · exact k.takeOrder _

theorem startAccess (h : Keeps r s) (id : SlotId) : Keeps r (s.startAccess id) := by
  unfold State.startAccess
  split
  · exact h.takeOffer id
  split
  · exact h.takeOrder id
  split
  · exact h.takeOffer id
  · exact h

theorem waitRunsOut (h : Keeps r s) (tag : Nat) : Keeps r (s.waitRunsOut tag) := by
  unfold State.waitRunsOut
  split
  · exact h.endQueued _ _ _
  · split
    · split
      · exact h.endAccess _ _ _
      · exact h
    · exact h

theorem insertOrder_length (q : List QueuedOrder) (o : Order) : (insertOrder q o).length = q.length + 1 := by
  unfold insertOrder
  split
  · have split_length := congrArg List.length
      (List.takeWhile_append_dropWhile (p := fun x : QueuedOrder => x.order.urgency == .priority) (l := q))
    rw [List.length_append] at split_length
    rw [List.length_append, List.length_cons]
    omega
  · simp

/-- An order that passes every check finds room in the queue (R109). -/
theorem checkOrder_room {o : OrderRecord} {x : Urgency × List Step} (h : s.checkOrder o = .ok x) :
    s.seq.queue.length < Config.orderCap := by
  unfold State.checkOrder at h
  (repeat' split at h) <;> cases h
  omega

theorem addOrder (s : State) (o : Order) (room : s.seq.queue.length < Config.orderCap) :
    Keeps s (s.setSeq { s.seq with queue := insertOrder s.seq.queue o }) :=
  { (refl s) with
    queue := fun _ => by
      rw [State.setSeq_seq, insertOrder_length]
      exact room }

theorem submit (s : State) (o : OrderRecord) : Keeps s (s.submit o) := by
  unfold State.submit
  split
  · exact (refl s).reply _
  · rename_i accepted
    have room := checkOrder_room accepted
    exact (addOrder s _ room).reply _

theorem cancelInSlot (s : State) (id : SlotId) : Keeps s (s.cancelInSlot id) := by
  unfold State.cancelInSlot
  split
  · split
    · exact (refl s).reply _
    · exact ((refl s).endAccess _ _ _).reply _
    · exact ((refl s).abandon _ _ _).pump.reply _
  · exact (refl s).reply _

theorem cancel (s : State) (tag : Nat) : Keeps s (s.cancel tag) := by
  unfold State.cancel
  split
  · split
    · exact (refl s).reply _
    · exact ((refl s).endQueued _ _ _).reply _
  · split
    · exact cancelInSlot s _
    · exact (refl s).reply _

theorem resume (s : State) (tag : Nat) : Keeps s (s.resume tag) := by
  unfold State.resume State.resumeStep
  split
  · exact (((refl s).updateJob _ _).runStep _).pump.reply _
  split <;> exact (refl s).reply _

theorem readOldest (s : State) : Keeps s s.readOldest := by
  unfold State.readOldest
  split <;> exact (refl s).setPort _

end Keeps

theorem execAccessStart_leads : Leads s (execAccessStart s) := by
  unfold execAccessStart
  refine .ite (fun _ => ?_) fun _ => .stay
  split
  · exact .next (.ofKeeps ((Keeps.refl s).startAccess _))
  · exact .stay

theorem execAccessWaitLimit_leads (tag : Nat) : Leads s (execAccessWaitLimit tag s) := by
  refine .formed ?_
  split
  · exact (Carries.refl s).atClock _ _ fun _ k _ => k.keeps (·.waitRunsOut tag)
  · exact .refl s

theorem execHoldStepEnd_leads : Leads s (execHoldStepEnd s) := by
  unfold execHoldStepEnd
  split
  · exact .ite (fun _ => .next (((Carries.refl s).passTo _).keeps (·.finishStep.pump))) fun _ => .stay
  · exact .stay

theorem execSuspendLimit_leads : Leads s (execSuspendLimit s) := by
  unfold execSuspendLimit
  split
  · refine .ite (fun _ => .next ?_) fun _ => .stay
    exact ((Carries.refl s).atClock _ _ fun _ k _ => k.keeps (·.abandon _ _ _)).keeps (·.pump)
  · exact .stay

theorem execSubmitOrder_leads (o : OrderRecord) : Leads s (execSubmitOrder o s) :=
  .formed (.deskKeeps _ fun u => .submit u o)

theorem execCancelOrder_leads (tag : Nat) : Leads s (execCancelOrder tag s) :=
  .formed (.deskKeeps _ fun u => .cancel u tag)

theorem execResumeOrder_leads (tag : Nat) : Leads s (execResumeOrder tag s) :=
  .formed (.deskKeeps _ fun u => .resume u tag)

theorem execReadCompletion_leads : Leads s (execReadCompletion s) := .next (.deskKeeps _ Keeps.readOldest)

/-! ## The sweep -/

/-- A sweep that begins stands on a home line with an interval in its range and no skip counted (R175). -/
theorem Keeps.beginSweep (h : Keeps r s) (x : SweepStartRecord) (home : ∀ l ∈ startLine x, s.isHome l = true) :
    Keeps r (s.beginSweep x) := by
  unfold State.beginSweep
  refine postSweep (seek (h.movePointer _ fun straps sweep => ?_)) _
  obtain ⟨⟨first, last⟩, pass, low, high⟩ := sweep
  refine ⟨?_, pass, ?_⟩
  · dsimp only
    cases line : startLine x with
    | none => exact ⟨by simp only [Option.getD_none]; omega, last⟩
    | some l =>
      have inside := home l (by simp [line])
      simp only [State.isHome, Bool.and_eq_true, decide_eq_true_eq] at inside
      simp only [Option.getD_some, Straps.lastLine]
      omega
  · dsimp only
    cases interval : startInterval x with
    | none => exact ⟨low, high⟩
    | some n =>
      have : n = clamp 1 3600 x.interval := by
        unfold startInterval at interval
        split at interval
        · exact absurd interval (by simp)
        · exact (Option.some.inj interval).symm
      simp only [this, Option.getD_some, clamp]
      omega

theorem Keeps.sweepStart (s : State) (x : SweepStartRecord) : Keeps s (s.sweepStart x) := by
  unfold State.sweepStart
  split
  · exact (refl s).reply _
  split
  · exact (refl s).reply _
  split
  · exact (refl s).reply _
  split
  · exact (refl s).reply _
  · rename_i home
    refine ((refl s).beginSweep x fun l hl => ?_).reply _
    rw [Option.mem_def] at hl
    simpa [hl] using home

theorem Keeps.stopLater (h : Keeps r s) : Keeps r s.stopLater :=
  h.setSweep _ (by rfl) (by rfl) (by rfl) (by rfl)

theorem Keeps.sweepStop (h : Keeps r s) : Keeps r s.sweepStop := by
  unfold State.sweepStop
  split
  · exact h
  · exact h.stopLater
  · split
    · exact h.stopLater
    · exact h.stopSweep _
  · exact h.stopSweep _

theorem Keeps.continuePast (h : Keeps r s) : Keeps r s.continuePast := by
  unfold State.continuePast
  dsimp only
  split
  · exact h.stepPointer
  · exact (h.stepPointer.setSweep _ (by rfl) (by rfl) (by rfl) (by rfl)).postSweep _

theorem Keeps.continueWalk (h : Keeps r s) : Keeps r s.continueWalk := by
  unfold State.continueWalk
  refine postSweep ?_ _
  split
  · exact h.setSweep _ (by rfl) (by rfl) (by rfl) (by rfl)
  split
  · exact h.setSweep _ (by rfl) (by rfl) (by rfl) (by rfl)
  · exact h.seekOrWait

theorem Keeps.sweepContinue (s : State) : Keeps s s.sweepContinue := by
  unfold State.sweepContinue
  split
  · exact (refl s).reply _
  split
  · exact (refl s).continuePast.reply _
  · exact (refl s).continueWalk.reply _
  · exact (refl s).reply _

theorem Keeps.passGuard (h : Keeps r s) : Keeps r s.passGuard :=
  h.setSweep _ (by rfl) (by rfl) (by rfl) (by rfl)

theorem execSweepDue_leads : Leads s (execSweepDue s) := by
  unfold execSweepDue
  split
  · exact .next ((Carries.refl s).atClock _ _ fun _ k _ => k.keeps (·.sweepFallsDue))
  · exact .stay

theorem execSweepGuard_leads : Leads s (execSweepGuard s) := by
  unfold execSweepGuard
  split
  · exact .next ((Carries.refl s).atClock _ _ fun _ k _ => k.keeps (·.passGuard))
  · exact .stay

theorem execSweepStart_leads (x : SweepStartRecord) : Leads s (execSweepStart x s) :=
  .formed (.deskKeeps _ fun u => .sweepStart u x)

theorem execSweepStop_leads : Leads s (execSweepStop s) :=
  .next (.deskKeeps _ fun u => (Keeps.refl u).sweepStop.reply _)

theorem execSweepContinue_leads : Leads s (execSweepContinue s) := .next (.deskKeeps _ Keeps.sweepContinue)

/-! ## The tickets -/

theorem State.clearHoldOf_mem {ident d : Nat} {t : Ticket} (h : s.clearHoldOf ident = some (t, d)) :
    t ∈ s.tickets.table ∧ t.state = .cleared := by
  unfold State.clearHoldOf at h
  split at h
  · rename_i u found
    split at h
    · rename_i cleared
      obtain ⟨_, -, pair⟩ := Option.map_eq_some_iff.mp h
      obtain rfl : u = t := congrArg Prod.fst pair
      exact ⟨(Keeps.ticket?_mem found).1, cleared⟩
    · exact absurd h (by simp)
  · exact absurd h (by simp)

theorem State.nameTicket_mem {ident : Nat} {t : Ticket} (h : s.nameTicket ident = .ok t) : t ∈ s.tickets.table := by
  unfold State.nameTicket at h
  (repeat' split at h) <;> cases h
  rename_i found
  exact (Keeps.ticket?_mem found).1

theorem execClearHoldDeadline_leads (ident : Nat) : Leads s (execClearHoldDeadline ident s) := by
  refine .formed ?_
  split
  · rename_i t d found
    obtain ⟨listed, cleared⟩ := State.clearHoldOf_mem found
    refine (Carries.refl s).atClock _ _ fun u k reached => k.keeps (·.shutTicket t .auto ⟨t, ?_, ?_, rfl, rfl⟩)
    · rw [reached]; exact listed
    · simp [cleared]
  · exact .refl s

theorem Keeps.readByIdent (s : State) (ident : Nat) : Keeps s (s.readByIdent ident) := by
  unfold State.readByIdent
  split <;> exact (refl s).setPort _

theorem Keeps.readByPlace (s : State) (place : Nat) : Keeps s (s.readByPlace place) := by
  unfold State.readByPlace
  (repeat' split) <;> exact (refl s).setPort _

theorem Keeps.readCache (s : State) : Keeps s s.readCache := by
  unfold State.readCache
  split <;> exact (refl s).setPort _

theorem Keeps.assign (s : State) (ident : Nat) : Keeps s (s.assign ident) := by
  unfold State.assign
  split
  · exact (refl s).reply _
  · rename_i t named
    split
    · rename_i opened
      refine reply (moveTicket (refl s) t _ _ (fun _ => by rfl) (fun _ => by rfl) (fun _ => by simp) ?_) _
      exact ⟨t, State.nameTicket_mem named, rfl, by simp [opened]⟩
    · exact (refl s).reply _

theorem Keeps.closeByDesk (s : State) (ident : Nat) : Keeps s (s.closeByDesk ident) := by
  unfold State.closeByDesk
  split
  · exact (refl s).reply _
  · rename_i t named
    split
    · exact (refl s).reply _
    · rename_i live
      exact ((refl s).shutTicket t _ ⟨t, State.nameTicket_mem named, live, rfl, rfl⟩).reply _

theorem execReadTicketByIdent_leads (ident : Nat) : Leads s (execReadTicketByIdent ident s) :=
  .formed (.deskKeeps _ fun u => .readByIdent u ident)

theorem execReadTicketByPlace_leads (place : Nat) : Leads s (execReadTicketByPlace place s) :=
  .formed (.deskKeeps _ fun u => .readByPlace u place)

theorem execAssignTicket_leads (ident : Nat) : Leads s (execAssignTicket ident s) :=
  .formed (.deskKeeps _ fun u => .assign u ident)

theorem execCloseTicket_leads (ident : Nat) : Leads s (execCloseTicket ident s) :=
  .formed (.deskKeeps _ fun u => .closeByDesk u ident)

theorem execReadForeignTickets_leads : Leads s (execReadForeignTickets s) := .next (.deskKeeps _ Keeps.readCache)

end Sys2Proof.Machine

/-! SUPPORT. POWER_ON, SET TIME, LOAD SETTINGS, JOIN and the station reset, and the statements about the machine as a whole. -/

namespace Sys2Proof.Machine

variable {r s : State}

/-! ## SET TIME (R194) -/

namespace Keeps

/-- A live ticket is closed that the table holds whenever the ticket law stood at the beginning. -/
theorem shutTicketOfLaw (h : Keeps r s) (t : Ticket) (c : TicketCause)
    (ht : TicketLaw r.straps r.tickets.table r.records → t ∈ s.tickets.table ∧ t.Live) : Keeps r (s.shutTicket t c) := by
  by_cases law : TicketLaw r.straps r.tickets.table r.records
  · exact h.shutTicket t c ⟨t, (ht law).1, (ht law).2, rfl, rfl⟩
  · unfold State.shutTicket State.moveTicket
    refine announceTicket ?_ _ _ _
    exact { h with
      records := fun k => putRecord_sound _ _ _ (h.records k) (lookRecord_level _ _ (h.records k).2)
      tickets := fun k => by simpa [State.updateTicket, State.setRecord] using h.tickets k
      law := fun k => absurd k law }

theorem shutTicket_keeps_other (t u : Ticket) (c : TicketCause) (hu : u ∈ s.tickets.table) (hne : u.ident ≠ t.ident) :
    u ∈ (s.shutTicket t c).tickets.table := by
  rw [State.shutTicket, State.moveTicket, State.announceTicket, State.post_tickets, State.offerPlain, State.offer_line]
  exact List.mem_map.mpr ⟨u, hu, if_neg hne⟩

/-- Live tickets of the table with idents of their own are closed one after the other. -/
theorem shutTickets (ts : List Ticket) (c : TicketCause) (s : State) (h : Keeps r s)
    (hi : TicketLaw r.straps r.tickets.table r.records → (ts.map (·.ident)).Nodup)
    (ht : TicketLaw r.straps r.tickets.table r.records → ∀ t ∈ ts, t ∈ s.tickets.table ∧ t.Live) :
    Keeps r (ts.foldl (fun s t => s.shutTicket t c) s) := by
  induction ts generalizing s with
  | nil => exact h
  | cons t ts ih =>
    refine ih _ (h.shutTicketOfLaw t c fun law => ht law t (by simp))
      (fun law => (List.nodup_cons.mp (hi law)).2) fun law u hu => ?_
    obtain ⟨listed, live⟩ := ht law u (List.mem_cons_of_mem _ hu)
    refine ⟨shutTicket_keeps_other t u c listed fun same => (List.nodup_cons.mp (hi law)).1 ?_, live⟩
    exact List.mem_map.mpr ⟨u, hu, same⟩

theorem applyWaitLimits (h : Keeps r s) : Keeps r s.applyWaitLimits := by
  have k : Keeps r (s.lateOrders.foldl (fun s t => s.waitRunsOut t) s) := foldl _ (fun _ t k => k.waitRunsOut t) _ _ h
  unfold State.applyWaitLimits
  dsimp only
  split
  · split
    · exact k.endAccess _ _ _
    · exact k
  · exact k

theorem applySuspendLimit (h : Keeps r s) : Keeps r s.applySuspendLimit := by
  unfold State.applySuspendLimit
  split
  · split
    · exact h.abandon _ _ _
    · exact h
  · exact h

theorem applyClearHolds (h : Keeps r s) : Keeps r s.applyClearHolds := by
  have taken : (s.tickets.table.filter s.clearHoldRunOut).Sublist s.tickets.table := List.filter_sublist
  refine shutTickets _ _ _ h (fun law => ?_) fun law t ht => ?_
  · have idents := (h.law law).idents
    rw [show (fun t : Ticket => t.ident % 4096) = (· % 4096) ∘ (·.ident) from rfl, ← List.map_map] at idents
    exact (taken.map _).nodup idents.of_map
  · obtain ⟨listed, due⟩ := List.mem_filter.mp ht
    simp only [State.clearHoldRunOut, Bool.and_eq_true, beq_iff_eq] at due
    exact ⟨listed, by simp [due.1]⟩

theorem applySweepDue (h : Keeps r s) : Keeps r s.applySweepDue := by
  unfold State.applySweepDue
  split
  · split
    · exact h
    split
    · exact h.setSweep _ (by rfl) (by rfl) (by rfl) (by rfl)
    · exact h.sweepFallsDue
  · exact h

theorem applyGuard (h : Keeps r s) : Keeps r s.applyGuard := by
  unfold State.applyGuard
  split
  · split
    · exact h.passGuard
    · exact h
  · exact h

theorem limitsPassed (h : Keeps r s) :
    Keeps r s.applyWaitLimits.applySuspendLimit.applyClearHolds.applySweepDue.applyGuard.pump :=
  h.applyWaitLimits.applySuspendLimit.applyClearHolds.applySweepDue.applyGuard.pump

end Keeps

/-- The clock is set to a moment that four bytes of seconds can name (R194). -/
theorem execSetTime_leads (seconds : Nat) : Leads s (execSetTime seconds s) := by
  by_cases ok : fits4 seconds = true
  · refine .formed (.desk _ ?_)
    refine ((Carries.refl _).setTime { (s.setPort none).time with clock := seconds * 1000 } fun h => ⟨?_, h.2⟩).keeps
      fun k => k.limitsPassed.reply _
    simp only [fits4, decide_eq_true_eq] at ok
    simp only [Config.clockMax]
    omega
  · rintro t answered
    simp [execSetTime, formed, Instr.wellFormed, ok] at answered

/-! ## LOAD SETTINGS, JOIN and the station reset -/

theorem clamp_range {low high : Nat} (n : Nat) (h : low ≤ high) : low ≤ clamp low high n ∧ clamp low high n ≤ high := by
  unfold clamp
  omega

theorem Settings.ofRecord_inRange (x : SettingsRecord) (h : x.gauge.length = 4) : (Settings.ofRecord x).InRange := by
  have level := clamp_range x.openLevel (show 1 ≤ 255 by decide)
  refine ⟨clamp_range _ (by decide), clamp_range _ (by decide), clamp_range _ (by decide), clamp_range _ (by decide),
    clamp_range _ (by decide), ⟨?_, fun g hg => ?_⟩, clamp_range _ (by decide), clamp_range _ (by decide),
    clamp_range _ (by decide), level, ?_, clamp_range _ (by decide), clamp_range _ (by decide),
    clamp_range _ (by decide)⟩
  · simpa [Settings.ofRecord] using h
  · obtain ⟨n, -, rfl⟩ := List.mem_map.mp hg
    exact clamp_range n (by decide)
  · have : clearInForce x ≤ openInForce x - 1 := Nat.min_le_right _ _
    simp only [Settings.ofRecord]
    unfold openInForce at this ⊢
    omega

theorem withGauges_sound {units : List UnitEntry} {idx : List Nat} (hl : idx.length = Config.unitCount)
    (h : UnitsSound units) : UnitsSound (withGauges units idx) := by
  refine ⟨by simp [withGauges, hl, h.1], fun u hu => ?_⟩
  simp only [withGauges, ← List.map_uncurry_zip_eq_zipWith, List.mem_map] at hu
  obtain ⟨⟨e, g⟩, listed, rfl⟩ := hu
  exact ⟨Nat.min_le_left _ _, (h.2 e (List.of_mem_zip listed).1).2⟩

theorem Keeps.beginJoin (h : Keeps r s) : Keeps r s.beginJoin := by
  unfold State.beginJoin
  exact ((h.setClaims _ (by rfl)).offer _).tryNow

theorem Keeps.joinLine (s : State) : Keeps s s.joinLine := by
  unfold State.joinLine
  split
  · exact (refl s).beginJoin.reply _
  · exact (refl s).reply _

theorem execJoin_leads : Leads s (execJoin s) := .next (.deskKeeps _ Keeps.joinLine)

theorem Tx.plainly_asserts (tx : Tx) : tx.plainly.asserts = tx.asserts := by
  unfold Tx.plainly
  split <;> rfl

theorem QueueSound.plainly {q : List Tx} (h : QueueSound q) : QueueSound (q.map Tx.plainly) := by
  rintro ⟨tx, listed, other⟩
  obtain ⟨x, hx, rfl⟩ := List.mem_map.mp listed
  rw [List.length_map]
  exact h ⟨x, hx, by rwa [Tx.plainly_asserts] at other⟩

namespace Keeps

theorem enterResetting (h : Keeps r s) : Keeps r s.enterResetting := by
  unfold State.enterResetting
  exact ((h.setClaims _ (by rfl)).setLine _ fun k => by exact k.plainly).endOpening

theorem discardOrders (h : Keeps r s) : Keeps r s.discardOrders :=
  h.setSeq _ (Nat.zero_le _) (Nat.zero_le _)

theorem resetSlot (h : Keeps r s) (id : SlotId) : Keeps r (s.resetSlot id) := by
  unfold State.resetSlot
  split
  · split
    · exact h
    · exact h.beginRelease _
  · exact h

theorem silenceSweep (h : Keeps r s) : Keeps r s.silenceSweep :=
  h.setSweep _ (by rfl) (by rfl) (by rfl) (by rfl)

theorem beginReset (h : Keeps r s) : Keeps r s.beginReset :=
  ((h.enterResetting.discardOrders.resetSlot _).resetSlot _).silenceSweep.settleSlots.pump

theorem resetStation (s : State) : Keeps s s.resetStation := by
  unfold State.resetStation
  split
  · exact (refl s).reply _
  · exact ((refl s).reply _).beginReset

theorem emptyLine (h : Keeps r s) : Keeps r s.emptyLine :=
  h.setLine _ fun _ => .of_length (Nat.zero_le _)

theorem leaveReset (h : Keeps r s) : Keeps r s.leaveReset := by
  unfold State.leaveReset
  split
  · exact h.beginJoin
  · exact (h.setClaims _ (by rfl)).isolate.capture _

end Keeps

theorem execStationReset_leads : Leads s (execStationReset s) := .next (.deskKeeps _ Keeps.resetStation)

theorem execResetEnd_leads : Leads s (execResetEnd s) :=
  .ite (fun _ => .next (.ofKeeps
    ((Keeps.refl s).emptyLine.dropReports _ (List.nil_sublist _)).emptyCapture.leaveReset)) fun _ => .stay

end Sys2Proof.Machine

/-! SUPPORT. Every command: what it carries over, when it answers, and the statements about the machine as a whole (O1 to O7). -/

namespace Sys2Proof.Machine

variable {r s t : State}

/-! ## Every command but POWER_ON and LOAD SETTINGS -/

theorem exec_leads (c : Instr) (s : State) (power : ∀ m, c ≠ .powerOn m) (load : ∀ x, c ≠ .loadSettings x) :
    Leads s (exec c s) := by
  cases c with
  | powerOn m => exact absurd rfl (power m)
  | loadSettings x => exact absurd rfl (load x)
  | exchangeAnswered a => exact execExchangeAnswered_leads a
  | answerStartTimeout => exact execAnswerStartTimeout_leads
  | answerEndTimeout => exact execAnswerEndTimeout_leads
  | pollingPoint => exact execPollingPoint_leads
  | connectSettleEnd => exact execConnectSettleEnd_leads
  | releaseSettleEnd b => exact execReleaseSettleEnd_leads b
  | releaseRetry b => exact execReleaseRetry_leads b
  | quietWaitEnd => exact execQuietWaitEnd_leads
  | backoffEnd => exact execBackoffEnd_leads
  | collision => exact execCollision_leads
  | noticeSent => exact execNoticeSent_leads
  | receptionAbandoned => exact execReceptionAbandoned_leads
  | noticeReceived bytes => exact execNoticeReceived_leads bytes
  | contestWindowEnd => exact execContestWindowEnd_leads
  | awaitYieldLimit => exact execAwaitYieldLimit_leads
  | awaitedEntryExpiry b => exact execAwaitedEntryExpiry_leads b
  | holdInterval b => exact execHoldInterval_leads b
  | disturbanceDeadline b => exact execDisturbanceDeadline_leads b
  | peerEntryExpiry b => exact execPeerEntryExpiry_leads b
  | joinPeriodEnd => exact execJoinPeriodEnd_leads
  | headConnected => exact execHeadConnected_leads
  | foreignStageEnd tg rg tr => exact execForeignStageEnd_leads tg rg tr
  | resistOffPhaseEnd i v => exact execResistOffPhaseEnd_leads i v
  | resistSettleEnd => exact execResistSettleEnd_leads
  | resistOnReadingEnd i => exact execResistOnReadingEnd_leads i
  | capacityRecordEnd i => exact execCapacityRecordEnd_leads i
  | capacityDrainEnd => exact execCapacityDrainEnd_leads
  | dischargeEnd => exact execDischargeEnd_leads
  | busRelayOpen => exact execBusRelayOpen_leads
  | accessStart => exact execAccessStart_leads
  | accessWaitLimit tag => exact execAccessWaitLimit_leads tag
  | holdStepEnd => exact execHoldStepEnd_leads
  | suspendLimit => exact execSuspendLimit_leads
  | clearHoldDeadline i => exact execClearHoldDeadline_leads i
  | clearUnitStep => exact execClearUnitStep_leads
  | sweepDue => exact execSweepDue_leads
  | sweepGuard => exact execSweepGuard_leads
  | resetEnd => exact execResetEnd_leads
  | selectReleased => exact execSelectReleased_leads
  | responseCompleted => exact execResponseCompleted_leads
  | badCommand code length => exact execBadCommand_leads code length
  | submitOrder o => exact execSubmitOrder_leads o
  | cancelOrder tag => exact execCancelOrder_leads tag
  | resumeOrder tag => exact execResumeOrder_leads tag
  | readCompletion => exact execReadCompletion_leads
  | readReport => exact execReadReport_leads
  | readStatus => exact execReadStatus_leads
  | sweepStart x => exact execSweepStart_leads x
  | sweepStop => exact execSweepStop_leads
  | sweepContinue => exact execSweepContinue_leads
  | readLineRecord l => exact execReadLineRecord_leads l
  | setLineClass f n p o => exact execSetLineClass_leads f n p o
  | clearRecords => exact execClearRecords_leads
  | readTicketByIdent i => exact execReadTicketByIdent_leads i
  | readTicketByPlace p => exact execReadTicketByPlace_leads p
  | assignTicket i => exact execAssignTicket_leads i
  | closeTicket i => exact execCloseTicket_leads i
  | readForeignTickets => exact execReadForeignTickets_leads
  | setTime n => exact execSetTime_leads n
  | join => exact execJoin_leads
  | stationReset => exact execStationReset_leads
  | setFilter marks v m => exact execSetFilter_leads marks v m
  | setCriticalLevel n => exact execSetCriticalLevel_leads n
  | clearErrors => exact execClearErrors_leads
  | pollRestart => exact execPollRestart_leads
  | answerBegins => exact execAnswerBegins_leads
  | startSymbolTaken => exact execStartSymbolTaken_leads

/-! ## LOAD SETTINGS (R203) -/

/-- What LOAD SETTINGS leaves alone: all but the settings and the gauge indexes. -/
structure Reloads (s t : State) : Prop where
  pending : t.pending = s.pending
  straps : t.straps = s.straps
  sound : s.Sound → t.Sound
  own : OneClaimPerLine s.claims.entries → OneClaimPerLine t.claims.entries
  law : TicketLaw s.straps s.tickets.table s.records → TicketLaw t.straps t.tickets.table t.records

theorem Carries.reloads (h : Carries s t) : Reloads s t := ⟨h.pending, h.straps, h.sound, h.own, h.law⟩

theorem takeSettings_reloads (s : State) (x : SettingsRecord) (hx : x.wellFormed = true) :
    Reloads s (s.takeSettings x) := by
  simp only [SettingsRecord.wellFormed, Bool.and_eq_true, decide_eq_true_eq] at hx
  unfold State.takeSettings
  split
  · refine ⟨rfl, rfl, fun h => ?_, id, id⟩
    exact { h with
      settings := Settings.ofRecord_inRange x (by tauto)
      units := withGauges_sound (by rw [Config.unitCount]; tauto) h.units }
  · exact (Carries.ofKeeps ((Keeps.refl s).reply _)).reloads

theorem execLoadSettings_reloads {x : SettingsRecord} (h : execLoadSettings x s = .next t) : Reloads s t := by
  have free : Reloads s (s.setPort none) := (Carries.ofKeeps ((Keeps.refl s).setPort none)).reloads
  by_cases wf : x.wellFormed = true
  · simp only [execLoadSettings, formed, Instr.wellFormed, wf, if_true, Host.Outcome.next.injEq] at h
    subst h
    unfold State.desk
    dsimp only
    split
    · exact (Carries.ofKeeps (((Keeps.refl s).setPort none).reply .busy)).reloads
    · have k := takeSettings_reloads (s.setPort none) x wf
      exact ⟨k.pending, k.straps, k.sound ∘ free.sound, k.own, k.law⟩
  · simp [execLoadSettings, formed, Instr.wellFormed, wf] at h

/-! ## POWER_ON (R202) -/

theorem strapValue_lt {w : Nat} (hw : 0 < w) (mask : BitVec w) : strapValue mask < w := by
  unfold strapValue
  cases found : (List.range w).find? fun i => mask.getLsbD i with
  | none => exact hw
  | some i => exact List.mem_range.mp (List.mem_of_find?_eq_some found)

theorem Straps.ofMasks_inRange (m : StrapMasks) : (Straps.ofMasks m).InRange := by
  have station := strapValue_lt (by decide) m.station
  have buses := strapValue_lt (by decide) m.buses
  have base := strapValue_lt (by decide) m.baseUnit
  have units := strapValue_lt (by decide) m.units
  simp only [Straps.InRange, Straps.ofMasks]
  omega

theorem Straps.unfitted_inRange : Straps.unfitted.InRange := by decide

theorem Settings.powerOn_inRange : Settings.powerOn.InRange := by
  simp [Settings.InRange, Settings.powerOn]

theorem unitsSound_powerOn : UnitsSound Chain.powerOn.units := by
  refine ⟨List.length_replicate, fun u hu => ?_⟩
  rw [List.eq_of_mem_replicate hu]
  decide

theorem Sweep.powerOn_inRange (p : Straps) (h : p.InRange) : (Sweep.powerOn p.firstLine).InRange p := by
  simp [Sweep.InRange, Sweep.powerOn, Keeps.firstLine_le_last p h]

theorem OneClaimPerLine.replicate_free (n : Nat) : OneClaimPerLine (List.replicate n .free) := by
  intro b hb _ _ c hc
  rw [List.getD_eq_getElem _ _ hb, List.getElem_replicate] at hc
  exact absurd hc (by simp [Entry.own?])

/-- A machine just powered on with straps in their ranges is sound, whatever its unit drive sets, free values and waiting commands. -/
theorem poweredOn_sound (s : State) (p : Straps) (h : p.InRange) : (s.poweredOn p).Sound where
  straps := h
  settings := Settings.powerOn_inRange
  time := ⟨Nat.zero_le _, (by decide : 0 < 320)⟩
  units := unitsSound_powerOn
  poller := (by decide : 0 < 64)
  entries := List.length_replicate
  records := ⟨rfl, by simp [State.poweredOn, State.reset]⟩
  serial := Nat.zero_le _
  sweep := Sweep.powerOn_inRange p h
  capacity := ⟨Nat.zero_le _, Nat.zero_le _, Nat.zero_le _, Nat.zero_le _, Nat.zero_le _, .of_length (Nat.zero_le _)⟩

theorem poweredOn_law (s : State) (p : Straps) :
    TicketLaw p (s.poweredOn p).tickets.table (s.poweredOn p).records :=
  .emptied p _ rfl (by simp [State.poweredOn, State.reset])

theorem unitMayAct_pending (s : State) (q : ChainRequest) : (s.unitMayAct q).pending = s.pending :=
  ((Keeps.refl s).unitMayAct q).pending

theorem poweredOn_pending (s : State) (p : Straps) : (s.poweredOn p).pending = s.pending := by
  simp only [State.poweredOn, State.cutShort]
  split
  · exact unitMayAct_pending _ _
  · rfl

/-! ## The three invariants through a step -/

/-- A command, or the idle tick, carries the three invariants over; each holds of itself. -/
structure Upholds (s t : State) : Prop where
  sound : s.Sound → t.Sound
  own : OneClaimPerLine s.claims.entries → OneClaimPerLine t.claims.entries
  law : TicketLaw s.straps s.tickets.table s.records → TicketLaw t.straps t.tickets.table t.records

theorem exec_upholds {c : Instr} (h : exec c s = .next t) : Upholds s t := by
  by_cases power : ∃ m, c = .powerOn m
  · obtain ⟨m, rfl⟩ := power
    obtain rfl : s.poweredOn (Straps.ofMasks m) = t := Host.Outcome.next.inj h
    exact ⟨fun _ => poweredOn_sound _ _ (Straps.ofMasks_inRange m), fun _ => .replicate_free _,
      fun _ => poweredOn_law _ _⟩
  by_cases load : ∃ x, c = .loadSettings x
  · obtain ⟨x, rfl⟩ := load
    have k := execLoadSettings_reloads (x := x) h
    exact ⟨k.sound, k.own, k.law⟩
  · have k := exec_leads c s (by simpa using power) (by simpa using load) t h
    exact ⟨k.sound, k.own, k.law⟩

theorem step_upholds (h : step s = .next t) : Upholds s t := by
  unfold step at h
  split at h
  · obtain rfl := Host.Outcome.next.inj h
    have k := (Carries.refl s).pass Config.msQuanta
    exact ⟨k.sound, k.own, k.law⟩
  · rename_i c rest _
    have k := exec_upholds h
    exact ⟨fun sound => k.sound { sound with }, k.own, k.law⟩

/-- Settles O3, from what each command carries over. -/
theorem everyStepKeepsTheStateSound : Obligations.EveryStepKeepsTheStateSound :=
  fun _ _ sound answered => (step_upholds answered).sound sound

/-- Settles O4, from what each command carries over. -/
theorem everyStepKeepsOneClaimForEachLine : Obligations.EveryStepKeepsOneClaimForEachLine :=
  fun _ _ own answered => (step_upholds answered).own own

/-- Settles O5, from what each command carries over. -/
theorem everyStepKeepsTheTicketLaw : Obligations.EveryStepKeepsTheTicketLaw :=
  fun _ _ law answered => (step_upholds answered).law law

/-- Settles O7: POWER_ON and LOAD SETTINGS are apart from what every other command carries over. -/
theorem strapsAndSettingsChangeByTheirCommandsAlone : Obligations.StrapsAndSettingsChangeByTheirCommandsAlone := by
  intro c s t answered
  by_cases power : ∃ m, c = .powerOn m
  · obtain ⟨m, rfl⟩ := power
    obtain rfl : s.poweredOn (Straps.ofMasks m) = t := Host.Outcome.next.inj answered
    exact ⟨poweredOn_pending _ _, fun other => absurd rfl (other m), fun other => absurd rfl (other m)⟩
  by_cases load : ∃ x, c = .loadSettings x
  · obtain ⟨x, rfl⟩ := load
    have k := execLoadSettings_reloads (x := x) answered
    exact ⟨k.pending, fun _ => k.straps, fun _ other => absurd rfl (other x)⟩
  · have k := exec_leads c s (by simpa using power) (by simpa using load) t answered
    exact ⟨k.pending, fun _ => k.straps, fun _ _ => k.settings⟩

/-- Settles O1: the front command is taken off the queue before it acts. -/
theorem stepRunsTheFrontCommand : Obligations.StepRunsTheFrontCommand := fun _ _ _ => rfl

/-- Settles O2: the reset state is a power-on with no strap fitted. -/
theorem resetMeetsEveryInvariant : Obligations.ResetMeetsEveryInvariant := by
  refine ⟨?_, .replicate_free 1, poweredOn_law State.reset Straps.unfitted⟩
  exact { poweredOn_sound State.reset Straps.unfitted Straps.unfitted_inRange with }

end Sys2Proof.Machine

/-! SUPPORT. Every command answers a next state exactly on operands of the form its row gives them (O6), and the clock (O9). -/

namespace Sys2Proof.Machine

variable {s t : State}

/-! ## When a command answers (O6) -/

/-- The outcome is a next state where `ok` stands and the fault of log 25 where it does not. -/
def AnswersIf (ok : Bool) (o : Out) : Prop := ∃ m t, o = formed m ok t

/-- The outcome is a next state, whatever the operands. -/
def Answers (o : Out) : Prop := ∃ t, o = .next t

theorem Answers.next : Answers (.next t) := ⟨t, rfl⟩

theorem Answers.ite {c : Prop} [Decidable c] {a b : Out} (ha : Answers a) (hb : Answers b) :
    Answers (if c then a else b) := by
  split
  · exact ha
  · exact hb

/-- An outcome that is a next state always is one of a command whose operands have no form to miss. -/
theorem Answers.answersIf {o : Out} (h : Answers o) : AnswersIf true o := by
  obtain ⟨t, rfl⟩ := h
  exact ⟨"", t, rfl⟩

theorem formed_answersIf (m : String) (ok : Bool) (t : State) : AnswersIf ok (formed m ok t) := ⟨m, t, rfl⟩

/-- Every command answers its outcome by the form of its operands alone: a command with operands of its row's form checks it, a desk command
without operands is answered whatever the state, and an event is taken or passed over by what the state awaits. -/
theorem exec_answersIf (c : Instr) (s : State) : AnswersIf c.wellFormed (exec c s) := by
  cases c with
  | releaseSettleEnd | releaseRetry | noticeReceived | awaitedEntryExpiry | holdInterval | disturbanceDeadline
  | peerEntryExpiry | foreignStageEnd | resistOffPhaseEnd | resistOnReadingEnd | capacityRecordEnd | accessWaitLimit
  | clearHoldDeadline | badCommand | submitOrder | cancelOrder | resumeOrder | sweepStart | readLineRecord
  | setLineClass | readTicketByIdent | readTicketByPlace | assignTicket | closeTicket | setTime | loadSettings
  | setFilter | setCriticalLevel => exact formed_answersIf _ _ _
  | powerOn | receptionAbandoned | selectReleased | readCompletion | readReport | sweepStop | sweepContinue
  | clearRecords | readForeignTickets | join | stationReset | clearErrors | pollRestart =>
    exact Answers.next.answersIf
  | readStatus | startSymbolTaken | pollingPoint | headConnected | resistSettleEnd | busRelayOpen | resetEnd =>
    exact (Answers.ite .next .next).answersIf
  | exchangeAnswered a =>
    refine Answers.answersIf ?_
    simp only [exec, execExchangeAnswered]
    split
    exacts [.ite .next .next, .next]
  | answerBegins =>
    refine Answers.answersIf ?_
    simp only [exec, execAnswerBegins]
    split
    exacts [.ite .next .next, .next]
  | answerStartTimeout =>
    refine Answers.answersIf ?_
    simp only [exec, execAnswerStartTimeout]
    split
    exacts [.ite .next .next, .next]
  | answerEndTimeout =>
    refine Answers.answersIf ?_
    simp only [exec, execAnswerEndTimeout]
    split
    exacts [.ite .next .next, .next]
  | connectSettleEnd =>
    refine Answers.answersIf ?_
    simp only [exec, execConnectSettleEnd]
    split <;> exact .next
  | quietWaitEnd =>
    refine Answers.answersIf ?_
    simp only [exec, execQuietWaitEnd]
    split
    exacts [.ite .next .next, .next]
  | backoffEnd =>
    refine Answers.answersIf ?_
    simp only [exec, execBackoffEnd]
    split
    exacts [.ite .next .next, .next]
  | collision =>
    refine Answers.answersIf ?_
    simp only [exec, execCollision]
    (repeat' split) <;> exact .next
  | noticeSent =>
    refine Answers.answersIf ?_
    simp only [exec, execNoticeSent]
    (repeat' split) <;> exact .next
  | contestWindowEnd =>
    refine Answers.answersIf ?_
    simp only [exec, execContestWindowEnd]
    (repeat' split) <;> exact .next
  | awaitYieldLimit =>
    refine Answers.answersIf ?_
    simp only [exec, execAwaitYieldLimit]
    split
    exacts [.ite .next .next, .next]
  | joinPeriodEnd =>
    refine Answers.answersIf ?_
    simp only [exec, execJoinPeriodEnd]
    split
    exacts [.ite .next .next, .next]
  | capacityDrainEnd =>
    refine Answers.answersIf ?_
    simp only [exec, execCapacityDrainEnd]
    (repeat' split) <;> exact .next
  | dischargeEnd =>
    refine Answers.answersIf ?_
    simp only [exec, execDischargeEnd]
    split
    exacts [.ite .next .next, .next]
  | accessStart =>
    refine Answers.answersIf ?_
    simp only [exec, execAccessStart]
    (repeat' split) <;> exact .next
  | holdStepEnd =>
    refine Answers.answersIf ?_
    simp only [exec, execHoldStepEnd]
    split
    exacts [.ite .next .next, .next]
  | suspendLimit =>
    refine Answers.answersIf ?_
    simp only [exec, execSuspendLimit]
    split
    exacts [.ite .next .next, .next]
  | clearUnitStep =>
    refine Answers.answersIf ?_
    simp only [exec, execClearUnitStep]
    split <;> exact .next
  | sweepDue =>
    refine Answers.answersIf ?_
    simp only [exec, execSweepDue]
    split <;> exact .next
  | sweepGuard =>
    refine Answers.answersIf ?_
    simp only [exec, execSweepGuard]
    split <;> exact .next
  | responseCompleted =>
    refine Answers.answersIf ?_
    simp only [exec, execResponseCompleted]
    split <;> exact .next

/-- Settles O6, by the form of the operands alone. -/
theorem everyWellFormedCommandCompletes : Obligations.EveryWellFormedCommandCompletes := by
  intro c s
  obtain ⟨m, t, answered⟩ := exec_answersIf c s
  rw [answered]
  cases c.wellFormed <;> simp [formed]

/-! ## The clock (O9) -/

/-- Time that has not moved on is as it was (R194). -/
theorem State.pass_zero (h : s.time.InRange) : s.pass 0 = s := by
  obtain ⟨clock, part⟩ := h
  have whole : (s.time.part + 0) / Config.msQuanta = 0 := Nat.div_eq_of_lt part
  have rest : (s.time.part + 0) % Config.msQuanta = s.time.part := Nat.mod_eq_of_lt part
  unfold State.pass
  rw [whole, rest, Nat.add_zero, Nat.add_zero, min_eq_left clock]
  rfl

/-- The station clock reaches a moment ahead of it with no part of a millisecond over (R194). -/
theorem State.passClockTo_ahead (h : s.time.InRange) {m : Nat} (ahead : s.time.clock < m) (reached : m ≤ Config.clockMax) :
    s.passClockTo m =
      { s with time := { now := s.time.now + ((m - s.time.clock) * 320 - s.time.part), clock := m, part := 0 } } := by
  obtain ⟨-, part⟩ := h
  have sum : s.time.part + ((m - s.time.clock) * Config.msQuanta - s.time.part) = (m - s.time.clock) * Config.msQuanta := by
    simp only [Config.msQuanta] at part ⊢
    omega
  have clock : s.time.clock + (m - s.time.clock) = m := by omega
  unfold State.passClockTo State.pass
  rw [sum, Nat.mul_div_cancel _ (by decide), Nat.mul_mod_left, clock, min_eq_left reached]
  rfl

theorem State.passClockTo_behind (h : s.time.InRange) {m : Nat} (behind : m ≤ s.time.clock) : s.passClockTo m = s := by
  unfold State.passClockTo
  rw [Nat.sub_eq_zero_of_le behind, Nat.zero_mul, Nat.zero_sub, State.pass_zero h]

/-- A whole millisecond of idling (log 1). -/
theorem State.idle_eq (h : s.time.InRange) :
    s.idle =
      { s with
        time :=
          { now := s.time.now + 320, clock := min (s.time.clock + 1) 4294967295000, part := s.time.part } } := by
  have part : s.time.part < 320 := h.2
  have whole : (s.time.part + 320) / 320 = 1 := by omega
  have rest : (s.time.part + 320) % 320 = s.time.part := by omega
  simp only [State.idle, State.pass, State.setTime, Config.msQuanta, Config.clockMax, whole, rest]

/-- Settles O9, from the passing of time over a span, to a clock moment, and of a whole millisecond. -/
theorem clockAndElapsedTimePassTogether : Obligations.ClockAndElapsedTimePassTogether := by
  intro s m inRange
  refine ⟨?_, State.passClockTo_ahead inRange, State.passClockTo_behind inRange, fun idle => ?_⟩
  · have now : s.time.now + (m - s.time.now) = max s.time.now m := by omega
    simp only [State.passTo, State.pass, State.setTime, now, Config.msQuanta, Config.clockMax]
  · have ticks : step s = .next s.idle := by
      unfold step
      split
      · rfl
      · simp_all
    rw [ticks, State.idle_eq inRange]

end Sys2Proof.Machine

/-! SUPPORT. The rules of the chain: what the arbiter grants (R7, R8), how the unit table reads back, how exchanges end, and the statements about
polls (O10 to O13). -/

namespace Sys2Proof.Machine

variable {s t : State}

/-! ## Updates that follow one another -/

@[simp] theorem State.setChain_setChain (s : State) (x y : Chain) : (s.setChain x).setChain y = s.setChain y := rfl
@[simp] theorem State.setClaims_setClaims (s : State) (x y : Claims) : (s.setClaims x).setClaims y = s.setClaims y := rfl
@[simp] theorem State.setLine_setLine (s : State) (x y : DeskLine) : (s.setLine x).setLine y = s.setLine y := rfl
@[simp] theorem State.setHead_setHead (s : State) (x y : Head) : (s.setHead x).setHead y = s.setHead y := rfl
@[simp] theorem State.setSeq_setSeq (s : State) (x y : Sequencer) : (s.setSeq x).setSeq y = s.setSeq y := rfl
@[simp] theorem State.setSweep_setSweep (s : State) (x y : Sweep) : (s.setSweep x).setSweep y = s.setSweep y := rfl
@[simp] theorem State.setReports_setReports (s : State) (x y : ReportUnit) :
    (s.setReports x).setReports y = s.setReports y := rfl

@[simp] theorem State.setChain_self (s : State) : s.setChain s.chain = s := rfl

/-! ## The arbiter (R7, R8) -/

/-- Nothing is granted while an exchange stands on the chain, in discovery, or with nothing waiting. -/
theorem State.grant_nothing (k : Nat) (h : s.NothingToGrant) : State.grant k s = s := by
  cases k with
  | zero => rfl
  | succ k =>
    unfold State.grant
    split
    · rfl
    · rename_i free
      rw [Bool.not_eq_true, Bool.or_eq_false_iff] at free
      obtain ⟨noExchange, noDiscovery⟩ := free
      obtain h | h | ⟨noJob, noPoll⟩ := h
      · rw [noExchange] at h; exact absurd h (by decide)
      · rw [noDiscovery] at h; exact absurd h (by decide)
      · simp only [noJob, noPoll]

theorem State.pump_nothing (h : s.NothingToGrant) : s.pump = s := State.grant_nothing _ h

/-- A chain on which an exchange stands grants nothing. -/
theorem State.pump_busy (h : s.chain.exchange.isSome = true) : s.pump = s := State.pump_nothing (.inl h)

/-- Whether the arbiter may send a request: an OPERATE only while its pair's claim is HELD (R8). -/
def State.maySend (s : State) (q : ChainRequest) : Bool :=
  match q with
  | .operate p => s.pairHeld p
  | _ => true

/-- On a free chain the oldest request of the job group is sent if it may be (R7). -/
theorem State.pump_job (noExchange : s.chain.exchange = none) (noDiscovery : s.chain.discovery = none)
    {q : ChainRequest} {rest : List ChainRequest} (waits : s.chain.jobGroup = q :: rest)
    (may : s.maySend q = true) :
    s.pump = (s.setChain { s.chain with jobGroup := rest }).startExchange q := by
  unfold State.pump State.grant
  rw [noExchange, noDiscovery, waits]
  cases q with
  | operate p =>
    have held : (s.setChain { s.chain with exchange := none, jobGroup := rest, discovery := none }).pairHeld p = true := may
    simp only [Option.isSome_none, Bool.or_self, Bool.false_eq_true, if_false]
    exact if_pos held
  | release | readLine | poll | chainClear => simp [noExchange, noDiscovery]

/-- With no job group the oldest request of the poll group is sent (R7). -/
theorem State.pump_poll (noExchange : s.chain.exchange = none) (noDiscovery : s.chain.discovery = none)
    (noJob : s.chain.jobGroup = []) {u : Nat} {rest : List Nat} (waits : s.chain.pollGroup = u :: rest) :
    s.pump = (s.setChain { s.chain with pollGroup := rest }).startExchange (.poll u) := by
  unfold State.pump State.grant
  simp [noExchange, noDiscovery, noJob, waits]

/-- A request asked for on an idle chain is sent at once, if it may be (R7). -/
theorem State.ask_pump_idle (idle : s.ChainIdle) {q : ChainRequest} (may : s.maySend q = true) :
    (s.ask q).pump = s.startExchange q := by
  obtain ⟨noExchange, noJob, -, noDiscovery⟩ := idle
  have queue : (s.ask q).chain.jobGroup = [q] := by simp [State.ask, noJob]
  have back : (s.ask q).setChain { (s.ask q).chain with jobGroup := [] } = s := by
    change s.setChain { s.chain with jobGroup := [] } = s
    rw [← noJob]
    rfl
  rw [State.pump_job (s := s.ask q) noExchange noDiscovery queue (by cases q <;> exact may), back]

/-- A request asked for behind an exchange waits in the job group (R7). -/
theorem State.ask_pump_busy (busy : s.chain.exchange.isSome = true) (q : ChainRequest) : (s.ask q).pump = s.ask q :=
  State.pump_busy busy

/-- A poll asked for on an idle chain is sent at once (R7). -/
theorem State.askPoll_pump_idle (idle : s.ChainIdle) (u : Nat) : (s.askPoll u).pump = s.startExchange (.poll u) := by
  obtain ⟨noExchange, noJob, noPoll, noDiscovery⟩ := idle
  have queue : (s.askPoll u).chain.pollGroup = [u] := by simp [State.askPoll, noPoll]
  have back : (s.askPoll u).setChain { (s.askPoll u).chain with pollGroup := [] } = s := by
    change s.setChain { s.chain with pollGroup := [] } = s
    rw [← noPoll]
    rfl
  rw [State.pump_poll (s := s.askPoll u) noExchange noDiscovery noJob queue, back]

/-! ## The unit table -/

@[simp] theorem State.unitAt_setUnit_same {u : Nat} (e : UnitEntry) (h : u < s.chain.units.length) :
    (s.setUnit u e).unitAt u = e := by
  simp [State.unitAt, State.setUnit, h]

@[simp] theorem State.setUnit_setUnit (s : State) (u : Nat) (e f : UnitEntry) :
    (s.setUnit u e).setUnit u f = s.setUnit u f := by
  simp [State.setUnit]

/-- A report posted leaves the chain alone, so a unit entry may be set before it or after it. -/
theorem State.setUnit_post (s : State) (u : Nat) (e : UnitEntry) (c : ReportContent) :
    (s.setUnit u e).post c = (s.post c).setUnit u e := by
  simp only [State.setUnit, State.setChain_post, State.post_chain]

@[simp] theorem State.setUnit_length (s : State) (u : Nat) (e : UnitEntry) :
    (s.setUnit u e).chain.units.length = s.chain.units.length := by
  simp [State.setUnit]

@[simp] theorem State.unitAt_post (s : State) (c : ReportContent) (u : Nat) : (s.post c).unitAt u = s.unitAt u := by
  simp [State.unitAt]

@[simp] theorem State.unitAt_capture (s : State) (d : ErrorDetail) (u : Nat) : (s.capture d).unitAt u = s.unitAt u := by
  simp [State.unitAt]

/-- A unit's new state with its UNIT_CHANGE, on an entry set just before (R5, R11). -/
theorem State.setUnit_changeUnit {u : Nat} (e : UnitEntry) (h : u < s.chain.units.length) (st : UnitState) :
    (s.setUnit u e).changeUnit u st
      = (if e.state = st then s else s.post (.unitChange u st)).setUnit u { e with state := st } := by
  unfold State.changeUnit
  rw [State.unitAt_setUnit_same e h]
  split
  · rename_i same
    subst same
    rfl
  · rw [State.setUnit_setUnit, State.setUnit_post]

/-! ## The end of the exchange on the chain (R4 to R6) -/

theorem State.unitActs_discovery (s : State) (q : ChainRequest) : (s.unitActs q).chain.discovery = s.chain.discovery := by
  unfold State.unitActs
  (repeat' split) <;> rfl

theorem State.freeChain_post (s : State) (c : ReportContent) : s.freeChain.post c = (s.post c).freeChain := by
  rw [State.freeChain, State.setChain_post, State.freeChain, State.post_chain]

theorem State.freeChain_capture (s : State) (d : ErrorDetail) : s.freeChain.capture d = (s.capture d).freeChain := by
  rw [State.freeChain, State.setChain_capture, State.freeChain, State.capture_chain]

/-- After discovery an answer goes to its requester, and the arbiter grants (R4). -/
theorem State.answered_after_discovery {e : Exchange} (noDiscovery : s.chain.discovery = none) (a : ChainAnswer) :
    s.answered e a = ((s.unitActs e.request).freeChain.handAnswer e.request a).pump := by
  unfold State.answered
  dsimp only
  rw [show (s.unitActs e.request).freeChain.chain.discovery = none from (s.unitActs_discovery _).trans noDiscovery]

/-- EXCHANGE_ANSWERED in time (R4). -/
theorem exec_exchangeAnswered {e : Exchange} (on : s.chain.exchange = some e) (inTime : s.time.now ≤ e.lastAnswer)
    (noDiscovery : s.chain.discovery = none) (a : ChainAnswer) :
    exec (.exchangeAnswered a) s = .next ((s.unitActs e.request).freeChain.handAnswer e.request a).pump := by
  simp only [exec, execExchangeAnswered, on]
  rw [if_pos inTime, State.answered_after_discovery noDiscovery]

/-- The error that an exchange without its answer captures: silent, or stuck (section 10.7). -/
def unansweredError (k : ExchangeKind) (u : Option Nat) (stuck : Bool) : ErrorDetail :=
  if stuck then .chainStuck k u else .chainNoAnswer k u

/-- An exchange that ends NO_ANSWER does so at its limit, silent or stuck as its error says (R5, R6). -/
theorem exec_unanswered {c : Instr} {e : Exchange} {k : ExchangeKind} {u : Nat} {err : ErrorDetail}
    (h : EndsUnanswered e k u c err) (on : s.chain.exchange = some e) :
    ∃ stuck, err = unansweredError k (some u) stuck ∧ exec c s = .next ((s.passTo e.limit).noAnswer e stuck) := by
  obtain ⟨rfl, silent, rfl⟩ | ⟨rfl, begun, rfl⟩ := h
  · exact ⟨false, rfl, by simp [exec, execAnswerStartTimeout, on, silent]⟩
  · exact ⟨true, rfl, by simp [exec, execAnswerEndTimeout, on, begun]⟩

theorem State.unitMayAct_discovery (s : State) (q : ChainRequest) :
    (s.unitMayAct q).chain.discovery = s.chain.discovery := by
  cases q with
  | readLine | poll | chainClear => rfl
  | operate p | release p =>
    unfold State.unitMayAct
    dsimp only [State.takeFree]
    split
    · exact State.unitActs_discovery _ _
    · rfl

/-- After discovery an exchange without its answer captures its error, and its requester is told (R5, R6). -/
theorem State.noAnswer_after_discovery {e : Exchange} (noDiscovery : s.chain.discovery = none) (stuck : Bool) :
    s.noAnswer e stuck
      = (((s.unitMayAct e.request).freeChain.chainError e.request stuck).handNoAnswer e.request).pump := by
  unfold State.noAnswer
  dsimp only
  rw [State.unitMayAct_discovery, noDiscovery]

/-- The error is captured and a unit of the table is DOWN, a change posted behind it (R5, R6, log 44). -/
theorem State.chainError_unit {q : ChainRequest} {u : Nat} (unit : q.unit = some u) (h : u < s.chain.units.length)
    (stuck : Bool) :
    s.chainError q stuck
      = (if (s.unitAt u).state = .down then s.capture (unansweredError q.kind q.unit stuck)
         else (s.capture (unansweredError q.kind q.unit stuck)).post (.unitChange u .down)).setUnit u
          { s.unitAt u with state := .down } := by
  unfold State.chainError
  dsimp only
  rw [unit]
  dsimp only [unansweredError]
  generalize ErrorDetail.chainStuck q.kind (some u) = stuckError
  generalize ErrorDetail.chainNoAnswer q.kind (some u) = silentError
  generalize (if stuck = true then stuckError else silentError) = d
  have own : s.capture d = (s.capture d).setUnit u (s.unitAt u) := by
    have self : s.chain.units.set u (s.unitAt u) = s.chain.units := by
      rw [State.unitAt, List.getD_eq_getElem _ _ h, List.set_getElem_self h]
    simp only [State.setUnit, State.capture_chain, self]
    rw [← State.capture_chain s d]
    rfl
  conv_lhs => rw [own]
  rw [State.setUnit_changeUnit _ (by simpa using h)]

/-! ## Answers (O10) -/

/-- Settles O10: an answer begins and ends within its limits alone. -/
theorem anAnswerHasThirtyMilliseconds : Obligations.AnAnswerHasThirtyMilliseconds := by
  intro s e on
  refine ⟨fun fresh inTime => ?_, fun late => ?_, fun begun late a => ?_⟩
  · simp only [exec, execAnswerBegins, on]
    exact if_pos ⟨by simp [fresh], inTime⟩
  · simp only [exec, execAnswerBegins, on]
    refine if_neg fun ⟨fresh, inTime⟩ => late.elim (fun begun => ?_) (fun late => by omega)
    simp [begun] at fresh
  · have last : e.lastAnswer = e.limit := if_pos begun
    simp only [exec, execExchangeAnswered, on]
    exact if_neg (by omega)

/-! ## Polls (O11 to O13) -/

/-- R11 case by case: the entry of a present unit after its answer, and the report of a change. -/
theorem State.pollAnswered_eq {u : Nat} (listed : u < s.chain.units.length) (present : (s.unitAt u).state ≠ .absent)
    (a : ChainAnswer) {st : UnitState} (hst : st = if a.supplyGood = true ∧ a.alarm = false then .ok else .alarm) :
    s.pollAnswered u a
      = (if (s.unitAt u).state = st then s else s.post (.unitChange u st)).setUnit u
          { state := st
            gauge := (s.unitAt u).gauge
            faults := if st = .ok ∧ (s.unitAt u).state ≠ .ok then 0 else (s.unitAt u).faults
            lastPoll := s.clockSec } := by
  unfold State.pollAnswered State.stampPoll
  dsimp only
  rw [State.unitAt_setUnit_same _ listed, State.setUnit_setUnit, State.setUnit_changeUnit _ listed,
    State.setUnit_changeUnit _ listed]
  dsimp only
  cases before : (s.unitAt u).state with
  | absent => exact absurd before present
  | ok | alarm | down =>
    have known : st = if (a.supplyGood && !a.alarm) = true then .ok else .alarm := by simpa using hst
    rw [known]
    cases good : (a.supplyGood && !a.alarm) <;> simp

/-- Settles O11, by the table of R11. -/
theorem answeredPollSetsItsUnit : Obligations.AnsweredPollSetsItsUnit := by
  rintro s e u a ⟨on, noJob, noPoll, noDiscovery⟩ polls listed inTime present st hst
  have table : s.freeChain.pollAnswered u a
      = ((if (s.unitAt u).state = st then s else s.post (.unitChange u st)).freeChain).setUnit u
          { state := st
            gauge := (s.unitAt u).gauge
            faults := if st = .ok ∧ (s.unitAt u).state ≠ .ok then 0 else (s.unitAt u).faults
            lastPoll := s.clockSec } := by
    rw [State.pollAnswered_eq (s := s.freeChain) listed present a hst]
    by_cases same : (s.unitAt u).state = st
    · rw [if_pos same, if_pos (show (s.freeChain.unitAt u).state = st from same)]
      rfl
    · rw [if_neg same, if_neg (show (s.freeChain.unitAt u).state ≠ st from same), State.freeChain_post]
      rfl
  have chain : (if (s.unitAt u).state = st then s else s.post (.unitChange u st)).chain = s.chain := by
    split
    · rfl
    · exact s.post_chain _
  rw [exec_exchangeAnswered on inTime noDiscovery, polls]
  change Host.Outcome.next (s.freeChain.pollAnswered u a).pump = _
  rw [table, State.pump_nothing, State.freeChain, State.setUnit, State.setChain_chain, chain]
  · rfl
  · refine .inr (.inr ?_)
    simp only [State.freeChain, State.setUnit, State.setChain_chain, chain]
    exact ⟨noJob, noPoll⟩

/-- The error of an exchange without its answer is captured, with the report of its unit DOWN behind it (R5, R6, log 44). -/
def State.failedWith (s : State) (u : Nat) (err : ErrorDetail) : State :=
  if (s.unitAt u).state = .down then s.capture err else (s.capture err).post (.unitChange u .down)

@[simp] theorem State.failedWith_chain (s : State) (u : Nat) (err : ErrorDetail) :
    (s.failedWith u err).chain = s.chain := by
  unfold State.failedWith
  split <;> simp

@[simp] theorem State.failedWith_time (s : State) (u : Nat) (err : ErrorDetail) : (s.failedWith u err).time = s.time := by
  unfold State.failedWith
  split <;> simp

@[simp] theorem State.failedWith_straps (s : State) (u : Nat) (err : ErrorDetail) :
    (s.failedWith u err).straps = s.straps := by
  unfold State.failedWith; split <;> simp

@[simp] theorem State.failedWith_settings (s : State) (u : Nat) (err : ErrorDetail) :
    (s.failedWith u err).settings = s.settings := by
  unfold State.failedWith; split <;> simp

@[simp] theorem State.failedWith_line (s : State) (u : Nat) (err : ErrorDetail) :
    (s.failedWith u err).line = s.line := by
  unfold State.failedWith; split <;> simp

@[simp] theorem State.failedWith_claims (s : State) (u : Nat) (err : ErrorDetail) :
    (s.failedWith u err).claims = s.claims := by
  unfold State.failedWith; split <;> simp

@[simp] theorem State.failedWith_head (s : State) (u : Nat) (err : ErrorDetail) :
    (s.failedWith u err).head = s.head := by
  unfold State.failedWith; split <;> simp

@[simp] theorem State.failedWith_seq (s : State) (u : Nat) (err : ErrorDetail) :
    (s.failedWith u err).seq = s.seq := by
  unfold State.failedWith; split <;> simp

@[simp] theorem State.failedWith_records (s : State) (u : Nat) (err : ErrorDetail) :
    (s.failedWith u err).records = s.records := by
  unfold State.failedWith; split <;> simp

@[simp] theorem State.failedWith_tickets (s : State) (u : Nat) (err : ErrorDetail) :
    (s.failedWith u err).tickets = s.tickets := by
  unfold State.failedWith; split <;> simp

@[simp] theorem State.failedWith_sweep (s : State) (u : Nat) (err : ErrorDetail) :
    (s.failedWith u err).sweep = s.sweep := by
  unfold State.failedWith; split <;> simp

@[simp] theorem State.failedWith_pending (s : State) (u : Nat) (err : ErrorDetail) :
    (s.failedWith u err).pending = s.pending := by
  unfold State.failedWith; split <;> simp

@[simp] theorem State.failedWith_free (s : State) (u : Nat) (err : ErrorDetail) : (s.failedWith u err).free = s.free := by
  unfold State.failedWith
  split <;> simp

theorem State.freeChain_failedWith (s : State) (u : Nat) (err : ErrorDetail) :
    s.freeChain.failedWith u err = (s.failedWith u err).freeChain := by
  unfold State.failedWith
  by_cases down : (s.unitAt u).state = .down
  · rw [if_pos down, if_pos (show (s.freeChain.unitAt u).state = .down from down), State.freeChain_capture]
  · rw [if_neg down, if_neg (show (s.freeChain.unitAt u).state ≠ .down from down), State.freeChain_capture,
      State.freeChain_post]

/-- The chain is free and the unit of the request DOWN, with the error and the report of it (R5, R6). -/
theorem State.freeChain_chainError {q : ChainRequest} {u : Nat} (unit : q.unit = some u)
    (listed : u < s.chain.units.length) (stuck : Bool) :
    s.freeChain.chainError q stuck
      = ((s.failedWith u (unansweredError q.kind (some u) stuck)).freeChain).setUnit u
          { s.unitAt u with state := .down } := by
  rw [State.chainError_unit (s := s.freeChain) unit listed, unit]
  exact congrArg (State.setUnit · u _) (s.freeChain_failedWith u _)

theorem State.failedWith_operated (s : State) (operated : List Pair) (free u : Nat) (err : ErrorDetail) :
    ((s.setChain { s.chain with driveSet := operated }).setFree free).failedWith u err
      = ((s.failedWith u err).setChain { s.chain with driveSet := operated }).setFree free := by
  unfold State.failedWith
  by_cases down : (s.unitAt u).state = .down
  · rw [if_pos down, if_pos (by exact down), State.setFree_capture, State.setChain_capture]
  · rw [if_neg down, if_neg (by exact down), State.setFree_capture, State.setChain_capture, State.setFree_post,
      State.setChain_post]

/-- What the units may have done with an unanswered request to a pair is a choice of the drive set (R18, log 8). -/
theorem State.unitMayAct_eq (s : State) {q : ChainRequest} (named : q.unit.isSome = true) :
    ∃ operated free, MayHaveActed s q operated free
      ∧ s.unitMayAct q = (s.setChain { s.chain with driveSet := operated }).setFree free := by
  cases q with
  | chainClear => exact absurd named (by decide)
  | readLine | poll => exact ⟨s.chain.driveSet, s.free, ⟨rfl, rfl⟩, rfl⟩
  | operate p =>
    unfold State.unitMayAct
    dsimp only [State.takeFree]
    by_cases acts : Config.freeChoice s.free = true
    · refine ⟨_, s.free + 1, .inr rfl, ?_⟩
      rw [if_pos acts, State.unitActs]
      split <;> simp_all <;> rfl
    · exact ⟨_, s.free + 1, .inl rfl, if_neg acts⟩
  | release p =>
    unfold State.unitMayAct
    dsimp only [State.takeFree]
    by_cases acts : Config.freeChoice s.free = true
    · exact ⟨_, s.free + 1, .inr rfl, if_pos acts⟩
    · exact ⟨_, s.free + 1, .inl rfl, if_neg acts⟩

/-- The state of an unanswered exchange: the failed one with what the units may have done (R5, R6). -/
theorem unanswered_eq (s : State) (e : Exchange) (u : Nat) (err : ErrorDetail) (operated : List Pair) (free : Nat) :
    unanswered s e u err operated free
      = (((s.passTo e.limit).failedWith u err).setChain
          { s.chain with
            exchange := none
            driveSet := operated
            units := s.chain.units.set u { s.unitAt u with state := .down } }).setFree free := rfl

/-- An exchange of a request that names a unit ends unanswered: its requester is told in the state that `unanswered` gives (R5, R6). -/
theorem exec_unanswered_unit {c : Instr} {e : Exchange} {u : Nat} {err : ErrorDetail}
    (h : EndsUnanswered e e.request.kind u c err) (on : s.chain.exchange = some e) (noDiscovery : s.chain.discovery = none)
    (unit : e.request.unit = some u) (listed : u < s.chain.units.length) :
    ∃ operated free, MayHaveActed s e.request operated free
      ∧ exec c s = .next ((unanswered s e u err operated free).handNoAnswer e.request).pump := by
  obtain ⟨stuck, rfl, ends⟩ := exec_unanswered h on
  obtain ⟨operated, free, may, acted⟩ := (s.passTo e.limit).unitMayAct_eq (q := e.request) (by simp [unit])
  refine ⟨operated, free, by cases request : e.request <;> rw [request] at may <;> exact may, ?_⟩
  rw [ends, State.noAnswer_after_discovery (s := s.passTo e.limit) noDiscovery, acted,
    State.freeChain_chainError (by exact unit) (by exact listed), State.failedWith_operated, unanswered_eq]
  generalize (s.passTo e.limit).failedWith u _ = t
  rfl

/-- Where the units have done nothing, an unanswered exchange leaves the drive set and the free values as they were. -/
theorem unanswered_idle (s : State) (e : Exchange) (u : Nat) (err : ErrorDetail) :
    unanswered s e u err s.chain.driveSet s.free
      = ((s.passTo e.limit).failedWith u err).setChain
          { s.chain with exchange := none, units := s.chain.units.set u { s.unitAt u with state := .down } } := by
  have free : ((s.passTo e.limit).failedWith u err).free = s.free := by simp
  rw [unanswered_eq]
  generalize (s.passTo e.limit).failedWith u err = t at free ⊢
  rw [← free]
  rfl

/-! ## Polls that fail (O12) -/

/-- Settles O12, by the end of a poll without its answer. -/
theorem failedPollHaltsPolling : Obligations.FailedPollHaltsPolling := by
  rintro s e u ⟨on, noJob, noPoll, noDiscovery⟩ polls listed c err how
  obtain ⟨operated, free, may, ends⟩ := exec_unanswered_unit (c := c) (err := err) (u := u) (by rw [polls]; exact how) on
    noDiscovery (by rw [polls]; rfl) listed
  rw [polls] at may ends
  obtain ⟨rfl, rfl⟩ := may
  rw [ends, unanswered_idle]
  generalize failed : (s.passTo e.limit).failedWith u err = t
  have chain : t.chain = s.chain := by simp [← failed]
  have time : t.time = (s.passTo e.limit).time := by simp [← failed]
  have stamped : (t.setChain { s.chain with
        exchange := none, units := s.chain.units.set u { s.unitAt u with state := .down } }).stampPoll u
      = t.setChain { s.chain with
        exchange := none
        units := s.chain.units.set u { s.unitAt u with state := .down, lastPoll := (s.passTo e.limit).time.clock / 1000 } } := by
    rw [← time]
    simp [State.stampPoll, State.setUnit, State.unitAt, listed, State.clockSec]
  change Host.Outcome.next (State.pollFailed _ u).pump = _
  rw [State.pollFailed, stamped, State.pump_nothing (by exact .inr (.inr ⟨noJob, noPoll⟩)), ← failed]
  rfl

/-! ## The polling point (O13) -/

theorem nextUnit_eq {units : List UnitEntry} {pointer k : Nat} (hk : k < 64)
    (present : (units.getD ((pointer + 1 + k) % 64) UnitEntry.powerOn).state ≠ .absent)
    (first : ∀ i < k, (units.getD ((pointer + 1 + i) % 64) UnitEntry.powerOn).state = .absent) :
    nextUnit units pointer = some ((pointer + 1 + k) % 64) := by
  unfold nextUnit
  rw [List.find?_map, Option.map_eq_some_iff]
  refine ⟨k, List.find?_range_eq_some.mpr ⟨?_, List.mem_range.mpr hk, fun i hi => ?_⟩, rfl⟩
  · simpa using present
  · simpa using first i hi

/-- A polling point polls the next present unit (R10). -/
theorem State.pollNext_polls (polling : s.chain.polling = true) (idle : s.pollPending = false) {u : Nat}
    (next : nextUnit s.chain.units s.chain.pollPointer = some u) :
    s.pollNext = ((s.setChain { s.chain with pollPointer := u }).askPoll u).pump := by
  unfold State.pollNext
  rw [polling, idle, next]
  rfl

/-- A polling point passes with polling halted or a poll pending (R10). -/
theorem State.pollNext_passes (h : s.chain.polling = false ∨ s.pollPending = true) : s.pollNext = s := by
  unfold State.pollNext
  rcases h with halted | pending
  · rw [halted]
    rfl
  · rw [pending]
    simp

/-- The state at a polling point: its moment has come, and the next point falls 250 ms on (R10). -/
def State.atPoint (s : State) : State :=
  (s.passTo s.chain.nextPoll).setChain { s.chain with nextPoll := s.chain.nextPoll + ms 250 }

theorem exec_pollingPoint (noDiscovery : s.chain.discovery = none) :
    exec .pollingPoint s = .next s.atPoint.pollNext :=
  if_neg (by simp [noDiscovery])

/-- Settles O13: the point passes, or the first present unit after the pointer is polled. -/
theorem pollingPointPollsTheNextUnit : Obligations.PollingPointPollsTheNextUnit := by
  intro s noDiscovery
  rw [exec_pollingPoint noDiscovery]
  refine ⟨fun k hk ⟨noExchange, noJob, noPoll, _⟩ polling present first => ?_, fun passes => ?_⟩
  · have next := nextUnit_eq (units := s.chain.units) hk present first
    have idle : s.pollPending = false := by simp [State.pollPending, noPoll, noExchange]
    rw [State.pollNext_polls (s := s.atPoint) polling idle next,
      State.askPoll_pump_idle (by exact ⟨noExchange, noJob, noPoll, noDiscovery⟩), State.startExchange]
    simp only [State.atPoint, State.setChain_time, State.passTo_now]
    rfl
  · rw [State.pollNext_passes (s := s.atPoint) passes]
    rfl

end Sys2Proof.Machine

/-! SUPPORT. The rules of jobs at the chain: the slot of a pair, an OWN entry changed, the release asked for, connects that fail or succeed, and jobs
that end; with the statements about settles (O14, O15). -/

namespace Sys2Proof.Machine

variable {s t : State}

/-! ## Slots and OWN entries -/

theorem State.slot_active {x : Slot} (h : s.seq.active = x) : s.slot .active = x := h

/-- A change of the job in a slot (R112). -/
theorem State.updateJob_job {id : SlotId} {j : Job} (h : s.slot id = .job j) (f : Job → Job) :
    s.updateJob id f = s.setSlot id (.job (f j)) := by
  unfold State.updateJob
  rw [h]

@[simp] theorem State.slot_setSlot (s : State) (id : SlotId) (x : Slot) : (s.setSlot id x).slot id = x := by
  cases id <;> rfl

@[simp] theorem State.setSlot_setSlot (s : State) (id : SlotId) (x y : Slot) :
    (s.setSlot id x).setSlot id y = s.setSlot id y := by
  cases id <;> rfl

theorem State.setSlot_slot {id : SlotId} {x : Slot} (h : s.slot id = x) : s.setSlot id x = s := by
  subst h
  cases id <;> rfl

/-- A slot replaced changes the sequencer alone. -/
theorem State.setSlot_eq (s : State) (id : SlotId) (x : Slot) : s.setSlot id x = s.setSeq (slotFilled s.seq id x) := by
  cases id <;> rfl

/-- The OWN entry of a bus, changed (R38). -/
theorem State.updateOwn_own {b : Nat} {c : OwnClaim} (h : s.entryAt b = .own c) (f : OwnClaim → OwnClaim) :
    s.updateOwn b f = s.setEntry b (.own (f c)) := by
  unfold State.updateOwn
  rw [h]

theorem State.ownAt_own {b : Nat} {c : OwnClaim} (h : s.entryAt b = .own c) : s.ownAt b = some c := by
  unfold State.ownAt
  rw [h]

/-- The pair of the active job is held by the active slot. -/
theorem State.slotOf_active {j : Job} {p : Pair} (h : s.seq.active = .job j) (bus : j.bus = some p.bus)
    (line : j.order.line = p.line) : s.slotOf p = some .active := by
  simp [State.slotOf, State.findSlot, h, Slot.job?, bus, line]

/-! ## The operations in progress -/

/-- The only operation in progress is that of its pair. -/
theorem State.opOf_only {o : ChainOp} (h : s.chain.ops = [o]) : s.opOf o.pair = some o := by
  simp [State.opOf, h]

@[simp] theorem State.opOf_dropOp (s : State) (p : Pair) : (s.dropOp p).opOf p = none := by
  simp [State.opOf, State.dropOp]

/-- A release is asked for at once where the pair has no connect in progress (R123). -/
theorem State.releaseAtChain_starts {id : SlotId} {j : Job} {p : Pair} (h : s.slot id = .job j) (bus : j.bus = some p.bus)
    (line : j.order.line = p.line) (operated : j.nothingOperated = false) (free : s.connecting? p = false) :
    s.releaseAtChain id = s.startRelease p .release 1 := by
  unfold State.releaseAtChain
  rw [h]
  dsimp only
  rw [bus]
  dsimp only
  rw [line, operated]
  simp only [Bool.false_eq_true, if_false]
  rw [show ({ bus := p.bus, line := p.line } : Pair) = p from rfl, free]
  rfl

/-- A request of a pair asked for on an idle chain is sent, with its operation in progress (R7). -/
theorem State.startRelease_pump (idle : s.ChainIdle) (p : Pair) (k : OpKind) (n : Nat) :
    (s.startRelease p k n).pump
      = (s.putOp { pair := p, kind := k, attempt := n, stage := .acting, abandoned := false }).startExchange (.release p) :=
  State.ask_pump_idle (by exact idle) rfl

theorem State.startConnect_pump (idle : s.ChainIdle) {p : Pair} (held : s.pairHeld p = true) (n : Nat) :
    (s.startConnect p n).pump
      = (s.putOp { pair := p, kind := .connect, attempt := n, stage := .acting, abandoned := false }).startExchange
          (.operate p) :=
  State.ask_pump_idle (by exact idle) (by exact held)

/-- The release of a pair, as the statements of Chapter 1 have it asked for. -/
theorem State.startRelease_asked (noJob : s.chain.jobGroup = []) (noPoll : s.chain.pollGroup = [])
    (noDiscovery : s.chain.discovery = none) (p : Pair) :
    (s.startRelease p .release 1).pump = s.setChain (releaseAsked s.chain p s.time.now) := by
  by_cases busy : s.chain.exchange.isSome = true
  · rw [State.pump_busy (by exact busy), releaseAsked, if_pos busy]
    rfl
  · rw [State.startRelease_pump ⟨by simpa using busy, noJob, noPoll, noDiscovery⟩, releaseAsked, if_neg busy]
    rfl

/-! ## Connects that end (R14, R15, R114) -/

/-- A connect that ends without success, of a job already in its release sequence (R123). -/
theorem State.connectEnded_releasing {p : Pair} {id : SlotId} {j : Job} {end_ : ConnectEnd} (slot : s.slotOf p = some id)
    (h : s.slot id = .job j) (phase : j.phase = .releasing) (failed : end_ ≠ .connected) :
    s.connectEnded p end_ = s.releaseAtChain id := by
  unfold State.connectEnded
  rw [slot]
  dsimp only
  rw [h]
  dsimp only
  rw [if_neg failed, if_pos phase]

/-! ## Acknowledgements (O14) -/

/-- The test that found a slot holds of its job. -/
theorem State.findSlot_spec {q : Job → Bool} {id : SlotId} {j : Job} (found : s.findSlot q = some id)
    (h : s.slot id = .job j) : q j = true := by
  unfold State.findSlot at found
  split at found
  · rename_i test
    obtain rfl := Option.some.inj found
    simpa [State.slot_active (s := s) rfl ▸ h, Slot.job?] using test
  · split at found
    · rename_i test
      obtain rfl := Option.some.inj found
      simpa [show s.seq.staged = .job j from h, Slot.job?] using test
    · exact absurd found (by simp)

/-- The job of a pair's slot holds that pair. -/
theorem State.slotOf_spec {p : Pair} {id : SlotId} {j : Job} (found : s.slotOf p = some id) (h : s.slot id = .job j) :
    j.bus = some p.bus ∧ j.order.line = p.line := by
  have := State.findSlot_spec found h
  simpa using this

/-- An acknowledged OPERATE: the chain is free and the unit has acted (R2). -/
theorem State.operate_acted (s : State) (p : Pair) :
    (s.unitActs (.operate p)).freeChain
      = s.setChain { s.chain with
          exchange := none
          driveSet := if s.chain.driveSet.contains p then s.chain.driveSet else s.chain.driveSet ++ [p] } := by
  unfold State.unitActs
  dsimp only
  split <;> rfl

theorem State.operateEnded_settles {p : Pair} {o : ChainOp} (op : s.opOf p = some o) (kept : o.abandoned = false) :
    s.operateEnded p true = s.putOp { o with stage := .settling (s.time.now + ms 10) } := by
  simp [State.operateEnded, op, kept]

theorem State.operateEnded_abandoned {p : Pair} {o : ChainOp} (op : s.opOf p = some o) (abandoned : o.abandoned = true) :
    s.operateEnded p true = (s.dropOp p).connectEnded p .withdrawn := by
  simp [State.operateEnded, op, abandoned]

theorem State.releaseEnded_settles {p : Pair} {o : ChainOp} (op : s.opOf p = some o) :
    s.releaseEnded p true = s.putOp { o with stage := .settling (s.time.now + ms 8) } := by
  simp [State.releaseEnded, op]

/-- Asking for a pair's release puts another operation of it aside. -/
theorem releaseAsked_dropOp (s : State) (p : Pair) (now : Nat) :
    releaseAsked (s.dropOp p).chain p now = releaseAsked s.chain p now := by
  simp [releaseAsked, State.dropOp]

/-- Settles O14, by the end of an OPERATE and of a RELEASE. -/
theorem acknowledgedRequestBeginsItsSettle : Obligations.AcknowledgedRequestBeginsItsSettle := by
  rintro s e o a ⟨on, noJob, noPoll, noDiscovery⟩ inTime op
  rw [exec_exchangeAnswered on inTime noDiscovery]
  refine ⟨fun request kept => ?_, fun id j request abandoned slot holds phase operated => ?_, fun request => ?_⟩
  · rw [request, State.operate_acted]
    change Host.Outcome.next (State.operateEnded _ o.pair true).pump = _
    rw [State.operateEnded_settles (by exact op) kept, State.pump_nothing (by exact .inr (.inr ⟨noJob, noPoll⟩))]
    rfl
  · obtain ⟨bus, line⟩ := State.slotOf_spec slot holds
    rw [request, State.operate_acted]
    change Host.Outcome.next (State.operateEnded _ o.pair true).pump = _
    rw [State.operateEnded_abandoned (by exact op) abandoned,
      State.connectEnded_releasing (by exact slot) (by exact holds) phase (by decide),
      State.releaseAtChain_starts (by exact holds) bus line operated (by simp [State.connecting?]),
      State.startRelease_asked (by exact noJob) (by exact noPoll) (by exact noDiscovery), releaseAsked_dropOp]
    rfl
  · rw [request]
    change Host.Outcome.next (State.releaseEnded _ o.pair true).pump = _
    rw [State.releaseEnded_settles (by exact op), State.pump_nothing (by exact .inr (.inr ⟨noJob, noPoll⟩))]
    rfl

/-! ## Settles that end (O15) -/

/-- The operation whose settle runs, the first of those a test picks. -/
theorem State.settlingOp_first {before after : List ChainOp} {o : ChainOp} {m : Nat} {q : ChainOp → Bool}
    (ops : s.chain.ops = before ++ o :: after) (settles : o.stage = .settling m) (picked : q o = true)
    (first : ∀ x ∈ before, q x = false) : s.settlingOp q = some (o, m) := by
  have none_before : before.findSome? (fun o =>
      match o.stage with
      | .settling t => if q o then some (o, t) else none
      | _ => none) = none := by
    refine List.findSome?_eq_none_iff.mpr fun x hx => ?_
    split
    · simp [first x hx]
    · rfl
  unfold State.settlingOp
  rw [ops, List.findSome?_append]
  refine (congrArg (Option.or · _) none_before).trans ?_
  simp [settles, picked]

/-- Settles O15, by the granting of the READ LINE. -/
theorem settleEndAsksForTheReadback : Obligations.SettleEndAsksForTheReadback := by
  intro s before after o m c ops settles which
  have settled : exec c s = .next (s.settleOver o m) := by
    obtain ⟨rfl, kind, first⟩ | ⟨rfl, bus, kind, first⟩ := which
    · have found := State.settlingOp_first ops settles (q := fun o => o.kind == .connect) (by simp [kind])
        (fun x hx => by simp [first x hx])
      simp only [exec, execConnectSettleEnd, found]
    · have found := State.settlingOp_first ops settles
        (q := fun x => x.kind != .connect && x.pair.bus == o.pair.bus) (by simp [kind])
        (fun x hx => by rcases first x hx with h | h <;> simp [h])
      simp [exec, execReleaseSettleEnd, formed, Instr.wellFormed, busFits, bus, found]
  rw [settled, State.settleOver]
  refine ⟨fun idle => ?_, fun busy => ?_⟩
  · rw [State.ask_pump_idle (by exact idle) rfl, State.startExchange]
    simp only [State.putOp, State.setChain_time, State.passTo_now]
    rfl
  · rw [State.ask_pump_busy (by exact busy)]
    rfl

end Sys2Proof.Machine

/-! SUPPORT. What the readback, or no answer, makes of a connect (O16). -/

namespace Sys2Proof.Machine

variable {s t : State}

/-- The active job holds the claim of a pair, and something of it has been operated. -/
structure State.Serves (s : State) (p : Pair) (j : Job) (c : OwnClaim) : Prop where
  job : s.seq.active = .job j
  bus : j.bus = some p.bus
  line : j.order.line = p.line
  operated : j.nothingOperated = false
  entry : s.entryAt p.bus = .own c

/-- No job owns the head while it is in OFF_BUS. -/
theorem State.ownsHead_offBus (head : s.head.state = .offBus) (id : SlotId) : s.ownsHead id = false := by
  unfold State.ownsHead
  split
  · simp [head]
  · rfl

/-- The release sequence, once its job and its bus are known (R123). -/
theorem State.beginRelease_eq {id : SlotId} {j : Job} {b : Nat} (h : s.slot id = .job j) (bus : j.bus = some b) :
    s.beginRelease id
      = (let s := if id = .active then s.closeEvaluation else s
         let s := (s.claimReleasing b).updateJob id (fun j =>
           { (j.endSuspension s.time.clock) with phase := .releasing, inserted := false })
         if s.ownsHead id then s.headRelease else s.releaseAtChain id) := by
  unfold State.beginRelease
  rw [h]
  dsimp only
  rw [bus]

namespace State.Serves

variable {p : Pair} {j : Job} {c : OwnClaim}

theorem of_eq (h : s.Serves p j c) (seq : t.seq = s.seq) (claims : t.claims = s.claims) : t.Serves p j c where
  job := by rw [seq]; exact h.job
  bus := h.bus
  line := h.line
  operated := h.operated
  entry := by
    unfold State.entryAt
    rw [claims]
    exact h.entry

theorem slotOf (h : s.Serves p j c) : s.slotOf p = some .active := State.slotOf_active h.job h.bus h.line

/-- With no operation in progress and the chain idle, the release is sent at once (R16, R123). -/
theorem releaseAtChain_pump (h : s.Serves p j c) (idle : s.ChainIdle) (ops : s.chain.ops = []) :
    (s.releaseAtChain .active).pump = s.setChain (releaseSent s.chain p s.time.now) := by
  have free : s.connecting? p = false := by simp [State.connecting?, State.opOf, ops]
  rw [State.releaseAtChain_starts (State.slot_active h.job) h.bus h.line h.operated free, State.startRelease_pump idle]
  simp [State.startExchange, State.putOp, releaseSent, ops]

/-- The release sequence of a job with its head in OFF_BUS begins at the chain (R54, R123). -/
theorem beginRelease_offBus (h : s.Serves p j c) (held : c.state = .held) (phase : j.phase ≠ .suspended)
    (head : s.head.state = .offBus) :
    s.beginRelease .active
      = ((s.setEntry p.bus (.own { c with state := .releasing, disturbances := [] })).setSlot .active
          (.job { j with phase := .releasing, inserted := false })).releaseAtChain .active := by
  have notOwned := State.ownsHead_offBus head .active
  have noClosing : s.closeEvaluation = s := by
    unfold State.closeEvaluation
    rw [h.job]
    exact if_neg fun ⟨_, _, owned, _⟩ => by rw [notOwned] at owned; exact absurd owned (by decide)
  have awake (clock : Nat) : j.endSuspension clock = j := if_neg phase
  rw [State.beginRelease_eq (State.slot_active h.job) h.bus]
  dsimp only
  rw [if_pos rfl, noClosing, State.claimReleasing, State.updateOwn_own h.entry, if_pos held,
    State.updateJob_job (j := j) (by exact h.job), awake, if_neg]
  rw [State.ownsHead_offBus (by exact head)]
  decide

/-- A connect that fails hands its status to its job, whose release goes out (R15, R54, R114, R123). -/
theorem connectFails_pump (h : s.Serves p j c) (idle : s.ChainIdle) (ops : s.chain.ops = []) (held : c.state = .held)
    (phase : j.phase = .connecting) (head : s.head.state = .offBus) (status : EndStatus) :
    (s.connectFails .active status).pump
      = (connectFailed s j c p.bus status).setChain (releaseSent s.chain p s.time.now) := by
  have told : (s.setSlot .active (.job { j with status := some status, failing := some 1 })).Serves p
      { j with status := some status, failing := some 1 } c := ⟨rfl, h.bus, h.line, h.operated, h.entry⟩
  unfold State.connectFails
  rw [State.updateJob_job (j := j) (by exact h.job), told.beginRelease_offBus held (by simp [phase]) head]
  by_cases strapped : p.bus < s.claims.entries.length
  · refine releaseAtChain_pump (p := p)
      (j := { j with status := some status, failing := some 1, phase := .releasing, inserted := false })
      (c := { c with state := .releasing, disturbances := [] }) ⟨rfl, h.bus, h.line, h.operated, ?_⟩ idle ops
    simp [State.entryAt, State.setSlot, State.setEntry, strapped]
  · have none := h.entry
    rw [State.entryAt, List.getD_eq_default _ _ (by omega)] at none
    cases none

end State.Serves

/-! ## The ends of a connect (R14, R114) -/

/-- A connect that ends LINE_BUSY or ACCESS_FAULT before its job's release sequence fails the job (R114). -/
theorem State.connectEnded_fails {p : Pair} {id : SlotId} {j : Job} (slot : s.slotOf p = some id)
    (h : s.slot id = .job j) (phase : j.phase ≠ .releasing) :
    s.connectEnded p .lineBusy = s.connectFails id .lineBusy
      ∧ s.connectEnded p .accessFault = s.connectFails id .accessFault := by
  unfold State.connectEnded
  rw [slot]
  dsimp only
  rw [h]
  simp [phase]

/-- A connect that succeeds for a job in its release sequence notes the moment of connection and goes on to the release (R123, R131). -/
theorem State.connectEnded_late {p : Pair} {id : SlotId} {j : Job} (slot : s.slotOf p = some id)
    (h : s.slot id = .job j) (phase : j.phase = .releasing) :
    s.connectEnded p .connected
      = (s.setSlot id (.job { j with connectedAt := some s.time.clock })).releaseAtChain id := by
  unfold State.connectEnded
  rw [slot]
  dsimp only
  rw [h]
  dsimp only
  rw [if_pos rfl, if_pos phase, State.updateJob_job h]

/-- The head in OFF_BUS takes the head connect of the active READY job (R66, R118). -/
theorem State.offerHead_takes {j : Job} {b : Nat} (h : s.seq.active = .job j) (ready : j.phase = .ready)
    (head : s.head.state = .offBus) (bus : j.bus = some b) : s.offerHead = s.setHead (headTaken j b s.time.now) := by
  unfold State.offerHead
  rw [h]
  dsimp only
  rw [if_pos ⟨ready, head⟩, bus]
  rfl

/-- No head connect is taken but for an active READY job with the head in OFF_BUS (R66, R118). -/
theorem State.offerHead_stands (h : ∀ j, s.seq.active = .job j → j.phase = .ready → s.head.state ≠ .offBus) :
    s.offerHead = s := by
  unfold State.offerHead
  split
  · rename_i j active
    exact if_neg fun ⟨ready, head⟩ => h j active ready head
  · rfl

/-- A connect that succeeds makes its job READY, and the free head takes its head connect (R66, R114, R118). -/
theorem State.Serves.connectEnded_ready {p : Pair} {j : Job} {c : OwnClaim} (h : s.Serves p j c)
    (phase : j.phase = .connecting) (head : s.head.state = .offBus) :
    s.connectEnded p .connected
      = (s.setSlot .active (.job { j with phase := .ready, connectedAt := some s.time.clock })).setHead
          (headTaken j p.bus s.time.now) := by
  have on := State.slot_active h.job
  unfold State.connectEnded
  rw [h.slotOf]
  dsimp only
  rw [on]
  dsimp only
  rw [if_pos rfl, if_neg (by simp [phase]), State.updateJob_job on, State.updateJob_job (by rfl),
    State.setSlot_setSlot]
  exact State.offerHead_takes (j := { j with phase := .ready, connectedAt := some s.time.clock }) rfl rfl head h.bus

/-! ## The readback of a connect (R13, R14) -/

theorem otherBus_iff (buses : BitVec 4) (bus : Nat) :
    otherBus buses bus = true ↔ ∃ b < 4, b ≠ bus ∧ buses.getLsbD b = true := by
  simp [otherBus]

/-- An empty bus set shows neither the claimed bus nor another. -/
theorem emptyBuses {buses : BitVec 4} (empty : ∀ b < 4, buses.getLsbD b = false) (bus : Nat) :
    otherBus buses bus = false ∧ buses.getLsbD bus = false := by
  refine ⟨?_, ?_⟩
  · rw [Bool.eq_false_iff, ne_eq, otherBus_iff]
    rintro ⟨b, small, -, shown⟩
    rw [empty b small] at shown
    exact absurd shown (by decide)
  · by_cases small : bus < 4
    · exact empty bus small
    · exact BitVec.getLsbD_of_ge _ _ (by omega)

/-- A bus set of the claimed bus alone. -/
theorem claimedBusAlone {buses : BitVec 4} {bus : Nat} (alone : ∀ b < 4, buses.getLsbD b = true ↔ b = bus)
    (small : bus < 4) : otherBus buses bus = false ∧ buses.getLsbD bus = true := by
  refine ⟨?_, (alone bus small).mpr rfl⟩
  rw [Bool.eq_false_iff, ne_eq, otherBus_iff]
  rintro ⟨b, inRange, other, shown⟩
  exact other ((alone b inRange).mp shown)

theorem State.connectRead_other {o : ChainOp} {buses : BitVec 4} (other : otherBus buses o.pair.bus = true) :
    s.connectRead o buses = (s.dropOp o.pair).connectEnded o.pair .lineBusy :=
  if_pos other

theorem State.connectRead_alone {o : ChainOp} {buses : BitVec 4}
    (alone : otherBus buses o.pair.bus = false ∧ buses.getLsbD o.pair.bus = true) :
    s.connectRead o buses
      = ((s.setUnit (unitOf o.pair.line) { s.unitAt (unitOf o.pair.line) with faults := 0 }).dropOp o.pair).connectEnded
          o.pair .connected := by
  unfold State.connectRead
  simp only [alone]
  rfl

theorem State.connectRead_empty {o : ChainOp} {buses : BitVec 4}
    (empty : otherBus buses o.pair.bus = false ∧ buses.getLsbD o.pair.bus = false) :
    s.connectRead o buses
      = if o.attempt = 1 then
          if o.abandoned then (s.dropOp o.pair).connectEnded o.pair .withdrawn else s.startConnect o.pair 2
        else ((s.countFault (unitOf o.pair.line)).dropOp o.pair).connectEnded o.pair .accessFault := by
  unfold State.connectRead
  simp only [empty]
  rfl

/-- The count of access faults and, at its third, the unit DOWN with its report (R13). -/
theorem State.countFault_eq {u n : Nat} (listed : u < s.chain.units.length) (count : n = min 3 ((s.unitAt u).faults + 1)) :
    s.countFault u
      = (if n = 3 ∧ (s.unitAt u).state ≠ .down then s.post (.unitChange u .down) else s).setUnit u
          { s.unitAt u with faults := n, state := if n = 3 then .down else (s.unitAt u).state } := by
  unfold State.countFault
  dsimp only
  rw [← count, State.setUnit_changeUnit _ listed]
  by_cases third : n = 3
  · by_cases down : (s.unitAt u).state = .down <;> simp [third, down]
  · simp [third]

/-- The readback of a connect reaches the connect of its operation (R14). -/
theorem State.readLineEnded_connect {o : ChainOp} (ops : s.chain.ops = [o]) (kind : o.kind = .connect)
    (buses : BitVec 4) : s.readLineEnded o.pair (some buses) = s.connectRead o buses := by
  unfold State.readLineEnded
  rw [State.opOf_only ops]
  dsimp only
  rw [kind]

/-- An OPERATE or a READ LINE of a connect that got no answer ends it ACCESS_FAULT (R14). -/
theorem State.handNoAnswer_connect {o : ChainOp} (ops : s.chain.ops = [o]) (kind : o.kind = .connect) {q : ChainRequest}
    (request : q = .operate o.pair ∨ q = .readLine o.pair) :
    s.handNoAnswer q = (s.dropOp o.pair).connectEnded o.pair .accessFault := by
  obtain rfl | rfl := request
  · simp [State.handNoAnswer, State.operateEnded, State.opOf_only ops]
  · simp [State.handNoAnswer, State.readLineEnded, State.opOf_only ops, kind]

/-- EXCHANGE_ANSWERED of a READ LINE in time (R4, R14, R16). -/
theorem exec_readLine_answered {e : Exchange} {p : Pair} (on : s.LoneExchange e) (request : e.request = .readLine p)
    (inTime : s.time.now ≤ e.lastAnswer) (a : ChainAnswer) :
    exec (.exchangeAnswered a) s = .next (s.freeChain.readLineEnded p (some a.buses)).pump := by
  rw [exec_exchangeAnswered on.1 inTime on.2.2.2, request]
  rfl

/-- The only operation ends: none is in progress. -/
theorem State.dropOp_only {o : ChainOp} (ops : s.chain.ops = [o]) : (s.dropOp o.pair).chain.ops = [] := by
  simp [State.dropOp, ops]

/-- An exchange that ends unanswered leaves the sequencer, the claims and the head as they were. -/
theorem unanswered_stands {x : State} {e : Exchange} {u : Nat} {err : ErrorDetail} {operated : List Pair} {free : Nat}
    (hx : x = unanswered s e u err operated free) :
    x.chain = { s.chain with
        exchange := none, driveSet := operated, units := s.chain.units.set u { s.unitAt u with state := .down } }
      ∧ x.seq = s.seq ∧ x.claims = s.claims ∧ x.head = s.head := by
  rw [hx, unanswered_eq]
  exact ⟨rfl, by simp, by simp, by simp⟩

/-- The three outcomes of an unanswered connect's exchange, with its job's release (R5, R6, R14, R123). -/
theorem connect_unanswered {e : Exchange} {o : ChainOp} {j : Job} {c : OwnClaim} {k : ExchangeKind} {cmd : Instr}
    {err : ErrorDetail} {u : Nat} (on : s.OnChain e o j c) (kind : o.kind = .connect)
    (request : e.request = .operate o.pair ∧ k = .operate ∨ e.request = .readLine o.pair ∧ k = .readLine)
    (unit : u = unitOf o.pair.line) (listed : u < s.chain.units.length) (ends : EndsUnanswered e k u cmd err) :
    ∃ operated free, MayHaveActed s e.request operated free
      ∧ ∀ x : State, x = unanswered s e u err operated free →
        (j.phase = .connecting → c.state = .held → s.head.state = .offBus →
          exec cmd s = .next
            { connectFailed x j c o.pair.bus .accessFault with chain := releaseSent x.chain o.pair x.time.now })
        ∧ (j.phase = .releasing →
          exec cmd s = .next { x with chain := releaseSent x.chain o.pair x.time.now }) := by
  obtain ⟨onChain, noJob, noPoll, noDiscovery⟩ := on.exchange
  obtain ⟨operated, free, may, answered⟩ := exec_unanswered_unit (c := cmd) (err := err) (u := u)
    (by rcases request with ⟨q, rfl⟩ | ⟨q, rfl⟩ <;> rw [q] <;> exact ends) onChain noDiscovery
    (by rcases request with ⟨q, -⟩ | ⟨q, -⟩ <;> rw [q, unit] <;> rfl) listed
  refine ⟨operated, free, may, fun x hx => ?_⟩
  obtain ⟨chain, seq, claims, head⟩ := unanswered_stands hx
  have ops : x.chain.ops = [o] := by rw [chain]; exact on.op
  have serves : (x.dropOp o.pair).Serves o.pair j c :=
    State.Serves.of_eq (s := s) ⟨on.job, on.bus, on.line, on.operated, on.entry⟩ seq claims
  have idle : x.ChainIdle := by
    unfold State.ChainIdle
    rw [chain]
    exact ⟨rfl, noJob, noPoll, noDiscovery⟩
  rw [answered, ← hx, State.handNoAnswer_connect ops kind (by tauto)]
  refine ⟨fun phase held offBus => ?_, fun phase => ?_⟩
  · rw [(State.connectEnded_fails serves.slotOf (State.slot_active serves.job) (by simp [phase])).2,
      serves.connectFails_pump (by exact idle) (State.dropOp_only ops) held phase (by simp only [State.dropOp, State.setChain_head, head, offBus])]
    rfl
  · rw [State.connectEnded_releasing serves.slotOf (State.slot_active serves.job) phase (by decide),
      serves.releaseAtChain_pump (by exact idle) (State.dropOp_only ops)]
    rfl

/-- A state that differs from another at most in its reports. -/
structure State.ReportsAlone (s t : State) : Prop where
  chain : t.chain = s.chain
  seq : t.seq = s.seq
  claims : t.claims = s.claims
  time : t.time = s.time
  head : t.head = s.head

/-- The report of a unit that its third fault makes DOWN (R13). -/
theorem State.afterCount_stands (s : State) (n u : Nat) :
    s.ReportsAlone (if n = 3 ∧ (s.unitAt u).state ≠ .down then s.post (.unitChange u .down) else s) := by
  split <;> constructor <;> simp

/-- The second fault of an empty bus set is counted (R13). -/
theorem State.connectRead_counted {o : ChainOp} {buses : BitVec 4} {n u : Nat} (hu : u = unitOf o.pair.line)
    (empty : otherBus buses o.pair.bus = false ∧ buses.getLsbD o.pair.bus = false) (attempt : o.attempt = 2)
    (listed : u < s.chain.units.length) (count : n = min 3 ((s.unitAt u).faults + 1)) :
    s.freeChain.connectRead o buses
      = ((((if n = 3 ∧ (s.unitAt u).state ≠ .down then s.post (.unitChange u .down) else s).freeChain).setUnit u
          { s.unitAt u with faults := n, state := if n = 3 then .down else (s.unitAt u).state }).dropOp
          o.pair).connectEnded o.pair .accessFault := by
  subst hu
  rw [State.connectRead_empty empty, if_neg (by omega), State.countFault_eq (s := s.freeChain) listed count]
  refine congrArg (fun t : State => (State.dropOp (State.setUnit t _ _) _).connectEnded _ _) ?_
  by_cases third : n = 3 ∧ (s.unitAt (unitOf o.pair.line)).state ≠ .down
  · rw [if_pos third, if_pos (by exact third), State.freeChain_post]
  · rw [if_neg third, if_neg (by exact third)]

/-- The readback of an abandoned connect, whose job is in its release sequence (R8, R15, R123). -/
theorem connect_readback_abandoned {e : Exchange} {o : ChainOp} {j : Job} {c : OwnClaim} (h : s.Reading e o j c)
    (kind : o.kind = .connect) (abandoned : o.abandoned = true) (phase : j.phase = .releasing)
    (listed : unitOf o.pair.line < s.chain.units.length) (a : ChainAnswer) {p : Pair} {u : Nat} {x : Chain}
    (hp : p = o.pair) (hu : u = unitOf p.line) (hx : x = releaseSent s.chain p s.time.now) :
    (((∃ b < 4, b ≠ p.bus ∧ a.buses.getLsbD b = true)
        ∨ (∀ b < 4, a.buses.getLsbD b = false) ∧ o.attempt = 1) →
      exec (.exchangeAnswered a) s = .next { s with chain := x })
    ∧ ((∀ b < 4, a.buses.getLsbD b = true ↔ b = p.bus) → p.bus < 4 →
      exec (.exchangeAnswered a) s = .next
        { withActive s { j with connectedAt := some s.time.clock } with
          chain := { x with units := s.chain.units.set u { s.unitAt u with faults := 0 } } })
    ∧ (∀ n, (∀ b < 4, a.buses.getLsbD b = false) → o.attempt = 2 → n = min 3 ((s.unitAt u).faults + 1) →
      exec (.exchangeAnswered a) s = .next
        { (if n = 3 ∧ (s.unitAt u).state ≠ .down then s.post (.unitChange u .down) else s) with
          chain :=
            { x with
              units :=
                s.chain.units.set u
                  { s.unitAt u with faults := n, state := if n = 3 then .down else (s.unitAt u).state } } }) := by
  subst hp hu hx
  obtain ⟨onChain, noJob, noPoll, noDiscovery⟩ := h.exchange
  have idle : s.freeChain.ChainIdle := ⟨rfl, noJob, noPoll, noDiscovery⟩
  have serves : s.Serves o.pair j c := ⟨h.job, h.bus, h.line, h.operated, h.entry⟩
  rw [exec_readLine_answered h.exchange h.request h.inTime, State.readLineEnded_connect (by exact h.op) kind]
  refine ⟨fun shown => ?_, fun alone small => ?_, fun n empty attempt count => ?_⟩
  · have ended : ∃ end_ : ConnectEnd, end_ ≠ .connected
        ∧ s.freeChain.connectRead o a.buses = (s.freeChain.dropOp o.pair).connectEnded o.pair end_ := by
      rcases shown with other | ⟨empty, attempt⟩
      · exact ⟨.lineBusy, by decide, State.connectRead_other ((otherBus_iff _ _).mpr other)⟩
      · refine ⟨.withdrawn, by decide, ?_⟩
        rw [State.connectRead_empty (emptyBuses empty _), if_pos attempt, if_pos abandoned]
    obtain ⟨end_, failed, ended⟩ := ended
    have kept : (s.freeChain.dropOp o.pair).Serves o.pair j c := serves.of_eq rfl rfl
    rw [ended, State.connectEnded_releasing kept.slotOf (State.slot_active kept.job) phase failed,
      kept.releaseAtChain_pump (by exact idle) (State.dropOp_only (by exact h.op))]
    rfl
  · have kept : ((s.freeChain.setUnit (unitOf o.pair.line)
        { s.unitAt (unitOf o.pair.line) with faults := 0 }).dropOp o.pair).Serves o.pair j c := serves.of_eq rfl rfl
    rw [State.connectRead_alone (claimedBusAlone alone small),
      State.connectEnded_late (by exact kept.slotOf) (by exact State.slot_active kept.job) phase,
      State.Serves.releaseAtChain_pump (p := o.pair) (j := { j with connectedAt := some s.time.clock }) (c := c)
        (by exact ⟨rfl, h.bus, h.line, h.operated, h.entry⟩) (by exact idle) (by exact State.dropOp_only (by exact h.op))]
    rfl
  · rw [State.connectRead_counted rfl (emptyBuses empty _) attempt listed count]
    have stands := s.afterCount_stands n (unitOf o.pair.line)
    generalize (if n = 3 ∧ (s.unitAt (unitOf o.pair.line)).state ≠ .down
      then s.post (.unitChange (unitOf o.pair.line) .down) else s) = t at stands ⊢
    have ops : t.chain.ops = [o] := by rw [stands.chain]; exact h.op
    have free : t.freeChain.ChainIdle := by unfold State.ChainIdle State.freeChain; rw [stands.chain]; exact idle
    have kept : t.Serves o.pair j c := serves.of_eq stands.seq stands.claims
    rw [State.connectEnded_releasing (by exact kept.slotOf) (by exact State.slot_active kept.job) phase (by decide),
      State.Serves.releaseAtChain_pump (by exact kept.of_eq rfl rfl) (by exact free) (by exact State.dropOp_only (by exact ops))]
    simp only [State.dropOp, State.setUnit, State.freeChain, stands.chain, State.setChain_chain, State.setChain_time]
    rw [← stands.time]
    rfl

/-- The readback of a connect of the active job, whose claim is HELD (R13 to R15, R66, R114). -/
theorem connect_readback {e : Exchange} {o : ChainOp} {j : Job} {c : OwnClaim} (h : s.Reading e o j c)
    (kind : o.kind = .connect) (kept : o.abandoned = false) (phase : j.phase = .connecting) (held : c.state = .held)
    (head : s.head.state = .offBus) (listed : unitOf o.pair.line < s.chain.units.length)
    (a : ChainAnswer) {p : Pair} {u : Nat} (hp : p = o.pair) (hu : u = unitOf p.line) :
    ((∃ b < 4, b ≠ p.bus ∧ a.buses.getLsbD b = true) →
      exec (.exchangeAnswered a) s = .next
        { connectFailed s j c p.bus .lineBusy with chain := releaseSent s.chain p s.time.now })
    ∧ ((∀ b < 4, a.buses.getLsbD b = true ↔ b = p.bus) → p.bus < 4 →
      exec (.exchangeAnswered a) s = .next
        { s with
          chain :=
            { s.chain with
              exchange := none
              ops := []
              units := s.chain.units.set u { s.unitAt u with faults := 0 } }
          seq :=
            { s.seq with active := .job { j with phase := .ready, connectedAt := some s.time.clock } }
          head := headTaken j p.bus s.time.now })
    ∧ ((∀ b < 4, a.buses.getLsbD b = false) → o.attempt = 1 →
      exec (.exchangeAnswered a) s = .next
        { s with
          chain :=
            { s.chain with
              exchange := some { request := .operate p, begun := false, limit := s.time.now + ms 5 }
              ops := [{ pair := p, kind := .connect, attempt := 2, stage := .acting, abandoned := false }] } })
    ∧ (∀ n, (∀ b < 4, a.buses.getLsbD b = false) → o.attempt = 2 → n = min 3 ((s.unitAt u).faults + 1) →
      exec (.exchangeAnswered a) s = .next
        { connectFailed
            (if n = 3 ∧ (s.unitAt u).state ≠ .down then s.post (.unitChange u .down) else s) j c p.bus
            .accessFault with
          chain :=
            { releaseSent s.chain p s.time.now with
              units :=
                s.chain.units.set u
                  { s.unitAt u with faults := n, state := if n = 3 then .down else (s.unitAt u).state } } }) := by
  subst hp hu
  obtain ⟨onChain, noJob, noPoll, noDiscovery⟩ := h.exchange
  have idle : s.freeChain.ChainIdle := ⟨rfl, noJob, noPoll, noDiscovery⟩
  have serves : s.Serves o.pair j c := ⟨h.job, h.bus, h.line, h.operated, h.entry⟩
  have running : j.phase ≠ .releasing := by simp [phase]
  rw [exec_readLine_answered h.exchange h.request h.inTime, State.readLineEnded_connect (by exact h.op) kind]
  refine ⟨fun other => ?_, fun alone small => ?_, fun empty attempt => ?_, fun n empty attempt count => ?_⟩
  · have stays : (s.freeChain.dropOp o.pair).Serves o.pair j c := serves.of_eq rfl rfl
    rw [State.connectRead_other ((otherBus_iff _ _).mpr other),
      (State.connectEnded_fails stays.slotOf (State.slot_active stays.job) running).1,
      stays.connectFails_pump (by exact idle) (State.dropOp_only (by exact h.op)) held phase (by exact head)]
    rfl
  · rw [State.connectRead_alone (claimedBusAlone alone small),
      State.Serves.connectEnded_ready (by exact serves.of_eq rfl rfl) phase (by exact head),
      State.pump_nothing (by exact .inr (.inr ⟨noJob, noPoll⟩))]
    have none_left : (s.freeChain.setUnit (unitOf o.pair.line)
        { s.unitAt (unitOf o.pair.line) with faults := 0 } |>.dropOp o.pair).chain.ops = [] :=
      State.dropOp_only (by exact h.op)
    simp only [State.dropOp, State.setUnit, State.freeChain, State.setChain_chain, h.op] at none_left ⊢
    rw [none_left]
    rfl
  · have pairHeld : s.freeChain.pairHeld o.pair = true := by
      rw [State.pairHeld, State.ownAt_own (by exact h.entry)]
      simp [h.claim, held, h.kept]
    rw [State.connectRead_empty (emptyBuses empty _), if_pos attempt, if_neg (by simp [kept]),
      State.startConnect_pump idle pairHeld]
    simp [State.putOp, State.startExchange, State.freeChain, h.op]
    rfl
  · rw [State.connectRead_counted rfl (emptyBuses empty _) attempt listed count]
    have stands := s.afterCount_stands n (unitOf o.pair.line)
    generalize (if n = 3 ∧ (s.unitAt (unitOf o.pair.line)).state ≠ .down
      then s.post (.unitChange (unitOf o.pair.line) .down) else s) = t at stands ⊢
    have ops : t.chain.ops = [o] := by rw [stands.chain]; exact h.op
    have free : t.freeChain.ChainIdle := by unfold State.ChainIdle State.freeChain; rw [stands.chain]; exact idle
    have stays : t.Serves o.pair j c := serves.of_eq stands.seq stands.claims
    rw [(State.connectEnded_fails (by exact stays.slotOf) (by exact State.slot_active stays.job) running).2,
      State.Serves.connectFails_pump (by exact stays.of_eq rfl rfl) (by exact free)
        (by exact State.dropOp_only (by exact ops)) held phase (by exact stands.head.symm ▸ head)]
    simp only [State.dropOp, State.setUnit, State.freeChain, stands.chain, State.setChain_chain, State.setChain_time]
    rw [← stands.time]
    rfl

/-- Settles O16, by the readback and the missing answer of a connect, abandoned or not. -/
theorem readbackDecidesTheConnect : Obligations.ReadbackDecidesTheConnect :=
  ⟨fun _ _ _ _ _ _ _ _ _ on kind request unit listed ends => connect_unanswered on kind request unit listed ends,
    fun _ _ _ _ _ a h kind abandoned phase listed _ _ _ hp hu hx =>
      connect_readback_abandoned h kind abandoned phase listed a hp hu hx,
    fun _ _ _ _ _ a h kind kept phase held head listed _ _ _ hp hu =>
      connect_readback h kind kept phase held head listed a hp hu⟩

end Sys2Proof.Machine

/-! SUPPORT. What a release leaves: an offered notice's dependence on the state, the end of a desk job in its slot, a claim let go; with the
statements about releases and retries (O17, O18). -/

namespace Sys2Proof.Machine

variable {s t : State}

/-! ## What an offered notice depends on (R27, R30) -/

/-- Two states whose transmitters stand alike: the same desk line, moment and station state. -/
structure State.LineAlike (s t : State) : Prop where
  line : t.line = s.line
  time : t.time = s.time
  station : t.claims.station = s.claims.station

namespace State.LineAlike

theorem tryNow (h : s.LineAlike t) : t.tryNow.line = s.tryNow.line := by
  have quiet : t.lineQuiet = s.lineQuiet := by simp only [State.lineQuiet, h.line, h.time]
  have silent : t.transmitterSilent = s.transmitterSilent := by simp only [State.transmitterSilent, h.station]
  cases flight : s.line.flight with
  | none => simp only [State.tryNow, h.line, flight]
  | some f =>
    simp only [State.tryNow, State.beginTry, h.line, flight, quiet, silent, h.time]
    split <;> simp [h.line]

theorem loadFlight (h : s.LineAlike t) : t.loadFlight.line = s.loadFlight.line := by
  unfold State.loadFlight
  rw [h.line]
  split
  · exact tryNow ⟨by rfl, h.time, h.station⟩
  · exact h.line

theorem holdBack (h : s.LineAlike t) (tx : Tx) : (t.holdBack tx).line = (s.holdBack tx).line := by
  unfold State.holdBack
  rw [h.line]
  (repeat' split) <;> simp [h.line]

theorem offer (h : s.LineAlike t) (tx : Tx) : (t.offer tx).line = (s.offer tx).line := by
  unfold State.offer State.enqueue
  rw [h.line]
  by_cases folds : foldsInto tx s.line.queue = true
  · simp only [folds, if_true]
    exact h.loadFlight
  · by_cases room : s.line.queue.length < Config.transmitCap
    · simp only [folds, room, if_true]
      exact loadFlight ⟨rfl, h.time, h.station⟩
    · simp only [folds, room]
      exact h.holdBack tx

theorem offer_eq (h : s.LineAlike t) (tx : Tx) : t.offer tx = t.setLine (s.offer tx).line := by
  rw [t.offer_line, h.offer]

end State.LineAlike

/-! ## Jobs that end in their slots (R112, R123, R133) -/

/-- The slots stand where no staged job follows and no READY job meets a free head (R112, R118). -/
theorem State.settleSlots_stand (staged : ∀ j, s.seq.staged ≠ .job j)
    (head : ∀ j, s.seq.active = .job j → j.phase = .ready → s.head.state ≠ .offBus) : s.settleSlots = s := by
  have moved : s.slotMove = s := by
    unfold State.slotMove
    split
    · rename_i stands
      exact absurd stands (staged _)
    · rename_i stands
      exact absurd stands (staged _)
    · rfl
  rw [State.settleSlots, moved, State.offerHead_stands head]

/-- The record of a job is the one that the statements of Chapter 6 write out (R132). -/
theorem State.completionOf_eq (s : State) (j : Job) (status : EndStatus) :
    s.completionOf j status = heldRecord s j status j.failing := by
  unfold State.completionOf heldRecord
  cases j.connectedAt <;> rfl

/-- The end of a desk job in its slot: its record enters the completion queue or waits in the slot (R123, R132, R133). -/
theorem State.endJob_desk {id : SlotId} {j : Job} (h : s.slot id = .job j) (desk : j.sweep = none)
    (station : s.claims.station ≠ .resetting) (stands : SlotsStand s id) :
    s.endJob id = s.setSeq (orderEndedIn id s j (j.status.getD .done) j.failing) := by
  have settled (t : State) (x : Slot) (noJob : ∀ i, x ≠ .job i) (staged : t.seq.staged = s.seq.staged)
      (active : t.seq.active = s.seq.active) (head : t.head = s.head) :
      (t.setSlot id x).settleSlots = t.setSlot id x := by
    cases id with
    | active =>
      refine State.settleSlots_stand (fun i => ?_) fun i on => absurd on (noJob i)
      change t.seq.staged ≠ .job i
      rw [staged, stands.1 rfl]
      simp
    | staged =>
      refine State.settleSlots_stand noJob fun i on ready => ?_
      change t.head.state ≠ .offBus
      rw [head]
      exact stands.2 rfl i (active ▸ on) ready
  unfold State.endJob
  rw [h]
  dsimp only
  rw [if_neg station, desk, State.completionOf_eq, orderEndedIn]
  simp only [Option.isSome_none, Bool.false_eq_true, if_false, Config.completionCap]
  split
  · rw [settled _ _ (by simp) (by rfl) (by rfl) (by rfl), State.setSlot_eq]
    rfl
  · rw [settled _ _ (by simp) (by rfl) (by rfl) (by rfl), State.setSlot_eq]
    rfl

/-! ## Claims let go (R54) -/

/-- A claim with nothing awaited lets its pair go: its entry is free and a RELEASE is offered (R54). -/
theorem State.letGo_eq {p : Pair} {c : OwnClaim} (entry : s.entryAt p.bus = .own c) (awaited : c.awaited = [])
    (opening : s.claims.opening = none) : s.letGo p = (s.setEntry p.bus .free).offerRelease p := by
  have test (t : State) (h : t.claims.opening = none) : t.claimTest = t := by
    unfold State.claimTest
    rw [h]
  have left : s.leaveEntry p.bus = s.setEntry p.bus .free := by
    unfold State.leaveEntry
    rw [State.ownAt_own entry]
    dsimp only
    rw [awaited]
    rfl
  rw [State.letGo, left, test]
  rw [State.offerRelease, State.offer_line]
  exact opening

/-! ## The record of an order's end (R132, R133) -/

/-- What a job's end makes of the slots depends on the sequencer, the tickets and the clock alone. -/
theorem orderEndedIn_congr (id : SlotId) (seq : t.seq = s.seq) (tickets : t.tickets = s.tickets) (time : t.time = s.time)
    (j : Job) (status : EndStatus) (failing : Option Nat) :
    orderEndedIn id t j status failing = orderEndedIn id s j status failing := by
  unfold orderEndedIn heldRecord
  rw [seq, tickets, time]

/-- The job of a slot may have its status and its failing step noted first. -/
theorem orderEndedIn_setSlot (s : State) (id : SlotId) (x : Slot) (j : Job) (status : EndStatus) (failing : Option Nat) :
    orderEndedIn id (s.setSlot id x) j status failing = orderEndedIn id s j status failing := by
  cases id <;> rfl

/-! ## The end of a release (R16) -/

/-- A release at the chain that fails twice: RELEASE_FAULT, the claim STUCK, the order ended (R16, R55). -/
theorem State.stuckAtChain_eq {p : Pair} {j : Job} {c : OwnClaim} (h : s.Serves p j c) (desk : j.sweep = none)
    (station : s.claims.station ≠ .resetting) (staged : s.seq.staged = .empty) :
    s.stuckAtChain p
      = ((s.capture (.releaseFault (unitOf p.line) (positionOf p.line))).setClaims
          { s.claims with
            entries := s.claims.entries.set p.bus (.own { c with state := .stuck, retryAt := s.time.now + ms 5000 }) }).setSeq
          (orderEnded s j .releaseFault (some j.step)) := by
  generalize captured : s.capture (.releaseFault (unitOf p.line) (positionOf p.line)) = t
  have claims : t.claims = s.claims := by simp [← captured]
  have seq : t.seq = s.seq := by simp [← captured]
  have time : t.time = s.time := by simp [← captured]
  have tickets : t.tickets = s.tickets := by simp [← captured]
  have serves : t.Serves p j c := h.of_eq seq claims
  unfold State.stuckAtChain
  dsimp only
  rw [captured, State.updateOwn_own serves.entry]
  have found : (t.setEntry p.bus (.own { c with state := .stuck, retryAt := t.time.now + ms 5000 })).slotOf p
      = some .active := serves.slotOf
  rw [found]
  dsimp only
  rw [State.updateJob_job (by exact State.slot_active serves.job),
    State.endJob_desk (j := { j with status := some .releaseFault, failing := some j.step }) (by rfl) desk
      (fun h => station (by rw [← claims]; exact h)) ⟨fun _ => by rw [← staged, ← seq]; rfl, fun h => by cases h⟩,
    orderEndedIn_setSlot, orderEndedIn_congr (s := s) .active (by exact seq) (by exact tickets) (by exact time), time,
    ← claims]
  rfl

/-- A release attempt whose exchange got no answer fails (R16). -/
theorem State.handNoAnswer_release {o : ChainOp} (ops : s.chain.ops = [o]) (kind : o.kind ≠ .connect) {q : ChainRequest}
    (request : q = .release o.pair ∨ q = .readLine o.pair) : s.handNoAnswer q = s.releaseFails o := by
  obtain rfl | rfl := request
  · simp [State.handNoAnswer, State.releaseEnded, State.opOf_only ops]
  · simp only [State.handNoAnswer, State.readLineEnded, State.opOf_only ops]

/-- The readback of a release or of a retry (R16, R17). -/
theorem State.readLineEnded_release {o : ChainOp} (ops : s.chain.ops = [o]) (kind : o.kind ≠ .connect) (b : BitVec 4) :
    s.readLineEnded o.pair (some b)
      = if b.getLsbD o.pair.bus then s.releaseFails o else (s.dropOp o.pair).releasedAtChain o.pair := by
  simp only [State.readLineEnded, State.opOf_only ops]

/-- A release that fails once is attempted again; one that fails twice leaves its claim STUCK (R16). -/
theorem State.releaseFails_release {o : ChainOp} (kind : o.kind = .release) :
    s.releaseFails o
      = if o.attempt = 1 then s.startRelease o.pair .release 2 else (s.dropOp o.pair).stuckAtChain o.pair := by
  unfold State.releaseFails
  rw [kind]

/-- Without an answer a release attempt fails (R5, R6, R16). -/
theorem release_unanswered {e : Exchange} {o : ChainOp} {j : Job} {c : OwnClaim} {k : ExchangeKind} {cmd : Instr}
    {err : ErrorDetail} {u : Nat} (on : s.OnChain e o j c) (kind : o.kind = .release)
    (station : s.claims.station ≠ .resetting) (desk : j.sweep = none) (staged : s.seq.staged = .empty)
    (request : e.request = .release o.pair ∧ k = .release ∨ e.request = .readLine o.pair ∧ k = .readLine)
    (unit : u = unitOf o.pair.line) (listed : u < s.chain.units.length) (ends : EndsUnanswered e k u cmd err) :
    ∃ operated free, MayHaveActed s e.request operated free
      ∧ ∀ x : State, x = unanswered s e u err operated free →
        (o.attempt = 1 →
          exec cmd s = .next
            { x with
              chain :=
                { x.chain with
                  exchange := some { request := .release o.pair, begun := false, limit := x.time.now + ms 5 }
                  ops :=
                    [{ pair := o.pair, kind := .release, attempt := 2, stage := .acting, abandoned := false }] } })
        ∧ (o.attempt = 2 →
          exec cmd s = .next
            { x.capture (.releaseFault u (positionOf o.pair.line)) with
              chain := { x.chain with ops := [] }
              claims :=
                { s.claims with
                  entries :=
                    s.claims.entries.set o.pair.bus
                      (.own { c with state := .stuck, retryAt := x.time.now + ms 5000 }) }
              seq := orderEnded x j .releaseFault (some j.step) }) := by
  obtain ⟨onChain, noJob, noPoll, noDiscovery⟩ := on.exchange
  obtain ⟨operated, free, may, answered⟩ := exec_unanswered_unit (c := cmd) (err := err) (u := u)
    (by rcases request with ⟨q, rfl⟩ | ⟨q, rfl⟩ <;> rw [q] <;> exact ends) onChain noDiscovery
    (by rcases request with ⟨q, -⟩ | ⟨q, -⟩ <;> rw [q, unit] <;> rfl) listed
  refine ⟨operated, free, may, fun x hx => ?_⟩
  obtain ⟨chain, seq, claims, -⟩ := unanswered_stands hx
  have ops : x.chain.ops = [o] := by rw [chain]; exact on.op
  have serves : (x.dropOp o.pair).Serves o.pair j c :=
    State.Serves.of_eq (s := s) ⟨on.job, on.bus, on.line, on.operated, on.entry⟩ seq claims
  have idle : x.ChainIdle := by
    unfold State.ChainIdle
    rw [chain]
    exact ⟨rfl, noJob, noPoll, noDiscovery⟩
  rw [answered, ← hx, State.handNoAnswer_release ops (by simp [kind]) (by tauto), State.releaseFails_release kind]
  refine ⟨fun first => ?_, fun second => ?_⟩
  · rw [if_pos first, State.startRelease_pump idle]
    simp [State.putOp, State.startExchange, ops]
    rfl
  · have left : x.dropOp o.pair = x.setChain { x.chain with ops := [] } :=
      congrArg (fun l => x.setChain { x.chain with ops := l }) (State.dropOp_only (s := x) ops)
    rw [if_neg (by omega), State.stuckAtChain_eq serves desk (by exact claims.symm ▸ station)
      (by exact seq.symm ▸ staged), State.pump_nothing (.inr (.inr ⟨by simpa [State.dropOp] using idle.2.1, by simpa [State.dropOp] using idle.2.2.1⟩)), left, ← unit,
      State.setChain_capture, ← claims]
    rfl

/-- The readback of a release decides what becomes of its pair and its order (R16, R54, R55, R123). -/
theorem release_readback {e : Exchange} {o : ChainOp} {j : Job} {c : OwnClaim} (h : s.Reading e o j c)
    (kind : o.kind = .release) (station : s.claims.station = .active) (opening : s.claims.opening = none)
    (desk : j.sweep = none) (staged : s.seq.staged = .empty) (room : s.seq.completions.length < 16)
    (awaited : c.awaited = []) (a : ChainAnswer) {p : Pair} (hp : p = o.pair) :
    (a.buses.getLsbD p.bus = true → o.attempt = 1 →
      exec (.exchangeAnswered a) s = .next
        { s with
          chain :=
            { s.chain with
              exchange := some { request := .release p, begun := false, limit := s.time.now + ms 5 }
              ops := [{ pair := p, kind := .release, attempt := 2, stage := .acting, abandoned := false }] } })
    ∧ (a.buses.getLsbD p.bus = true → o.attempt = 2 →
      exec (.exchangeAnswered a) s = .next
        { s.capture (.releaseFault (unitOf p.line) (positionOf p.line)) with
          chain := { s.chain with exchange := none, ops := [] }
          claims :=
            { s.claims with
              entries :=
                s.claims.entries.set p.bus (.own { c with state := .stuck, retryAt := s.time.now + ms 5000 }) }
          seq :=
            { s.seq with
              active := .empty
              ends := s.seq.ends + 1
              completions :=
                s.seq.completions
                  ++ [heldRecord s j .releaseFault (some j.step)] } })
    ∧ (a.buses.getLsbD p.bus = false →
      exec (.exchangeAnswered a) s = .next
        { ({ s with
              chain := { s.chain with exchange := none, ops := [] }
              claims := { s.claims with entries := s.claims.entries.set p.bus .free } }).offerRelease p with
          seq :=
            { s.seq with
              active := .empty
              ends := s.seq.ends + 1
              completions := s.seq.completions ++ [heldRecord s j (j.status.getD .done) j.failing] } }) := by
  subst hp
  obtain ⟨onChain, noJob, noPoll, noDiscovery⟩ := h.exchange
  have idle : s.freeChain.ChainIdle := ⟨rfl, noJob, noPoll, noDiscovery⟩
  have serves : s.Serves o.pair j c := ⟨h.job, h.bus, h.line, h.operated, h.entry⟩
  have stays : (s.freeChain.dropOp o.pair).Serves o.pair j c := serves.of_eq rfl rfl
  have left : s.freeChain.dropOp o.pair = s.setChain { s.chain with exchange := none, ops := [] } :=
    congrArg (fun l => s.setChain { s.chain with exchange := none, ops := l }) (State.dropOp_only (s := s) h.op)
  rw [exec_readLine_answered h.exchange h.request h.inTime, State.readLineEnded_release (by exact h.op) (by simp [kind])]
  refine ⟨fun shown first => ?_, fun shown second => ?_, fun gone => ?_⟩
  · rw [if_pos shown, State.releaseFails_release kind, if_pos first, State.startRelease_pump idle]
    simp [State.putOp, State.startExchange, State.freeChain, h.op]
    rfl
  · rw [if_pos shown, State.releaseFails_release kind, if_neg (by omega),
      State.stuckAtChain_eq stays desk (by simp [State.freeChain, State.dropOp, station]) (by exact staged),
      State.pump_nothing (.inr (.inr ⟨by simpa [State.dropOp, State.freeChain] using noJob,
        by simpa [State.dropOp, State.freeChain] using noPoll⟩)), left, State.setChain_capture, orderEnded, orderEndedIn,
      if_pos (by exact room)]
    rfl
  · rw [left] at stays
    rw [if_neg (by simp [gone]), left, State.releasedAtChain, stays.slotOf]
    dsimp only
    rw [State.letGo_eq stays.entry awaited (by exact opening)]
    change _ = Host.Outcome.next (State.setSeq (State.offerRelease
      ((s.setChain { s.chain with exchange := none, ops := [] }).setEntry o.pair.bus .free) o.pair) _)
    rw [State.offerRelease, State.offer_line]
    generalize State.line _ = l
    rw [State.endJob_desk (j := j) (by exact h.job) desk
        (by exact fun h => by cases station.symm.trans h) ⟨fun _ => by exact staged, fun h => by cases h⟩,
      State.pump_nothing (by exact .inr (.inr ⟨noJob, noPoll⟩)), orderEndedIn, if_pos (by exact room)]
    rfl

/-- Settles O17, by the readback and the missing answer of a release. -/
theorem readbackDecidesTheRelease : Obligations.ReadbackDecidesTheRelease :=
  ⟨fun _ _ _ _ _ _ _ _ _ on kind station desk staged request unit listed ends =>
      release_unanswered on kind station desk staged request unit listed ends,
    fun _ _ _ _ _ a h kind station opening desk staged room awaited _ _ hp =>
      release_readback h kind station opening desk staged room awaited a hp⟩

/-! ## Retries (R17) -/

/-- A retry that fails is made again 5 s on (R17). -/
theorem State.releaseFails_retry {o : ChainOp} (kind : o.kind = .retry) {c : OwnClaim}
    (entry : s.entryAt o.pair.bus = .own c) :
    s.releaseFails o
      = (s.dropOp o.pair).setEntry o.pair.bus (.own { c with retryAt := s.time.now + ms 5000 }) := by
  unfold State.releaseFails
  rw [kind]
  exact State.updateOwn_own (s := s.dropOp o.pair) entry _

/-- A retry that succeeds lets its pair go, and no job ends by it (R54, R55). -/
theorem State.releasedAtChain_noSlot {p : Pair} (h : s.slotOf p = none) : s.releasedAtChain p = s.letGo p := by
  unfold State.releasedAtChain
  rw [h]

/-- RELEASE_RETRY of a STUCK claim with no operation in progress sends its RELEASE on an idle chain (R17). -/
theorem exec_releaseRetry {b : Nat} {c : OwnClaim} (bus : b < 4) (entry : s.entryAt b = .own c) (stuck : c.state = .stuck)
    (idle : s.ChainIdle) (ops : s.chain.ops = []) :
    exec (.releaseRetry b) s = .next
      { s.passTo c.retryAt with
        chain :=
          { s.chain with
            exchange :=
              some
                { request := .release { bus := b, line := c.line }
                  begun := false
                  limit := max s.time.now c.retryAt + ms 5 }
            ops :=
              [{ pair := { bus := b, line := c.line }
                 kind := .retry
                 attempt := 1
                 stage := .acting
                 abandoned := false }] } } := by
  have none_ : s.opOf { bus := b, line := c.line } = none := by simp [State.opOf, ops]
  have formed : (Instr.releaseRetry b).wellFormed = true := by simp [Instr.wellFormed, busFits, bus]
  simp only [exec, execReleaseRetry, Sys2Proof.Machine.formed, formed, State.ownAt_own entry, stuck, none_,
    Option.isNone_none, and_self, if_true]
  rw [State.startRelease_pump (by exact idle), State.startExchange]
  simp only [State.putOp, State.setChain_time, State.passTo_now, State.passTo_chain, ops]
  rfl

/-- Settles O18, by the sending of a retry and its two ends. -/
theorem stuckClaimIsRetriedEveryFiveSeconds : Obligations.StuckClaimIsRetriedEveryFiveSeconds := by
  intro s b c bus strapped entry stuck awaited opening p hp
  refine ⟨fun idle ops => hp ▸ exec_releaseRetry bus entry stuck idle ops, ?_, ?_⟩
  · rintro e o k cmd err u ⟨onChain, noJob, noPoll, noDiscovery⟩ op pair kind request unit listed ends
    have line : p.line = c.line := by rw [hp]
    have atBus : o.pair.bus = b := by rw [pair, hp]
    obtain ⟨operated, free, may, answered⟩ := exec_unanswered_unit (c := cmd) (err := err) (u := u)
      (by rcases request with ⟨q, rfl⟩ | ⟨q, rfl⟩ <;> rw [q] <;> exact ends) onChain noDiscovery
      (by rcases request with ⟨q, -⟩ | ⟨q, -⟩ <;> rw [q, unit, ← line] <;> rfl) listed
    refine ⟨operated, free, may, fun x hx => ?_⟩
    obtain ⟨chain, -, claims, -⟩ := unanswered_stands hx
    have ops : x.chain.ops = [o] := by rw [chain]; exact op
    have left : x.dropOp o.pair = x.setChain { x.chain with ops := [] } :=
      congrArg (fun l => x.setChain { x.chain with ops := l }) (State.dropOp_only (s := x) ops)
    have entryX : x.entryAt o.pair.bus = .own c := by rw [State.entryAt, claims, atBus]; exact entry
    rw [answered, ← hx, State.handNoAnswer_release ops (by simp [kind]) (by rw [pair]; tauto),
      State.releaseFails_retry kind entryX, State.pump_nothing (.inr (.inr ?_)), left, atBus, ← claims]
    · rfl
    · exact ⟨(congrArg Chain.jobGroup chain).trans noJob, (congrArg Chain.pollGroup chain).trans noPoll⟩
  · rintro e o a ⟨onChain, noJob, noPoll, noDiscovery⟩ request inTime op pair kind noSlot
    subst pair
    have atBus : o.pair.bus = b := by rw [hp]
    have entryAt : s.entryAt o.pair.bus = .own c := by rw [atBus]; exact entry
    have left : s.freeChain.dropOp o.pair = s.setChain { s.chain with exchange := none, ops := [] } :=
      congrArg (fun l => s.setChain { s.chain with exchange := none, ops := l }) (State.dropOp_only (s := s) op)
    rw [exec_readLine_answered ⟨onChain, noJob, noPoll, noDiscovery⟩ request inTime,
      State.readLineEnded_release (by exact op) (by simp [kind]), atBus]
    refine ⟨fun shown => ?_, fun gone => ?_⟩
    · rw [if_pos shown, State.releaseFails_retry kind (by exact entryAt),
        State.pump_nothing (by exact .inr (.inr ⟨noJob, noPoll⟩)), left, atBus]
      rfl
    · rw [if_neg (by simp [gone]), left, State.releasedAtChain_noSlot (by exact noSlot),
        State.letGo_eq (by exact entryAt) awaited (by exact opening), State.offerRelease, State.offer_line, atBus,
        State.pump_nothing (by exact .inr (.inr ⟨noJob, noPoll⟩)), ← State.offer_line]
      rfl

end Sys2Proof.Machine

/-! SUPPORT. The exchanges of power-on and unit discovery (O19). -/

namespace Sys2Proof.Machine

variable {s t : State}

/-- An exchange of power-on that is answered in time (R4, R9, R202). -/
theorem exec_discovery_answered {e : Exchange} {d : Discovery} (on : s.chain.exchange = some e)
    (discovery : s.chain.discovery = some d) (inTime : s.time.now ≤ e.lastAnswer) (a : ChainAnswer) :
    exec (.exchangeAnswered a) s = .next ((s.unitActs e.request).freeChain.discoveryAnswered d a) := by
  have still : (s.unitActs e.request).freeChain.chain.discovery = some d := by
    unfold State.unitActs
    (repeat' split) <;> exact discovery
  simp only [exec, execExchangeAnswered, on]
  rw [if_pos inTime, State.answered, still]

/-- A unit that discovery reaches is polled (R9). -/
theorem State.discover_polls {u : Nat} (h : u < 64) :
    s.discover u = (s.setChain { s.chain with discovery := some (.polling u) }).startExchange (.poll u) :=
  if_pos h

/-- Discovery ends after unit 63 (R9). -/
theorem State.discover_ends : s.discover 64 = s.endDiscovery := if_neg (by decide)

/-- CHAIN CLEAR without its answer: the units may have cleared any part of the drive set (R3, R5, R6, R18). -/
theorem State.noAnswer_clearing {e : Exchange} {again : Bool} (clears : e.request = .chainClear)
    (discovery : s.chain.discovery = some (.clearing again)) (stuck : Bool) :
    ∃ kept free, kept.Sublist s.chain.driveSet
      ∧ s.noAnswer e stuck
        = ((((s.capture (if stuck then .chainStuck .chainClear none else .chainNoAnswer .chainClear none)).setChain
            { s.chain with exchange := none, driveSet := kept }).setFree free).discoveryFailed (.clearing again)) := by
  refine ⟨s.chain.driveSet.filter (fun p => Config.freeChoice (s.free + unitOf p.line)), s.free + Config.unitCount,
    List.filter_sublist, ?_⟩
  unfold State.noAnswer State.unitMayAct
  rw [clears]
  dsimp only
  rw [State.setFree_chain, State.setChain_chain]
  dsimp only
  rw [discovery]
  dsimp only
  rw [State.freeChain, State.setChain_capture, State.setFree_capture, State.setChain_capture]
  rfl

/-- A poll of discovery without its answer: its unit stays as it was, with an answer that sticks captured (R9). -/
theorem State.noAnswer_polling {e : Exchange} {u : Nat} (polls : e.request = .poll u)
    (discovery : s.chain.discovery = some (.polling u)) :
    s.noAnswer e false = (s.freeChain.stampPoll u).discover (u + 1)
      ∧ s.noAnswer e true = ((s.capture (.chainStuck .poll (some u))).freeChain.stampPoll u).discover (u + 1) := by
  unfold State.noAnswer State.unitMayAct
  rw [polls]
  dsimp only
  rw [discovery]
  refine ⟨rfl, ?_⟩
  dsimp only
  rw [State.freeChain_capture]
  rfl

/-- A station with no order, no claim and nothing in flight enters ISOLATED (R36, R62). -/
theorem State.isolate_empty (queue : s.seq.queue = []) (access : s.accessSlot = none) (opening : s.claims.opening = none)
    (flight : s.line.flight = none) :
    s.isolate = s.setClaims { s.claims with station := .isolated, joinUntil := none } := by
  have noTags : s.seq.openTags = [] := by simp [Sequencer.openTags, queue]
  have none_ : (s.setClaims { s.claims with station := .isolated, joinUntil := none }).accessSlot = none := access
  unfold State.isolate
  dsimp only
  rw [State.setClaims_seq, noTags, List.foldl_nil, none_]
  dsimp only
  rw [State.endOpening, State.setClaims_claims]
  dsimp only
  rw [opening]
  dsimp only
  rw [State.tryNow, State.setClaims_line, flight]

/-- Discovery ends with a clash marked and nothing in hand: the clash is captured and the station is ISOLATED (R37, R202). -/
theorem State.endDiscovery_clash {k : NoticeKind} (clash : s.claims.clashMark = some k) (queue : s.seq.queue = [])
    (access : s.accessSlot = none) (opening : s.claims.opening = none) (flight : s.line.flight = none) :
    s.endDiscovery
      = ((s.capture (.stationClash k)).setChain
          { s.chain with
            exchange := none
            discovery := none
            pollPointer := 63
            polling := true
            nextPoll := s.time.now + ms 250 }).setClaims
          { s.claims with station := .isolated, clashMark := none, joinUntil := none } := by
  unfold State.endDiscovery
  dsimp only
  rw [State.setChain_claims, clash]
  dsimp only
  rw [State.setClaims_capture, State.setChain_capture, State.isolate_empty]
  · rfl
  · simpa using queue
  · simpa [State.accessSlot, State.findSlot] using access
  · simpa using opening
  · simpa using flight

/-- Discovery ends without a clash: polling begins and the station is STARTING (R202). -/
theorem State.endDiscovery_starts (clash : s.claims.clashMark = none) :
    s.endDiscovery
      = (s.setChain
          { s.chain with
            exchange := none
            discovery := none
            pollPointer := 63
            polling := true
            nextPoll := s.time.now + ms 250 }).setClaims { s.claims with station := .starting } := by
  unfold State.endDiscovery
  dsimp only
  rw [State.setChain_claims, clash]

/-- The entry that a poll of discovery leaves its unit (R9). -/
def discoveredEntry (s s' : State) (u : Nat) (c : Instr) (a : ChainAnswer) : UnitEntry :=
  { s.unitAt u with
    state :=
      if c = .answerStartTimeout ∨ c = .answerEndTimeout then (s.unitAt u).state
      else if a.supplyGood = true ∧ a.alarm = false then .ok
      else .alarm
    lastPoll := s'.time.clock / 1000 }

/-- What each end of a poll of discovery comes to, before the next unit is polled (R9): the unit's entry is stamped, and nothing else of the
chain, the claims, the sequencer or the line has changed. -/
theorem exec_discovery_poll {e : Exchange} (on : s.chain.exchange = some e) {s' : State} {u : Nat} {a : ChainAnswer} {c : Instr}
    (polls : e.request = .poll u) (discovery : s.chain.discovery = some (.polling u))
    (how : c = .exchangeAnswered a ∧ s.time.now ≤ e.lastAnswer ∧ s' = s
      ∨ c = .answerStartTimeout ∧ e.begun = false ∧ s' = s.passTo e.limit
      ∨ c = .answerEndTimeout ∧ e.begun = true ∧ s' = (s.passTo e.limit).capture (.chainStuck .poll (some u))) :
    exec c s = .next ((s'.freeChain.setUnit u (discoveredEntry s s' u c a)).discover (u + 1))
      ∧ s'.chain = s.chain ∧ s'.claims = s.claims ∧ s'.seq = s.seq ∧ s'.line = s.line := by
  obtain ⟨rfl, inTime, rfl⟩ | ⟨rfl, silent, rfl⟩ | ⟨rfl, begun, rfl⟩ := how
  · refine ⟨?_, rfl, rfl, rfl, rfl⟩
    rw [exec_discovery_answered on discovery inTime, polls, discoveredEntry, if_neg (by simp)]
    cases good : a.supplyGood <;> cases alarm : a.alarm <;>
      simp [State.discoveryAnswered, State.unitActs, discoveredState, good, alarm] <;> rfl
  · refine ⟨?_, rfl, rfl, rfl, rfl⟩
    have ends : exec .answerStartTimeout s = .next ((s.passTo e.limit).noAnswer e false) := by
      simp [exec, execAnswerStartTimeout, on, silent]
    rw [ends, (State.noAnswer_polling polls (by exact discovery)).1, discoveredEntry, if_pos (Or.inl rfl)]
    rfl
  · refine ⟨?_, by simp, by simp, by simp, by simp⟩
    have ends : exec .answerEndTimeout s = .next ((s.passTo e.limit).noAnswer e true) := by
      simp [exec, execAnswerEndTimeout, on, begun]
    rw [ends, (State.noAnswer_polling polls (by exact discovery)).2, discoveredEntry, if_pos (Or.inr rfl)]
    have chain : ((s.passTo e.limit).capture (.chainStuck .poll (some u))).chain = s.chain := by simp
    generalize (s.passTo e.limit).capture (.chainStuck .poll (some u)) = t at chain ⊢
    rw [State.stampPoll, State.freeChain, State.unitAt, State.setChain_chain, chain]
    rfl

/-- The two ends of a CHAIN CLEAR at power-on (R3, R5, R6, R202). -/
theorem chainClear_ends {e : Exchange} (on : s.chain.exchange = some e) {again : Bool} (clears : e.request = .chainClear)
    (discovery : s.chain.discovery = some (.clearing again)) :
    (∀ a : ChainAnswer, s.time.now ≤ e.lastAnswer →
      exec (.exchangeAnswered a) s = .next
        { s with
          chain :=
            { s.chain with
              driveSet := []
              discovery := some (.polling 0)
              exchange := some { request := .poll 0, begun := false, limit := s.time.now + ms 5 } } })
    ∧ (∀ (c : Instr) (err : ErrorDetail),
        (c = .answerStartTimeout ∧ e.begun = false ∧ err = .chainNoAnswer .chainClear none
          ∨ c = .answerEndTimeout ∧ e.begun = true ∧ err = .chainStuck .chainClear none) →
        ∃ (kept : List Pair) (free : Nat), kept.Sublist s.chain.driveSet
          ∧ exec c s = .next
              { (s.passTo e.limit).capture err with
                free := free
                chain :=
                  { s.chain with
                    driveSet := kept
                    discovery := some (if again then .polling 0 else .clearing true)
                    exchange :=
                      some
                        { request := if again then .poll 0 else .chainClear
                          begun := false
                          limit := max s.time.now e.limit + ms 5 } } }) := by
  refine ⟨fun a inTime => ?_, fun c err how => ?_⟩
  · rw [exec_discovery_answered on discovery inTime, clears, State.discoveryAnswered, State.discover_polls (by decide)]
    rfl
  · have ends : ∃ stuck : Bool, err = (if stuck then .chainStuck .chainClear none else .chainNoAnswer .chainClear none)
        ∧ exec c s = .next ((s.passTo e.limit).noAnswer e stuck) := by
      obtain ⟨rfl, silent, rfl⟩ | ⟨rfl, begun, rfl⟩ := how
      · exact ⟨false, rfl, by simp [exec, execAnswerStartTimeout, on, silent]⟩
      · exact ⟨true, rfl, by simp [exec, execAnswerEndTimeout, on, begun]⟩
    obtain ⟨stuck, rfl, ends⟩ := ends
    obtain ⟨kept, free, part, failed⟩ := (s.passTo e.limit).noAnswer_clearing clears (by exact discovery) stuck
    refine ⟨kept, free, part, ?_⟩
    rw [ends, failed]
    generalize (if stuck = true then ErrorDetail.chainStuck .chainClear none else .chainNoAnswer .chainClear none) = err
    have time : ((s.passTo e.limit).capture err).time.now = max s.time.now e.limit := by simp
    generalize (s.passTo e.limit).capture err = t at time ⊢
    rw [← time]
    cases again with
    | false => rfl
    | true =>
      rw [State.discoveryFailed, State.discover_polls (by decide)]
      rfl

/-- Settles O19, by the ends of CHAIN CLEAR and of the polls of discovery. -/
theorem discoveryPollsEveryUnit : Obligations.DiscoveryPollsEveryUnit := by
  intro s e on
  refine ⟨fun again clears discovery => chainClear_ends on clears discovery, ?_⟩
  intro s' u a c polls discovery small listed how units hunits
  obtain ⟨ends, chain, claims, seq, line⟩ := exec_discovery_poll on polls discovery how
  have stamped : s'.freeChain.setUnit u (discoveredEntry s s' u c a)
      = s'.setChain { s.chain with exchange := none, units := units } := by
    rw [State.setUnit, State.freeChain, chain, hunits]
    rfl
  rw [ends, stamped]
  refine ⟨fun more => ?_, fun last x hx => ⟨fun clash => ?_, fun k clash queue access opening flight => ?_⟩⟩
  · rw [State.discover_polls (by omega)]
    rfl
  · subst last
    rw [State.discover_ends, State.endDiscovery_starts (by exact claims ▸ clash), hx, ← claims]
    rfl
  · subst last
    have captured : (s'.capture (.stationClash k)).claims = s'.claims := by simp
    rw [State.discover_ends, State.endDiscovery_clash (by exact claims ▸ clash) (by exact seq ▸ queue)
      (by simpa [State.accessSlot, State.findSlot, seq] using access) (by exact claims ▸ opening) (by exact line ▸ flight), hx, ← claims,
      State.setChain_capture]
    rfl

end Sys2Proof.Machine

/-! SUPPORT. The rules of the desk line and of the claims' bookkeeping that the statements of Chapters 2 and 3 share: a notice brought into flight,
freed places, claims lost or left, sweep jobs that end; with the beginning of tries (O21). -/

namespace Sys2Proof.Machine

variable {s t : State}

/-! ## A notice comes into flight (R19, R21, R27) -/

/-- A first try may begin now (R19, R21). -/
theorem sendsNow_iff : SendsNow s ↔ s.lineQuiet = true ∧ s.transmitterSilent = false := by
  simp only [SendsNow, State.lineQuiet, State.transmitterSilent, Config.quietQuanta, Config.symbolQuanta]
  simp only [Bool.and_eq_true, Bool.not_eq_true', decide_eq_true_eq, Bool.or_eq_false_iff, beq_eq_false_iff_ne, ne_eq]
  tauto

/-- The first try of a notice in flight, as far as nothing more keeps it waiting (R21). -/
theorem State.tryNow_eq (s : State) : s.tryNow = s.setLine (firstTryBegun s) := by
  unfold firstTryBegun
  cases flight : s.line.flight with
  | none => rw [State.tryNow, flight]; rfl
  | some f =>
    by_cases sends : SendsNow s
    · obtain ⟨quiet, heard⟩ := sendsNow_iff.mp sends
      by_cases phase : f.phase = .waitQuiet
      · rw [State.tryNow_begins s f flight phase quiet heard]
        dsimp only
        rw [if_pos ⟨phase, sends⟩]
      · rw [State.tryNow, flight]
        simp only [phase, false_and, if_false]
        rfl
    · have waits : s.lineQuiet = false ∨ s.transmitterSilent = true := by
        by_contra h
        rw [not_or, Bool.not_eq_false, Bool.not_eq_true] at h
        exact sends (sendsNow_iff.mpr h)
      rw [State.tryNow_waits s waits]
      simp only [sends, and_false, if_false]
      rfl

/-- With none in flight the head of the queue comes into flight (R27). -/
theorem State.loadFlight_takes {first : Tx} {rest : List Tx} (flight : s.line.flight = none)
    (queue : s.line.queue = first :: rest) :
    s.loadFlight = s.setLine { broughtIntoFlight s first with queue := rest } := by
  unfold State.loadFlight
  rw [flight, queue]
  dsimp only
  rw [State.tryNow_eq, State.setLine_setLine]
  refine congrArg s.setLine ?_
  unfold firstTryBegun broughtIntoFlight
  dsimp only [State.setLine_line]
  by_cases sends : SendsNow s
  · rw [if_pos sends, if_pos (by exact ⟨rfl, sends⟩)]
    rfl
  · rw [if_neg sends, if_neg (by exact fun h => sends h.2)]

/-- Nothing comes into flight while a notice is, or with none queued (R27). -/
theorem State.loadFlight_stands (h : s.line.flight.isSome = true ∨ s.line.queue = []) : s.loadFlight = s := by
  unfold State.loadFlight
  split
  · rename_i flight queue
    rcases h with h | h
    · rw [flight] at h; cases h
    · rw [queue] at h; cases h
  · rfl

theorem State.lineMoves_takes {first : Tx} {rest : List Tx} (claims : s.line.heldClaims = [])
    (verdicts : s.line.heldVerdicts = []) (tickets : s.line.heldTickets = []) (flight : s.line.flight = none)
    (queue : s.line.queue = first :: rest) :
    s.lineMoves = s.setLine { broughtIntoFlight s first with queue := rest } := by
  rw [State.lineMoves_of_nothing_held s claims verdicts tickets, State.loadFlight_takes flight queue]

theorem State.lineMoves_stands (claims : s.line.heldClaims = []) (verdicts : s.line.heldVerdicts = [])
    (tickets : s.line.heldTickets = []) (h : s.line.flight.isSome = true ∨ s.line.queue = []) : s.lineMoves = s := by
  rw [State.lineMoves_of_nothing_held s claims verdicts tickets, State.loadFlight_stands h]

/-! ## Claims tested, left and lost (R41, R45) -/

theorem State.claimTest_noOpening (h : s.claims.opening = none) : s.claimTest = s := by
  unfold State.claimTest
  rw [h]

/-- A waiting claim is not tested again where the table is as it was (R41). -/
theorem State.testIfChanged_same (h : s.claims.entries = t.claims.entries) : s.testIfChanged t = s := if_pos h

theorem State.testIfChanged_changed (h : s.claims.entries ≠ t.claims.entries) : s.testIfChanged t = s.claimTest := if_neg h

theorem State.testIfChanged_noOpening (h : s.claims.opening = none) : s.testIfChanged t = s := by
  unfold State.testIfChanged
  rw [State.claimTest_noOpening h, ite_self]

/-- An OWN entry that leaves the table gives back what it awaited (R45, R46). -/
theorem State.leaveEntry_own {b : Nat} {c : OwnClaim} (h : s.entryAt b = .own c) :
    s.leaveEntry b
      = s.setClaims { s.claims with entries := c.awaited.foldl putBack (s.claims.entries.set b .free) } := by
  unfold State.leaveEntry
  rw [State.ownAt_own h]

/-- The table has changed where an OWN entry has left it. -/
theorem leaveEntry_changes {es : List Entry} {b : Nat} {c : OwnClaim} (h : es.getD b .free = .own c) (l : List Awaited) :
    l.foldl putBack (es.set b .free) ≠ es := by
  intro same
  have line : ownLine es b = some c.line := by rw [ownLine, h]; rfl
  have kept := (foldl_putBack l (es.set b .free)).2 b c.line (by rw [same]; exact line)
  by_cases inTable : b < es.length
  · rw [ownLine, List.getD_eq_getElem _ _ (by simpa using inTable), List.getElem_set_self] at kept
    cases kept
  · rw [List.getD_eq_default _ _ (by omega)] at h
    cases h

/-- The claim in the making is lost: a DEMAND or PRIORITY claim waits again (R45). -/
theorem State.loseClaim_waits {o : Opening} {b : Nat} {c : OwnClaim} (opening : s.claims.opening = some o)
    (placed : o.placed = some b) (entry : s.entryAt b = .own c) (urgency : o.urgency ≠ .routine) :
    s.loseClaim = s.setClaims (claimLost s.claims o b c) := by
  unfold State.loseClaim
  rw [opening]
  dsimp only
  rw [placed]
  dsimp only
  rw [State.leaveEntry_own entry, if_neg urgency]
  rfl

/-- The ROUTINE claim in the making is lost: it ends, and its sweep job with it (R45, R114). -/
theorem State.loseClaim_ends {o : Opening} {b : Nat} {c : OwnClaim} {id : SlotId} (opening : s.claims.opening = some o)
    (placed : o.placed = some b) (entry : s.entryAt b = .own c) (urgency : o.urgency = .routine)
    (access : s.accessSlot = some id) :
    s.loseClaim = (s.setClaims (claimEnded s.claims b c)).endSweepJob id .noBus := by
  unfold State.loseClaim
  rw [opening]
  dsimp only
  rw [placed]
  dsimp only
  rw [State.leaveEntry_own entry, if_pos urgency]
  have found : (s.setClaims (claimEnded s.claims b c)).accessSlot = some id := access
  change (match (s.setClaims (claimEnded s.claims b c)).accessSlot with
    | some id => (s.setClaims (claimEnded s.claims b c)).endSweepJob id .noBus
    | none => _) = _
  rw [found]

/-! ## Sweep jobs that end (R116, R181) -/

/-- A sweep job in ACCESS is found in the active slot. -/
theorem sweepInAccess_accessSlot {j : Job} {info : SweepInfo} {d : Nat} (h : SweepInAccess s j info d) :
    s.accessSlot = some .active := by
  simp [State.accessSlot, State.findSlot, Slot.job?, h.active, h.phase]

theorem sweepInAccess_of_eq {j : Job} {info : SweepInfo} {d : Nat} (h : SweepInAccess s j info d) (seq : t.seq = s.seq)
    (sweep : t.sweep = s.sweep) (time : t.time = s.time) : SweepInAccess t j info d where
  active := by rw [seq]; exact h.active
  staged := by rw [seq]; exact h.staged
  phase := h.phase
  sweep := h.sweep
  pointerTest := h.pointerTest
  verdict := h.verdict
  state := by rw [sweep]; exact h.state
  once := by rw [sweep]; exact h.once
  stop := by rw [sweep]; exact h.stop
  due := by rw [sweep]; exact h.due
  wait := by rw [time]; exact h.wait

/-- A sweep job that ends hands its outcome to the Sweep Engine, and no slot changes (R112, R116). -/
theorem State.endSweepJob_eq {id : SlotId} {j : Job} {info : SweepInfo} (h : s.slot id = .job j)
    (sweep : j.sweep = some info) (status : EndStatus) :
    s.endSweepJob id status
      = ((s.setSlot id .empty).sweepOutcome info j.order.line j.verdict status).settleSlots := by
  unfold State.endSweepJob
  rw [h]
  dsimp only
  rw [sweep]

/-- After an outcome, a running sweep whose next test is not due yet waits for it (R177). -/
theorem State.sweepGoOn_waits {d : Nat} (stop : s.sweep.stopPending = false) (state : s.sweep.state = .testing)
    (once : s.sweep.once = false) (due : s.sweep.due = some d) (wait : s.time.clock < d) :
    s.sweepGoOn = s.setSweep { s.sweep with state := .interval, offer := false, guardPassed := false } := by
  have notDue : ¬ d ≤ s.time.clock := by omega
  simp [State.sweepGoOn, stop, state, once, State.seekOrWait, due, notDue]

/-- A pointer test ends NO_BUS: its slot is empty and the sweep waits, its pointer where it stood (R114, R177, R181). -/
theorem sweepInAccess_endSweepJob {j : Job} {info : SweepInfo} {d : Nat} (h : SweepInAccess s j info d) :
    s.endSweepJob .active .noBus = sweepLost s := by
  rw [State.endSweepJob_eq (State.slot_active h.active) h.sweep, h.verdict]
  have outcome : (s.setSlot .active .empty).sweepOutcome info j.order.line none .noBus = sweepLost s := by
    unfold State.sweepOutcome
    dsimp only [State.postSweepResult]
    rw [h.pointerTest]
    simp only [Bool.false_eq_true, if_false, State.errorHalts, Option.any_none, Bool.and_false, State.pointerOutcome,
      Option.isSome_none]
    exact State.sweepGoOn_waits (s := s.setSlot .active .empty) h.stop h.state h.once h.due h.wait
  rw [outcome, State.settleSlots_stand]
  · intro i
    change s.seq.staged ≠ .job i
    rw [h.staged]
    simp
  · intro i on
    cases on

/-! ## Tries begin (O21) -/

theorem State.beginTry_eq {f : Flight} (flight : s.line.flight = some f) (busy : s.line.busy = false) :
    s.beginTry = s.setLine
      { s.line with flight := some { f with phase := .trying s.time.now }, busy := true, startedAt := s.time.now } := by
  unfold State.beginTry
  rw [flight]
  dsimp only
  rw [busy]
  rfl

/-- Settles O21, by the ends of the quiet wait and of a backoff. -/
theorem tryBeginsAfterItsQuietTime : Obligations.TryBeginsAfterItsQuietTime := by
  intro s f c symbols flight which
  have begun (m : Nat) (busy : s.line.busy = false) : (s.passTo m).beginTry = (s.passTo m).setLine
      { s.line with flight := some { f with phase := .trying (max s.time.now m) }, busy := true
                    startedAt := max s.time.now m } := by
    rw [State.beginTry_eq (s := s.passTo m) flight busy, State.passTo_now]
    rfl
  obtain ⟨rfl, phase, rfl⟩ | ⟨rfl, phase, rfl⟩ := which
  · refine ⟨fun busy mayTry => ?_, fun waits => ?_⟩
    · have heard : s.transmitterSilent = false := by
        have := mayTry.resolve_left (by simp)
        simpa [State.transmitterSilent] using this.symm
      simp only [exec, execQuietWaitEnd, flight, phase, busy, heard]
      exact congrArg Host.Outcome.next (begun _ busy)
    · simp only [exec, execQuietWaitEnd, flight]
      refine if_neg fun ⟨_, free, heard⟩ => ?_
      rcases waits with busy | ⟨-, starting⟩
      · rw [busy] at free; cases free
      · simp [State.transmitterSilent, starting] at heard
  · refine ⟨fun busy _ => ?_, fun waits => ?_⟩
    · simp only [exec, execBackoffEnd, flight, phase, busy]
      exact congrArg Host.Outcome.next (begun _ busy)
    · have busy := waits.resolve_right (by simp)
      simp [exec, execBackoffEnd, flight, busy]

end Sys2Proof.Machine

/-! SUPPORT. Tries that collide or are SENT (O22, O23). -/

namespace Sys2Proof.Machine

variable {s t : State}

/-! ## Collisions (R22 to R24, R31) -/

theorem exec_collision {f : Flight} {since : Nat} (flight : s.line.flight = some f) (phase : f.phase = .trying since) :
    exec .collision s = .next ((s.collide f).testIfChanged s) := by
  simp only [exec, execCollision, flight, phase]

/-- The state with the notice out of flight. -/
abbrev State.outOfFlight (s : State) : State := s.setLine { s.line with flight := none }

/-- On an empty line nothing follows a notice that leaves flight (R27, R30). -/
theorem State.lineMoves_empty (empty : s.line.Empty) : s.lineMoves = s := by
  obtain ⟨queue, claims, verdicts, tickets⟩ := empty
  exact State.lineMoves_stands claims verdicts tickets (.inr queue)

/-- The eighth collision: the notice leaves flight with LINE_JAM captured, and its source is told (R24). -/
theorem State.collide_drops {f : Flight} (kept : f.withdrawn = false) (eighth : 7 ≤ f.collisions) :
    s.collide f = s.dropped f.tx := by
  unfold State.collide
  rw [kept, if_neg (by decide), if_pos (by omega)]

theorem State.collide_withdrawn {f : Flight} (withdrawn : f.withdrawn = true) : s.collide f = s.lateWithdrawal f.tx :=
  if_pos withdrawn

/-- A dropped notice that is neither a CLAIM nor an ANNOUNCE (R24). -/
theorem State.dropped_plain {tx : Tx} (noClaim : ∀ u p, tx.notice ≠ .claim u p) (noAnnounce : tx.notice ≠ .announce) :
    s.dropped tx = (s.outOfFlight.capture (.lineJam tx.notice.kind)).lineMoves := by
  unfold State.dropped
  dsimp only
  split
  · rename_i claim
    exact absurd claim (noClaim _ _)
  · rename_i announce
    exact absurd announce noAnnounce
  · rfl

theorem State.dropped_claim {tx : Tx} {u : Urgency} {p : Pair} (claim : tx.notice = .claim u p) :
    s.dropped tx = (s.outOfFlight.capture (.lineJam tx.notice.kind)).loseClaim.lineMoves := by
  unfold State.dropped
  rw [claim]

theorem State.dropped_announce {tx : Tx} (announce : tx.notice = .announce) :
    s.dropped tx = ((s.outOfFlight.capture (.lineJam tx.notice.kind)).beginJoinPeriod tx.tag).lineMoves := by
  unfold State.dropped
  rw [announce]

/-- The join period begins with the end of the station's own ANNOUNCE (R61). -/
theorem State.beginJoinPeriod_joins (h : s.claims.station = .joining) :
    s.beginJoinPeriod .joining = s.setClaims { s.claims with joinUntil := some (s.time.now + ms 1500) } :=
  if_pos ⟨rfl, h⟩

/-- A withdrawn notice that is no CLAIM leaves flight with nothing captured (R31). -/
theorem State.lateWithdrawal_plain {tx : Tx} (noClaim : ∀ u p, tx.notice ≠ .claim u p) :
    s.lateWithdrawal tx = s.outOfFlight.lineMoves := by
  unfold State.lateWithdrawal
  dsimp only
  split
  · rename_i claim
    exact absurd claim (noClaim _ _)
  · rfl

theorem State.lateWithdrawal_claim {tx : Tx} {u : Urgency} {p : Pair} (claim : tx.notice = .claim u p) :
    s.lateWithdrawal tx
      = (if s.markedEntry p then s.outOfFlight.leaveEntry p.bus else s.outOfFlight).lineMoves := by
  unfold State.lateWithdrawal
  rw [claim]
  rfl

/-- The entry of a pair is left marked (R46). -/
theorem State.markedEntry_own {p : Pair} {c : OwnClaim} (h : s.entryAt p.bus = .own c) (withdrawn : c.withdrawn = true)
    (line : c.line = p.line) : s.markedEntry p = true := by
  simp [State.markedEntry, State.ownAt_own h, withdrawn, line]

/-- No entry of a pair is left marked (R46). -/
theorem State.markedEntry_none {p : Pair}
    (h : ∀ c, s.entryAt p.bus = .own c → c.withdrawn = true → c.line ≠ p.line) : s.markedEntry p = false := by
  unfold State.markedEntry State.ownAt
  split
  · rename_i c entry
    have := h c entry
    cases withdrawn : c.withdrawn with
    | false => simp [withdrawn]
    | true => simpa [withdrawn] using this withdrawn
  · rfl

/-- Settles O22, by the kind of notice that met the collision. -/
theorem collisionBacksOffOrDrops : Obligations.CollisionBacksOffOrDrops := by
  intro s f since flight phase
  rw [exec_collision flight phase]
  refine ⟨fun kept few => ?_, fun empty x t hx ht => ?_⟩
  · have backs : s.collide f = s.setLine
        { s.line with flight := some { f with collisions := f.collisions + 1, phase := .backoff } } := by
      unfold State.collide
      rw [kept, if_neg (by decide), if_neg (by omega)]
    rw [backs, State.testIfChanged_same (by rfl)]
    rfl
  have out : s.outOfFlight = x := hx.symm
  have captured : s.outOfFlight.capture (.lineJam f.tx.notice.kind) = t := by
    rw [ht, State.outOfFlight, State.setLine_capture]
    rfl
  have xEmpty : x.line.Empty := by rw [hx]; exact empty
  have tEmpty : t.line.Empty := by rw [ht]; exact empty
  have xClaims : x.claims = s.claims := by rw [hx]
  have tClaims : t.claims = s.claims := by rw [ht]; exact s.capture_claims _
  have tTime : t.time = s.time := by rw [ht]; exact s.capture_time _
  refine ⟨fun noClaim noAnnounce => ⟨fun kept eighth => ?_, fun withdrawn => ?_⟩,
    fun announce tag joining kept eighth => ?_, fun u p claim => ⟨fun withdrawn => ⟨fun unmarked => ?_,
      fun c entry marked line opening => ?_⟩, fun c o kept eighth entry opening placed urgency =>
      ⟨fun desk => ?_, fun j info d routine sweeps => ?_⟩⟩⟩
  · rw [State.collide_drops kept eighth, State.dropped_plain noClaim noAnnounce, captured, State.lineMoves_empty tEmpty,
      State.testIfChanged_same (by rw [tClaims])]
  · rw [State.collide_withdrawn withdrawn, State.lateWithdrawal_plain noClaim, out, State.lineMoves_empty xEmpty,
      State.testIfChanged_same (by rw [xClaims])]
  · rw [State.collide_drops kept eighth, State.dropped_announce announce, captured, tag,
      State.beginJoinPeriod_joins (by rw [tClaims]; exact joining), State.lineMoves_empty (by exact tEmpty),
      State.testIfChanged_same (by rw [State.setClaims_claims, tClaims]), tClaims, ← tTime]
    rfl
  · rw [State.collide_withdrawn withdrawn, State.lateWithdrawal_claim claim, State.markedEntry_none
      (fun c entry marked => by rw [unmarked c entry] at marked; cases marked), if_neg (by decide), out,
      State.lineMoves_empty xEmpty, State.testIfChanged_same (by rw [xClaims])]
  · rw [State.collide_withdrawn withdrawn, State.lateWithdrawal_claim claim, State.markedEntry_own entry marked line,
      if_pos rfl, State.leaveEntry_own (by exact entry), State.lineMoves_empty (by exact empty),
      State.testIfChanged_noOpening (by exact opening), out, xClaims]
    have ended : claimEnded s.claims p.bus c
        = { s.claims with entries := c.awaited.foldl putBack (s.claims.entries.set p.bus .free) } := by
      rw [claimEnded, ← opening]
    rw [ended]
    rfl
  · have entryT : t.entryAt p.bus = .own c := by rw [State.entryAt, tClaims]; exact entry
    rw [State.collide_drops kept eighth, State.dropped_claim claim, captured,
      State.loseClaim_waits (by rw [tClaims]; exact opening) placed entryT (by rw [urgency]; exact desk),
      State.lineMoves_empty (by exact tEmpty), State.testIfChanged_changed, tClaims]
    · rfl
    · rw [tClaims]
      exact leaveEntry_changes entry _
  · have entryT : t.entryAt p.bus = .own c := by rw [State.entryAt, tClaims]; exact entry
    have tSweeps : SweepInAccess t j info d :=
      sweepInAccess_of_eq sweeps (by rw [ht]; exact s.capture_seq _) (by rw [ht]; exact s.capture_sweep _) tTime
    rw [State.collide_drops kept eighth, State.dropped_claim claim, captured,
      State.loseClaim_ends (by rw [tClaims]; exact opening) placed entryT (by rw [urgency]; exact routine)
        (sweepInAccess_accessSlot tSweeps),
      sweepInAccess_endSweepJob (j := j) (info := info) (d := d) (by exact sweepInAccess_of_eq tSweeps rfl rfl rfl), State.lineMoves_empty (by exact tEmpty),
      State.testIfChanged_noOpening (by rfl), tClaims]
    rfl

/-! ## Notices SENT (R22, R27, R31, R42, R46) -/

theorem exec_noticeSent {f : Flight} {since : Nat} (flight : s.line.flight = some f) (phase : f.phase = .trying since) :
    exec .noticeSent s = .next (((s.passTo (since + 500)).sent f).testIfChanged s) := by
  simp only [exec, execNoticeSent, flight, phase, Config.noticeQuanta, Config.symbolQuanta]

/-- On a line whose activity ends now, the head of the queue comes into flight and waits for quiet (R21, R27). -/
theorem State.loadFlight_ended (flight : s.line.flight = none) (ended : s.line.endedAt = s.time.now) :
    s.loadFlight = s.setLine
      { s.line with
        flight :=
          s.line.queue.head?.map (fun tx => { tx := tx, collisions := 0, phase := .waitQuiet, withdrawn := false })
        queue := s.line.queue.tail } := by
  cases queue : s.line.queue with
  | nil =>
    rw [State.loadFlight_stands (.inr queue)]
    have same : s.line = { s.line with flight := none, queue := [] } := by rw [← flight, ← queue]
    exact congrArg s.setLine same
  | cons first rest =>
    rw [State.loadFlight_takes flight queue, broughtIntoFlight, if_neg]
    · rfl
    · rintro ⟨-, quiet, -⟩
      omega

/-- The line is free from now, and the notice is out of flight (R22). -/
def State.flightEnded (s : State) : State := s.setLine { s.line with flight := none, busy := false, endedAt := s.time.now }

/-- With nothing held back, the next notice comes into flight behind one that was SENT (R22, R27). -/
theorem State.flightEnded_moves (claims : s.line.heldClaims = []) (verdicts : s.line.heldVerdicts = [])
    (tickets : s.line.heldTickets = []) :
    s.flightEnded.lineMoves = s.setLine
      { s.line with
        busy := false
        endedAt := s.time.now
        flight :=
          s.line.queue.head?.map (fun tx => { tx := tx, collisions := 0, phase := .waitQuiet, withdrawn := false })
        queue := s.line.queue.tail } := by
  rw [State.lineMoves_of_nothing_held _ (by exact claims) (by exact verdicts) (by exact tickets),
    State.loadFlight_ended (by rfl) (by rfl)]
  rfl

theorem State.sent_plain {f : Flight} (noClaim : ∀ u p, f.tx.notice ≠ .claim u p) (noAnnounce : f.tx.notice ≠ .announce) :
    s.sent f = s.flightEnded.lineMoves := by
  unfold State.sent
  dsimp only
  split
  · rename_i claim
    exact absurd claim (noClaim _ _)
  · rename_i announce
    exact absurd announce noAnnounce
  · rfl

theorem State.sent_announce {f : Flight} (announce : f.tx.notice = .announce) :
    s.sent f = (s.flightEnded.beginJoinPeriod f.tx.tag).lineMoves := by
  unfold State.sent
  rw [announce]
  rfl

theorem State.sent_claim {f : Flight} {u : Urgency} {p : Pair} (claim : f.tx.notice = .claim u p) :
    s.sent f = (if f.withdrawn then s.flightEnded.lateSent f.tx.tag p else s.flightEnded.claimSent p).lineMoves := by
  unfold State.sent
  rw [claim]
  rfl

/-- The claims stand aside from what a notice makes of the line. -/
theorem State.lineMoves_setClaims (claims : s.line.heldClaims = []) (verdicts : s.line.heldVerdicts = [])
    (tickets : s.line.heldTickets = []) {x : Claims} (station : x.station = s.claims.station) :
    (s.setClaims x).lineMoves = s.lineMoves.setClaims x := by
  rw [State.lineMoves_of_nothing_held _ (by exact claims) (by exact verdicts) (by exact tickets),
    State.lineMoves_of_nothing_held _ claims verdicts tickets, State.loadFlight_line, s.loadFlight_line,
    State.LineAlike.loadFlight (s := s) (t := s.setClaims x) ⟨rfl, rfl, station⟩]
  rfl

/-- A claim that holds its pair is not tested. -/
theorem State.claimTest_placed {o : Opening} {b : Nat} (opening : s.claims.opening = some o) (placed : o.placed = some b) :
    s.claimTest = s := by
  unfold State.claimTest
  rw [opening]
  dsimp only
  rw [placed]
  exact if_neg fun h => by cases h.1

theorem State.testIfChanged_placed {o : Opening} {b : Nat} (opening : s.claims.opening = some o)
    (placed : o.placed = some b) : s.testIfChanged t = s := by
  unfold State.testIfChanged
  rw [State.claimTest_placed opening placed, ite_self]

/-- A CLAIM that has been SENT opens its claim's window (R42). -/
theorem State.claimSent_opens {p : Pair} {c : OwnClaim} (entry : s.entryAt p.bus = .own c) (line : c.line = p.line)
    (state : c.state = .sending) :
    s.claimSent p = s.setEntry p.bus (.own
      { c with
        state := if c.awaited = [] then .contest else .awaitYield
        sentAt := s.time.now
        limit := s.time.now + ms 2000 }) := by
  unfold State.claimSent
  rw [State.ownAt_own entry]
  dsimp only
  rw [if_pos ⟨line, state⟩, State.updateOwn_own entry]

/-- A marked entry leaves behind its RELEASE, when its CLAIM has been SENT too late (R31, R46). -/
theorem State.lateSent_moves {tag : TxTag} {p : Pair} {c : OwnClaim} (entry : s.entryAt p.bus = .own c)
    (marked : c.withdrawn = true) (line : c.line = p.line) (room : s.line.queue.length < 16)
    (claims : s.line.heldClaims = []) (verdicts : s.line.heldVerdicts = []) (tickets : s.line.heldTickets = []) :
    (s.flightEnded.lateSent tag p).lineMoves
      = (s.setLine
          { s.line with
            busy := false
            endedAt := s.time.now
            flight :=
              (s.line.queue ++ [({ notice := .release p, tag := tag } : Tx)]).head?.map
                (fun tx => { tx := tx, collisions := 0, phase := .waitQuiet, withdrawn := false })
            queue := (s.line.queue ++ [({ notice := .release p, tag := tag } : Tx)]).tail }).setClaims
          { s.claims with entries := c.awaited.foldl putBack (s.claims.entries.set p.bus .free) } := by
  have offered : s.flightEnded.offer { notice := .release p, tag := tag }
      = s.setLine
          { s.line with
            busy := false
            endedAt := s.time.now
            flight :=
              (s.line.queue ++ [({ notice := .release p, tag := tag } : Tx)]).head?.map
                (fun tx => { tx := tx, collisions := 0, phase := .waitQuiet, withdrawn := false })
            queue := (s.line.queue ++ [({ notice := .release p, tag := tag } : Tx)]).tail } := by
    unfold State.offer State.enqueue
    rw [if_neg (by simp [foldsInto]), if_pos (by exact room)]
    dsimp only
    rw [State.loadFlight_ended (by rfl) (by rfl)]
    rfl
  rw [State.lateSent, if_pos (State.markedEntry_own (by exact entry) marked line), offered,
    State.leaveEntry_own (by exact entry), State.lineMoves_stands (by exact claims) (by exact verdicts) (by exact tickets)]
  · rfl
  · left
    change (((s.line.queue ++ [_]).head?.map _).isSome) = true
    simp

/-- Settles O23, by the kind of notice that was SENT. -/
theorem sentNoticeTellsItsSource : Obligations.SentNoticeTellsItsSource := by
  intro s f since now flight phase hnow claims verdicts tickets line hline
  subst hnow hline
  rw [exec_noticeSent flight phase]
  have moves := State.flightEnded_moves (s := s.passTo (since + 500)) claims verdicts tickets
  rw [State.passTo_now] at moves
  refine ⟨fun noClaim noAnnounce => ?_, fun announce tag joining => ?_, fun u p claim withdrawn => ⟨fun unmarked => ?_,
    fun c queue entry marked claimLine opening room hqueue => ?_⟩, fun u p c o claim kept entry claimLine state opening placed => ?_⟩
  · rw [State.sent_plain noClaim noAnnounce, moves, State.testIfChanged_same (by rfl)]
    rfl
  · rw [State.sent_announce announce, tag, State.beginJoinPeriod_joins (by exact joining),
      State.lineMoves_setClaims (by exact claims) (by exact verdicts) (by exact tickets) (by rfl), moves,
      State.testIfChanged_same (by rfl), State.flightEnded]
    simp only [State.setLine_time, State.passTo_now]
    rfl
  · rw [State.sent_claim claim, if_pos withdrawn, State.lateSent, State.markedEntry_none (by exact unmarked), if_neg (by decide),
      moves, State.testIfChanged_same (by rfl)]
    rfl
  · subst hqueue
    rw [State.sent_claim claim, if_pos withdrawn,
      State.lateSent_moves (by exact entry) marked claimLine (by exact room) (by exact claims) (by exact verdicts)
        (by exact tickets), State.testIfChanged_noOpening (by exact opening), State.passTo_now, claimEnded, ← opening]
    rfl
  · rw [State.sent_claim claim, kept, if_neg (by decide), State.claimSent_opens (by exact entry) claimLine state,
      State.setEntry, State.lineMoves_setClaims (by exact claims) (by exact verdicts) (by exact tickets) (by rfl), moves,
      State.testIfChanged_placed (by exact opening) placed, State.flightEnded]
    simp only [State.setLine_time, State.passTo_now]
    rfl

end Sys2Proof.Machine

/-! SUPPORT. Orders that end while they are queued, and claims that end before they are HELD (R46, R115, R128, R129, R133). -/

namespace Sys2Proof.Machine

variable {s t : State}

/-! ## Queued orders that end (R128, R133) -/

/-- The tags of the orders of a queue. -/
abbrev tagsOf (q : List QueuedOrder) : List Nat := q.map (fun q => q.order.tag)

/-- The orders behind and ahead of one order have tags of their own. -/
theorem tag_ne_of_nodup {before after : List QueuedOrder} {q : QueuedOrder} (nodup : (tagsOf (before ++ q :: after)).Nodup) :
    (∀ x ∈ before, x.order.tag ≠ q.order.tag) ∧ (∀ x ∈ after, x.order.tag ≠ q.order.tag) := by
  rw [tagsOf, List.map_append, List.map_cons, List.nodup_append, List.nodup_cons] at nodup
  obtain ⟨-, ⟨notAfter, -⟩, apart⟩ := nodup
  refine ⟨fun x hx same => ?_, fun x hx same => notAfter (List.mem_map.mpr ⟨x, hx, same⟩)⟩
  exact apart _ (List.mem_map.mpr ⟨x, hx, rfl⟩) _ List.mem_cons_self same

/-- An order of the queue that has not ended, found by its tag. -/
theorem find_queued {before after : List QueuedOrder} {q : QueuedOrder} (nodup : (tagsOf (before ++ q :: after)).Nodup)
    (waits : q.waiting = none) :
    (before ++ q :: after).find? (fun x => x.order.tag == q.order.tag && x.waiting.isNone) = some q := by
  have apart := (tag_ne_of_nodup nodup).1
  rw [List.find?_append, List.find?_eq_none.mpr, Option.none_or, List.find?_cons_of_pos]
  · simp [waits]
  · intro x hx
    simp [apart x hx]

/-- A queued order that ends: its record enters the completion queue and it leaves, or it keeps its place with it (R128, R133). -/
theorem State.endQueued_mid {before after : List QueuedOrder} {q : QueuedOrder} (queue : s.seq.queue = before ++ q :: after)
    (nodup : (tagsOf (before ++ q :: after)).Nodup) (waits : q.waiting = none) (status : EndStatus) (failing : Option Nat) :
    s.endQueued q.order.tag status failing
      = s.setSeq
          (if s.seq.completions.length < 16 then
            { s.seq with
              ends := s.seq.ends + 1
              completions := s.seq.completions ++ [queuedRecord s q.order status failing]
              queue := before ++ after }
          else
            { s.seq with
              ends := s.seq.ends + 1
              queue :=
                before
                  ++ { q with waiting := some { record := queuedRecord s q.order status failing, ended := s.seq.ends } }
                    :: after }) := by
  obtain ⟨ahead, behind⟩ := tag_ne_of_nodup nodup
  have left : (before ++ q :: after).filter (fun x => x.order.tag != q.order.tag) = before ++ after := by
    rw [List.filter_append, List.filter_cons_of_neg (by simp), List.filter_eq_self.mpr, List.filter_eq_self.mpr]
    · intro x hx
      simp [behind x hx]
    · intro x hx
      simp [ahead x hx]
  have kept (w : Waiting) : (before ++ q :: after).map (fun x => if x.order.tag = q.order.tag then { x with waiting := some w } else x)
      = before ++ { q with waiting := some w } :: after := by
    rw [List.map_append, List.map_cons, if_pos rfl, List.map_congr_left, List.map_id'', List.map_congr_left, List.map_id'']
    · intro x; rfl
    · intro x hx; exact if_neg (behind x hx)
    · intro x; rfl
    · intro x hx; exact if_neg (ahead x hx)
  unfold State.endQueued
  rw [queue, find_queued nodup waits]
  dsimp only [State.countEnd, State.setSeq_seq, Config.completionCap]
  rw [queue, left, kept]
  by_cases room : s.seq.completions.length < 16
  · rw [if_pos room, if_pos room]
    rfl
  · rw [if_neg room, if_neg room]
    rfl

section
variable {goes : QueuedOrder → Bool} {record : Order → Completion} {ends : Nat} {q : QueuedOrder} {rest : List QueuedOrder}

theorem ordersEnd_stays (stays : goes q = false) (room : Nat) :
    ordersEnd goes record ends room (q :: rest)
      = (q :: (ordersEnd goes record ends room rest).1, (ordersEnd goes record ends room rest).2) := by
  rw [ordersEnd.eq_def]
  simp [stays]

theorem ordersEnd_waits (going : goes q = true) :
    ordersEnd goes record ends 0 (q :: rest)
      = ({ q with waiting := some { record := record q.order, ended := ends } } :: (ordersEnd goes record (ends + 1) 0 rest).1,
        (ordersEnd goes record (ends + 1) 0 rest).2) := by
  rw [ordersEnd.eq_def]
  simp [going]

theorem ordersEnd_enters (going : goes q = true) (k : Nat) :
    ordersEnd goes record ends (k + 1) (q :: rest)
      = ((ordersEnd goes record (ends + 1) k rest).1, record q.order :: (ordersEnd goes record (ends + 1) k rest).2) := by
  rw [ordersEnd.eq_def]
  simp [going]

end

/-- Orders of the queue that end one after the other, by a step that ends each with its status (R115, R129, R133, R194). -/
theorem State.foldl_endQueued {f : State → Nat → State} {goes : QueuedOrder → Bool} {status : Order → EndStatus}
    {failing : Option Nat} (waits : ∀ q, goes q = true → q.waiting = none)
    (ends : ∀ (seq : Sequencer) (before after : List QueuedOrder) (q : QueuedOrder),
      seq.queue = before ++ q :: after → (tagsOf (before ++ q :: after)).Nodup → q.waiting = none →
      f (s.setSeq seq) q.order.tag = (s.setSeq seq).endQueued q.order.tag (status q.order) failing) :
    ∀ (l before : List QueuedOrder) (seq : Sequencer), seq.queue = before ++ l → (tagsOf (before ++ l)).Nodup →
      (tagsOf (l.filter goes)).foldl f (s.setSeq seq)
        = s.setSeq
            { seq with
              queue :=
                before
                  ++ (ordersEnd goes (fun o => queuedRecord s o (status o) failing) seq.ends
                    (16 - seq.completions.length) l).1
              completions :=
                seq.completions
                  ++ (ordersEnd goes (fun o => queuedRecord s o (status o) failing) seq.ends
                    (16 - seq.completions.length) l).2
              ends := seq.ends + (l.filter goes).length } := by
  intro l
  induction l with
  | nil =>
    intro before seq queue _
    simp [ordersEnd, ← queue]
  | cons q rest ih =>
    intro before seq queue nodup
    have shift : before ++ q :: rest = (before ++ [q]) ++ rest := by simp
    cases going : goes q with
    | false =>
      rw [List.filter_cons_of_neg (by simp [going]), ih (before ++ [q]) seq (by rw [queue, shift]) (by rw [← shift]; exact nodup),
        ordersEnd_stays going]
      simp
    | true =>
      rw [List.filter_cons_of_pos going, tagsOf, List.map_cons, List.foldl_cons, ends seq before rest q queue nodup (waits q going),
        State.endQueued_mid queue nodup (waits q going)]
      have others : (tagsOf (before ++ rest)).Nodup :=
        nodup.sublist (List.Sublist.map _ (List.Sublist.append_left (List.sublist_cons_self _ _) _))
      by_cases room : seq.completions.length < 16
      · obtain ⟨k, hk⟩ : ∃ k, 16 - seq.completions.length = k + 1 := ⟨15 - seq.completions.length, by omega⟩
        have fewer : 16 - (seq.completions.length + 1) = k := by omega
        rw [State.setSeq_seq, if_pos room, State.setSeq_setSeq, ih before _ (by rfl) others, hk, ordersEnd_enters going]
        simp only [List.length_append, List.length_cons, List.length_nil, Nat.zero_add, fewer,
          List.append_assoc, List.singleton_append, Nat.add_assoc, Nat.add_comm 1]
        rfl
      · have none_ : 16 - seq.completions.length = 0 := by omega
        rw [State.setSeq_seq, if_neg room, State.setSeq_setSeq,
          ih (before ++ [{ q with waiting := some (Waiting.mk (queuedRecord s q.order (status q.order) failing) seq.ends) }])
            _ (by simp; rfl) (by simpa [tagsOf] using nodup), none_, ordersEnd_waits going]
        simp only [List.append_assoc, List.singleton_append, List.length_cons, Nat.add_assoc, Nat.add_comm 1]

/-! ## CLAIMs withdrawn (R31) -/

/-- Of the notices of a queue, the CLAIM goes and the others stay. -/
theorem filter_noClaim {before after : List Tx} {tx : Tx} (claim : tx.isClaim = true)
    (others : ∀ z ∈ before ++ after, z.isClaim = false) :
    (before ++ tx :: after).filter (fun z => !z.isClaim) = before ++ after := by
  rw [List.filter_append, List.filter_cons_of_neg (by simp [claim]), ← List.filter_append, List.filter_eq_self.mpr]
  intro z hz
  simp [others z hz]

/-- A CLAIM waiting in the queue or for its try is withdrawn (R31). -/
theorem State.withdrawClaim_stopped {y : DeskLine} (h : ClaimStopped s y) : s.withdrawClaim = (s.setLine y, .withdrawn) := by
  obtain ⟨claims, verdicts, tickets, ⟨before, tx, after, flies, queue, claim, others, rfl⟩
    | ⟨f, flight, claim, kept, phase, others, next⟩⟩ := h
  · have any : s.line.queue.any Tx.isClaim = true := by simp [queue, claim]
    unfold State.withdrawClaim
    rw [if_pos any, queue, filter_noClaim claim others, State.lineMoves_stands (by exact claims) (by exact verdicts) (by exact tickets)
      (by exact .inl flies)]
  · have none_ : ¬ s.line.queue.any Tx.isClaim = true := by simpa using others
    have noneHeld : ¬ s.line.heldClaims.any Tx.isClaim = true := by simp [claims]
    have moved : (s.setLine { s.line with flight := none }).lineMoves = s.setLine y := by
      obtain ⟨queue, rfl⟩ | ⟨first, rest, queue, rfl⟩ := next
      · rw [State.lineMoves_stands (by exact claims) (by exact verdicts) (by exact tickets) (by exact .inr queue)]
      · rw [State.lineMoves_takes (by exact claims) (by exact verdicts) (by exact tickets) (by rfl) (by exact queue)]
        rfl
    unfold State.withdrawClaim
    rw [if_neg none_, if_neg noneHeld, flight]
    dsimp only
    rw [if_pos ⟨claim, by simp [kept]⟩, moved]
    rcases phase with phase | phase <;> rw [phase]

/-- A CLAIM whose try is on the line is withdrawn TOO_LATE, and both are left (R31, R206). -/
theorem State.withdrawClaim_tooLate {f : Flight} {since : Nat} (flight : s.line.flight = some f) (claim : f.tx.isClaim = true)
    (kept : f.withdrawn = false) (phase : f.phase = .trying since)
    (others : ∀ tx ∈ s.line.queue ++ s.line.heldClaims, tx.isClaim = false) :
    s.withdrawClaim
      = (s.setLine { s.line with flight := some { f with tx := s.lateTag f.tx, withdrawn := true } }, .tooLate) := by
  have none_ : ¬ s.line.queue.any Tx.isClaim = true := by
    simpa using fun tx h => others tx (List.mem_append_left _ h)
  have noneHeld : ¬ s.line.heldClaims.any Tx.isClaim = true := by
    simpa using fun tx h => others tx (List.mem_append_right _ h)
  unfold State.withdrawClaim
  rw [if_neg none_, if_neg noneHeld, flight]
  dsimp only
  rw [if_pos ⟨claim, by simp [kept]⟩, phase]

/-! ## Claims that end before they are HELD (R46) -/

/-- The claim in the making ends as the statements of Chapter 3 have it (R46, R62, R63). -/
theorem State.endOpening_ends {x w : State} (h : ClaimEndsUnheld x w) : x.endOpening = w := by
  obtain ⟨none_, rfl⟩ | ⟨o, opening, how⟩ := h
  · unfold State.endOpening
    rw [none_]
  unfold State.endOpening
  rw [opening]
  dsimp only
  obtain ⟨waits, rfl⟩ | ⟨b, c, placed, entry, how⟩ := how
  · rw [waits]
    rfl
  rw [placed]
  dsimp only
  rw [State.ownAt_own (by exact entry)]
  dsimp only
  obtain ⟨sending, y, stopped, rfl⟩ | ⟨sending, f, since, flight, claim, kept, phase, others, rfl⟩ | ⟨announced, rfl⟩ := how
  · rw [if_pos sending, State.withdrawClaim_stopped (s := x.setClaims { x.claims with opening := none }) (by exact stopped)]
    dsimp only
    rw [State.leaveEntry_own (by exact entry)]
    rfl
  · rw [if_pos sending, State.withdrawClaim_tooLate (by exact flight) claim kept phase (by exact others)]
    dsimp only
    rw [State.updateOwn_own (by exact entry), State.lateTag]
    by_cases resetting : x.claims.station = .resetting
    · rw [if_pos (by exact resetting), if_pos resetting]
      rfl
    · rw [if_neg (by exact resetting), if_neg resetting]
      rfl
  · have notSending : c.state ≠ .sending := by rcases announced with h | h <;> rw [h] <;> decide
    rw [if_neg notSending, State.leaveEntry_own (by exact entry)]
    rfl

end Sys2Proof.Machine

/-! SUPPORT. Receptions, bad notices and clashes (O24). -/

namespace Sys2Proof.Machine

variable {s t : State}

/-! ## What the Sweep Engine changes -/

/-- A state in which the sweep, the reports and what the port sees of them may have changed, and nothing else. -/
def State.SweepMoved (s t : State) : Prop := t = { s with sweep := t.sweep, reports := t.reports, port := t.port }

namespace State.SweepMoved

theorem refl (s : State) : s.SweepMoved s := rfl

theorem setSweep (h : s.SweepMoved t) (x : Sweep) : s.SweepMoved (t.setSweep x) := by
  unfold State.SweepMoved at h ⊢
  rw [h]
  rfl

theorem post (h : s.SweepMoved t) (c : ReportContent) : s.SweepMoved (t.post c) := by
  unfold State.SweepMoved at h ⊢
  rw [h]
  unfold State.post
  (repeat' split) <;> rfl

theorem stepPointer (h : s.SweepMoved t) : s.SweepMoved t.stepPointer := by
  unfold State.stepPointer State.haltIfComplete State.wrapPass
  dsimp only
  (repeat' split)
  · exact ((((h.setSweep _).post _).setSweep _).setSweep _).post _
  · exact ((h.setSweep _).post _).setSweep _
  · exact h.setSweep _

theorem stopSweep (h : s.SweepMoved t) (c : SweepCause) : s.SweepMoved (t.stopSweep c) := (h.setSweep _).post _

theorem sweepGoOn (h : s.SweepMoved t) : s.SweepMoved t.sweepGoOn := by
  unfold State.sweepGoOn State.seekOrWait State.seek
  (repeat' split)
  exacts [h.stopSweep _, h, h.stopSweep _, h.setSweep _, h.setSweep _]

theorem sweepOutcome (h : s.SweepMoved t) (info : SweepInfo) (line : Nat) (v : Option Verdict) (status : EndStatus) :
    s.SweepMoved (t.sweepOutcome info line v status) := by
  have posted : s.SweepMoved (t.postSweepResult info line v) := by
    unfold State.postSweepResult
    (repeat' split)
    exacts [h, h, h.post _, h.post _]
  unfold State.sweepOutcome State.pointerOutcome State.countSkip
  dsimp only
  (repeat' split)
  exacts [(posted.setSweep _).sweepGoOn, posted.sweepGoOn, (posted.setSweep _).post _, posted.stepPointer.sweepGoOn,
    (posted.setSweep _).stepPointer.sweepGoOn, (posted.setSweep _).stepPointer.sweepGoOn,
    (posted.setSweep _).stepPointer.sweepGoOn, (posted.setSweep _).stepPointer.sweepGoOn, posted.sweepGoOn]

theorem seq (h : s.SweepMoved t) : t.seq = s.seq := by rw [h]

theorem line (h : s.SweepMoved t) : t.line = s.line := by rw [h]

theorem time (h : s.SweepMoved t) : t.time = s.time := by rw [h]

theorem claims (h : s.SweepMoved t) : t.claims = s.claims := by rw [h]

theorem head (h : s.SweepMoved t) : t.head = s.head := by rw [h]

theorem chain (h : s.SweepMoved t) : t.chain = s.chain := by rw [h]

end State.SweepMoved

/-- A sweep job that ends with the slots left standing hands its outcome over (R112, R116). -/
theorem State.endSweepJob_stands {id : SlotId} {j : Job} {info : SweepInfo} (h : s.slot id = .job j)
    (sweep : j.sweep = some info) (stands : SlotsStand s id) (status : EndStatus) :
    s.endSweepJob id status = (s.setSlot id .empty).sweepOutcome info j.order.line j.verdict status := by
  have moved := (State.SweepMoved.refl (s.setSlot id .empty)).sweepOutcome info j.order.line j.verdict status
  rw [State.endSweepJob_eq h sweep, State.settleSlots_stand]
  · intro i
    rw [moved.seq]
    cases id with
    | active =>
      change s.seq.staged ≠ .job i
      rw [stands.1 rfl]
      simp
    | staged => simp [State.setSlot]
  · intro i
    rw [moved.seq, moved.head]
    cases id with
    | active =>
      intro on
      cases on
    | staged => exact stands.2 rfl i

/-- The end of a sweep job in its slot: its outcome is handed over (R116, R123). -/
theorem State.endJob_sweep {id : SlotId} {j : Job} {info : SweepInfo} (h : s.slot id = .job j) (sweep : j.sweep = some info)
    (station : s.claims.station ≠ .resetting) (stands : SlotsStand s id) :
    s.endJob id = (s.setSlot id .empty).sweepOutcome info j.order.line j.verdict (j.status.getD .done) := by
  unfold State.endJob
  rw [h]
  dsimp only
  rw [if_neg station, if_pos (by simp [sweep]), State.endSweepJob_stands h sweep stands]

/-! ## What an ended claim and an offered notice leave of the line -/

theorem State.tryNow_endedAt (s : State) : s.tryNow.line.endedAt = s.line.endedAt := by
  rw [s.tryNow_eq]
  unfold firstTryBegun
  (repeat' split) <;> rfl

theorem State.loadFlight_endedAt (s : State) : s.loadFlight.line.endedAt = s.line.endedAt := by
  unfold State.loadFlight
  split
  · rw [State.tryNow_endedAt]
    rfl
  · rfl

theorem State.holdBack_endedAt (s : State) (tx : Tx) : (s.holdBack tx).line.endedAt = s.line.endedAt := by
  unfold State.holdBack
  (repeat' split) <;> rfl

theorem State.offer_endedAt (s : State) (tx : Tx) : (s.offer tx).line.endedAt = s.line.endedAt := by
  unfold State.offer State.enqueue
  by_cases folds : foldsInto tx s.line.queue = true
  · rw [if_pos folds]
    exact s.loadFlight_endedAt
  · rw [if_neg folds]
    by_cases room : s.line.queue.length < Config.transmitCap
    · rw [if_pos room]
      exact State.loadFlight_endedAt _
    · rw [if_neg room]
      exact s.holdBack_endedAt tx

/-- A claim that ends before it was HELD changes the claims and the desk line alone, but for the station's state and the line's last rise. -/
theorem claimEnds_form {x w : State} (h : ClaimEndsUnheld x w) :
    w = { x with claims := w.claims, line := w.line } ∧ w.claims.station = x.claims.station
      ∧ w.line.endedAt = x.line.endedAt := by
  obtain ⟨-, rfl⟩ | ⟨o, -, how⟩ := h
  · exact ⟨rfl, rfl, rfl⟩
  obtain ⟨-, rfl⟩ | ⟨b, c, -, -, how⟩ := how
  · exact ⟨rfl, rfl, rfl⟩
  obtain ⟨-, y, stopped, rfl⟩ | ⟨-, f, since, -, -, -, -, -, rfl⟩ | ⟨-, rfl⟩ := how
  · refine ⟨rfl, rfl, ?_⟩
    obtain ⟨-, -, -, ⟨_, _, _, -, -, -, -, rfl⟩ | ⟨_, -, -, -, -, -, next⟩⟩ := stopped
    · rfl
    · obtain ⟨-, rfl⟩ | ⟨_, _, -, rfl⟩ := next
      · rfl
      · unfold broughtIntoFlight
        split <;> rfl
  · exact ⟨rfl, rfl, rfl⟩
  · rw [State.offerRelease, State.offer_line]
    exact ⟨rfl, rfl, State.offer_endedAt _ _⟩

/-! ## The line goes low and rises (R20, R21, R23) -/

/-- No first try begins on a line that rose this moment (R21). -/
theorem State.tryNow_risen (h : s.line.endedAt = s.time.now) : s.tryNow = s :=
  State.tryNow_waits s (.inl (State.lineQuiet_now s h))

theorem exec_startSymbolTaken (s : State) :
    (s.line.busy = false →
      exec .startSymbolTaken s = .next
        { s with line := { s.line with busy := true, startedAt := max s.time.now (s.line.endedAt + 80) } })
    ∧ (s.line.busy = true → exec .startSymbolTaken s = .next s) := by
  refine ⟨fun free => if_neg (by simp [free]), fun busy => if_pos busy⟩

theorem exec_receptionAbandoned (s : State) :
    (s.onLine = false →
      exec .receptionAbandoned s = .next { s with line := { s.line with busy := false, endedAt := s.time.now } })
    ∧ (s.onLine = true → exec .receptionAbandoned s = .next s) :=
  ⟨fun off => congrArg Host.Outcome.next (if_neg (by simp [off])), fun on => congrArg Host.Outcome.next (if_pos on)⟩

/-- NOTICE_RECEIVED on a line that is busy with another station's notice (R19, R33). -/
theorem exec_noticeReceived {bytes : List Byte} (ten : bytes.length = 10) (hears : s.Hears) :
    exec (.noticeReceived bytes) s = .next (s.afterNotice.takeNotice bytes).pump := by
  obtain ⟨busy, off⟩ := hears
  have formed : (Instr.noticeReceived bytes).wellFormed = true := by simp [Instr.wellFormed, ten]
  have heard : ((if s.line.busy then s.passTo (s.line.startedAt + Config.noticeQuanta) else s).activityEnds) = s.afterNotice := by
    rw [if_pos busy, State.activityEnds, if_neg (by exact fun on => by cases off.symm.trans on), State.passTo_now]
    rfl
  simp only [exec, execNoticeReceived, Sys2Proof.Machine.formed, formed, heard, if_true]

/-! ## A clash (R35 to R37) -/

/-- The orders that end from a queue are found in the sequencer, and their records in the tickets and the clock. -/
theorem queueEnded_congr (seq : t.seq = s.seq) (tickets : t.tickets = s.tickets) (time : t.time = s.time)
    (goes : QueuedOrder → Bool) (status : Order → EndStatus) (failing : Option Nat) :
    queueEnded t goes (fun o => queuedRecord t o (status o) failing)
      = queueEnded s goes (fun o => queuedRecord s o (status o) failing) := by
  unfold queueEnded queuedRecord
  rw [seq, tickets, time]

/-- Every order of the queue that is to end ends (R115, R129, R133, R194). -/
theorem State.foldl_queueEnded {f : State → Nat → State} {goes : QueuedOrder → Bool} {status : Order → EndStatus}
    {failing : Option Nat} (waits : ∀ q, goes q = true → q.waiting = none)
    (ends : ∀ (seq : Sequencer) (before after : List QueuedOrder) (q : QueuedOrder),
      seq.queue = before ++ q :: after → (tagsOf (before ++ q :: after)).Nodup → q.waiting = none →
      f (s.setSeq seq) q.order.tag = (s.setSeq seq).endQueued q.order.tag (status q.order) failing)
    (nodup : (tagsOf s.seq.queue).Nodup) :
    (tagsOf (s.seq.queue.filter goes)).foldl f s
      = s.setSeq (queueEnded s goes (fun o => queuedRecord s o (status o) failing)) :=
  State.foldl_endQueued waits ends s.seq.queue [] s.seq rfl nodup

/-- The station enters ISOLATED: its queued orders have ended, and its claim and its job in ACCESS end (R36, R62, R129). -/
theorem State.isolate_eq (nodup : (tagsOf s.seq.queue).Nodup) :
    s.isolate
      = (let x := (s.setClaims { s.claims with station := .isolated, joinUntil := none }).setSeq (queueIsolated s)
         let y := match x.accessSlot with
           | some id => x.endAccess id .stationIsolated (some 1)
           | none => x.endOpening
         y.tryNow) := by
  unfold State.isolate
  have ended := State.foldl_queueEnded (s := s.setClaims { s.claims with station := .isolated, joinUntil := none })
    (f := fun s t => s.endQueued t .stationIsolated (some 1)) (goes := fun q => q.waiting.isNone)
    (status := fun _ => .stationIsolated) (failing := some 1) (fun q h => Option.isNone_iff_eq_none.mp h)
    (fun _ _ _ _ _ _ _ => rfl) nodup
  rw [queueEnded_congr (s := s) (by rfl) (by rfl) (by rfl)] at ended
  exact congrArg (fun x : State => (match x.accessSlot with
    | some id => x.endAccess id .stationIsolated (some 1)
    | none => x.endOpening).tryNow) ended

/-- Where the chain stands as it stood, nothing is granted still. -/
theorem State.pump_alike (h : s.NothingToGrant) (chain : t.chain = s.chain) : t.pump = t := by
  apply State.pump_nothing
  unfold State.NothingToGrant
  rw [chain]
  exact h

/-- The clash of a station that is neither in power-on, nor resetting, nor ISOLATED (R35, R36). -/
theorem State.clash_isolates {k : NoticeKind}
    (station : s.claims.station = .starting ∨ s.claims.station = .joining ∨ s.claims.station = .active) :
    s.clash k = (s.capture (.stationClash k)).isolate := by
  unfold State.clash
  rcases station with h | h | h <;> rw [h]

/-- A job in ACCESS that ends with its claim (R46, R128, R129). -/
theorem State.endAccess_eq {id : SlotId} {j : Job} {w : State} (ends : s.endOpening = w) (h : w.slot id = .job j)
    (status : EndStatus) (failing : Option Nat) :
    s.endAccess id status failing
      = (w.setSlot id (.job { j with status := some status, failing := failing })).endJob id := by
  rw [State.endAccess, ends, State.updateJob_job h]

/-- A desk job in ACCESS that ends with its claim leaves its record (R128, R132). -/
theorem State.endAccess_desk {id : SlotId} {j : Job} {w : State} (ends : s.endOpening = w) (h : w.slot id = .job j)
    (desk : j.sweep = none) (station : w.claims.station ≠ .resetting) (stands : SlotsStand w id)
    (status : EndStatus) (failing : Option Nat) :
    s.endAccess id status failing = w.setSeq (orderEndedIn id w j status failing) := by
  have still : SlotsStand (w.setSlot id (.job { j with status := some status, failing := failing })) id := by
    refine ⟨fun a => ?_, fun a => ?_⟩
    · subst a
      exact stands.1 rfl
    · subst a
      exact stands.2 rfl
  rw [State.endAccess_eq ends h,
    State.endJob_desk (j := { j with status := some status, failing := failing }) (by simp) desk (by cases id <;> exact station)
      still, orderEndedIn_setSlot, State.setSlot_eq, State.setSeq_setSeq]
  rfl

/-- A sweep job in ACCESS that ends with its claim hands its outcome over (R116, R129). -/
theorem State.endAccess_sweep {id : SlotId} {j : Job} {info : SweepInfo} {w : State} (ends : s.endOpening = w)
    (h : w.slot id = .job j) (sweep : j.sweep = some info) (station : w.claims.station ≠ .resetting)
    (stands : SlotsStand w id) (status : EndStatus) (failing : Option Nat) :
    s.endAccess id status failing = (w.setSlot id .empty).sweepOutcome info j.order.line j.verdict status := by
  have still : SlotsStand (w.setSlot id (.job { j with status := some status, failing := failing })) id := by
    refine ⟨fun a => ?_, fun a => ?_⟩
    · subst a
      exact stands.1 rfl
    · subst a
      exact stands.2 rfl
  rw [State.endAccess_eq ends h,
    State.endJob_sweep (j := { j with status := some status, failing := failing }) (by simp) sweep
      (by cases id <;> exact station) still, State.setSlot_setSlot]
  rfl

/-- A clash of a station at work: it is captured, the queued orders and the claim end, and the job in ACCESS with them (R36, R62, R129). -/
theorem clash_ends {k : NoticeKind} {x w : State}
    (station : s.claims.station = .starting ∨ s.claims.station = .joining ∨ s.claims.station = .active)
    (nodup : (tagsOf s.seq.queue).Nodup) (risen : s.line.endedAt = s.time.now)
    (hx : x = { s.capture (.stationClash k) with
      claims := { s.claims with station := .isolated, joinUntil := none }, seq := queueIsolated s })
    (ends : ClaimEndsUnheld x w) :
    (s.accessSlot = none → s.clash k = w)
    ∧ (∀ j, s.seq.active = .job j → j.phase = .access → s.seq.staged = .empty →
      (j.sweep = none → s.clash k = { w with seq := orderEnded w j .stationIsolated (some 1) })
      ∧ (∀ info, j.sweep = some info →
        s.clash k = { w with seq := { w.seq with active := .empty } }.sweepOutcome info j.order.line j.verdict
          .stationIsolated)) := by
  have opened := State.endOpening_ends ends
  obtain ⟨form, wStation, wEnded⟩ := claimEnds_form ends
  have wSeq : w.seq = queueIsolated s := by rw [form, hx]
  have wTime : w.time = s.time := by rw [form, hx]; exact s.capture_time _
  have wRisen : w.line.endedAt = w.time.now := by rw [wEnded, wTime, hx, ← risen]; simp
  have wIsolated : w.claims.station ≠ .resetting := by rw [wStation, hx]; simp
  have slots : x.accessSlot = s.accessSlot := by rw [hx]; rfl
  have isolated : s.clash k = (match x.accessSlot with
      | some id => x.endAccess id .stationIsolated (some 1)
      | none => x.endOpening).tryNow := by
    have same : queueIsolated (s.capture (.stationClash k)) = queueIsolated s :=
      queueEnded_congr (by simp) (by simp) (by simp) _ _ _
    have here : ((s.capture (.stationClash k)).setClaims
        { (s.capture (.stationClash k)).claims with station := .isolated, joinUntil := none }).setSeq
        (queueIsolated (s.capture (.stationClash k))) = x := by
      rw [hx, same, State.capture_claims]
      rfl
    rw [State.clash_isolates station, State.isolate_eq (by simpa using nodup)]
    dsimp only
    rw [here]
  refine ⟨fun none_ => ?_, fun j active access staged => ?_⟩
  · rw [isolated, slots, none_]
    dsimp only
    rw [opened, State.tryNow_risen wRisen]
  have found : x.accessSlot = some .active := by
    rw [slots]
    simp [State.accessSlot, State.findSlot, Slot.job?, active, access]
  have wActive : w.slot .active = .job j := by
    change w.seq.active = .job j
    rw [wSeq]
    exact active
  have stands : SlotsStand w .active := ⟨fun _ => by rw [wSeq]; exact staged, fun h => by cases h⟩
  refine ⟨fun desk => ?_, fun info sweep => ?_⟩
  · rw [isolated, found]
    dsimp only
    rw [State.endAccess_desk opened wActive desk wIsolated stands, State.tryNow_risen (by exact wRisen)]
    rfl
  · rw [isolated, found]
    dsimp only
    have moved := (State.SweepMoved.refl (w.setSlot .active .empty)).sweepOutcome info j.order.line j.verdict .stationIsolated
    rw [State.endAccess_sweep opened wActive sweep wIsolated stands, State.tryNow_risen]
    · rfl
    · rw [moved.line, moved.time]
      exact wRisen

/-- Settles O24, by what the ten bytes of a heard notice come to. -/
theorem receptionsBadNoticesAndClashes : Obligations.ReceptionsBadNoticesAndClashes := by
  refine ⟨fun s => ?_, fun s bytes ten hears idle => ?_⟩
  · obtain ⟨goesLow, stays⟩ := exec_startSymbolTaken s
    obtain ⟨rises, ours⟩ := exec_receptionAbandoned s
    exact ⟨goesLow, stays, rises, ours⟩
  rw [exec_noticeReceived ten hears]
  have grants (t : State) (chain : t.chain = s.afterNotice.chain) : t.pump = t := State.pump_alike (by exact idle) chain
  refine ⟨fun differs => ?_, fun agrees senseless => ?_, fun n agrees reads ours => ?_⟩
  · rw [State.takeNotice, if_pos (by simp [differs]), grants _ (by simp)]
  · rw [State.takeNotice, if_neg (by simp [agrees]), senseless]
    dsimp only
    rw [grants _ (by simp)]
  have clashes : s.afterNotice.takeNotice bytes = s.afterNotice.clash n.kind := by
    rw [State.takeNotice, if_neg (by simp [agrees]), reads]
    exact if_pos ours
  rw [clashes]
  refine ⟨fun isolated => ?_, fun resetting unmarked => ?_, fun station nodup x w hx ends => ?_⟩
  · have quiet : s.afterNotice.clash n.kind = s.afterNotice := by
      unfold State.clash
      rw [show s.afterNotice.claims.station = .isolated from isolated]
    rw [quiet, grants _ rfl]
  · have marked : s.afterNotice.clash n.kind
        = s.afterNotice.setClaims { s.claims with clashMark := some n.kind } := by
      unfold State.clash
      rw [show s.afterNotice.claims.station = .resetting from resetting]
      change s.afterNotice.setClaims { s.claims with clashMark := some (s.claims.clashMark.getD n.kind) } = _
      rw [unmarked]
      rfl
    rw [marked, grants _ (by rfl)]
    rfl
  · have risen : s.afterNotice.line.endedAt = s.afterNotice.time.now := by
      change max s.time.now (s.line.startedAt + 500) = (s.passTo (s.line.startedAt + 500)).time.now
      rw [State.passTo_now]
    obtain ⟨free, job⟩ := clash_ends (s := s.afterNotice) station nodup risen hx ends
    have chain : w.chain = s.afterNotice.chain := by
      rw [(claimEnds_form ends).1, hx]
      exact s.afterNotice.capture_chain _
    refine ⟨fun none_ => ?_, fun j active access staged => ⟨fun desk => ?_, fun info sweep => ?_⟩⟩
    · rw [free none_, grants _ chain]
    · rw [(job j active access staged).1 desk, grants _ (by exact chain)]
    · rw [(job j active access staged).2 info sweep, grants]
      exact ((State.SweepMoved.refl _).sweepOutcome info _ _ _).chain.trans chain

end Sys2Proof.Machine

/-! SUPPORT. Offered notices, assertions and freed places (O25). -/

namespace Sys2Proof.Machine

variable {s t : State}

/-! ## Offers (R21, R27, R29, R30) -/

theorem State.offer_folds {tx : Tx} (folds : foldsInto tx s.line.queue = true) : s.offer tx = s.loadFlight := by
  unfold State.offer State.enqueue
  rw [if_pos folds]

theorem State.offer_enters {tx : Tx} (apart : foldsInto tx s.line.queue = false) (room : s.line.queue.length < 16) :
    s.offer tx = (s.setLine { s.line with queue := s.line.queue ++ [tx] }).loadFlight := by
  unfold State.offer State.enqueue
  rw [if_neg (by simp [apart]), if_pos (by exact room)]

theorem State.offer_refused {tx : Tx} (apart : foldsInto tx s.line.queue = false) (full : 16 ≤ s.line.queue.length) :
    s.offer tx = s.holdBack tx := by
  unfold State.offer State.enqueue
  rw [if_neg (by simp [apart]), if_neg (by simp [Config.transmitCap]; omega)]

/-- Only a renewal HOLD folds into another notice (R29). -/
theorem foldsInto_other {tx : Tx} {among : List Tx} (h : ∀ u p, tx.notice ≠ .hold u p false) : foldsInto tx among = false := by
  unfold foldsInto
  split
  · rename_i holds
    exact absurd holds (h _ _)
  · rfl

/-- On an idle transmitter a notice comes into flight at once (R21, R27). -/
theorem State.loadFlight_first {tx : Tx} (flight : s.line.flight = none) (queue : s.line.queue = []) :
    (s.setLine { s.line with queue := [tx] }).loadFlight = s.setLine (broughtIntoFlight s tx) := by
  rw [State.loadFlight_takes (by exact flight) (by rfl), State.setLine_setLine]
  refine congrArg s.setLine ?_
  unfold broughtIntoFlight
  by_cases sends : SendsNow s
  · rw [if_pos sends, if_pos (by exact sends), ← queue]
    rfl
  · rw [if_neg sends, if_neg (by exact sends), ← queue]
    rfl

/-- A notice that is neither a VERDICT nor a TICKET is kept by the Claim Manager (R30). -/
theorem State.holdBack_claims {tx : Tx} (h : (∃ p, tx.notice = .release p) ∨ (∃ u p, tx.notice = .hold u p false)
      ∨ tx.notice = .announce) :
    s.holdBack tx = if foldsInto tx s.line.heldClaims then s
      else s.setLine { s.line with heldClaims := s.line.heldClaims ++ [tx] } := by
  unfold State.holdBack
  obtain ⟨p, h⟩ | ⟨u, p, h⟩ | h := h <;> rw [h]

/-- The clauses of O25 on an offered notice. -/
theorem offer_clauses (s : State) (tx : Tx) :
    (foldsInto tx s.line.queue = true → s.line.flight.isSome = true → s.offer tx = s)
    ∧ (foldsInto tx s.line.queue = false → s.line.flight.isSome = true → s.line.queue.length < 16 →
        s.offer tx = { s with line := { s.line with queue := s.line.queue ++ [tx] } })
    ∧ (s.line.flight = none → s.line.queue = [] → s.offer tx = { s with line := broughtIntoFlight s tx })
    ∧ (16 ≤ s.line.queue.length → ∀ l v k, tx.notice = .verdict l v k →
        s.offer tx = { s with line := { s.line with heldVerdicts := s.line.heldVerdicts ++ [tx] } })
    ∧ (16 ≤ s.line.queue.length → ∀ i l st v, tx.notice = .ticket i l st v →
        s.offer tx = { s with line := { s.line with heldTickets := s.line.heldTickets ++ [tx] } })
    ∧ (16 ≤ s.line.queue.length → foldsInto tx s.line.queue = false →
        ((∃ p, tx.notice = .release p) ∨ (∃ u p, tx.notice = .hold u p false) ∨ tx.notice = .announce) →
      (foldsInto tx s.line.heldClaims = false →
        s.offer tx = { s with line := { s.line with heldClaims := s.line.heldClaims ++ [tx] } })
      ∧ (foldsInto tx s.line.heldClaims = true → s.offer tx = s)) := by
  refine ⟨fun folds flies => ?_, fun apart flies room => ?_, fun flight queue => ?_, fun full l v k verdict => ?_,
    fun full i l st v ticket => ?_, fun full apart kind => ⟨fun alone => ?_, fun kept => ?_⟩⟩
  · rw [State.offer_folds folds, State.loadFlight_stands (.inl flies)]
  · rw [State.offer_enters apart room, State.loadFlight_stands (by exact .inl flies)]
    rfl
  · rw [State.offer_enters (by rw [queue]; unfold foldsInto; split <;> rfl) (by rw [queue]; decide), queue]
    exact State.loadFlight_first flight queue
  · rw [State.offer_refused (foldsInto_other (by simp [verdict])) full, State.holdBack, verdict]
    rfl
  · rw [State.offer_refused (foldsInto_other (by simp [ticket])) full, State.holdBack, ticket]
    rfl
  · rw [State.offer_refused apart full, State.holdBack_claims kind, if_neg (by simp [alone])]
    rfl
  · rw [State.offer_refused apart full, State.holdBack_claims kind, if_pos kept]

/-! ## Assertions (R28) -/

theorem Tx.asserts_iff {x : Tx} : x.asserts = true ↔ ∃ v q, x.notice = .hold v q true := by
  unfold Tx.asserts
  split
  · rename_i v q m h
    simp [h]
  · rename_i h
    simpa using fun v q e => h v q true e

theorem Tx.holdsPair_iff {x : Tx} {p : Pair} : x.holdsPair p = true ↔ ∃ v m, x.notice = .hold v p m := by
  unfold Tx.holdsPair
  split
  · rename_i v q m h
    simp [h]
  · rename_i h
    simpa using fun v m e => h v p m e

/-- A queue as R28 orders it: asserting HOLDs for other pairs, and behind them no asserting HOLD. -/
structure AssertsAhead (p : Pair) (ahead rest : List Tx) : Prop where
  ahead : ∀ x ∈ ahead, ∃ v q, x.notice = .hold v q true ∧ q ≠ p
  rest : ∀ x ∈ rest, ∀ v q, x.notice ≠ .hold v q true

namespace AssertsAhead

variable {p : Pair} {ahead rest : List Tx}

theorem asserts (h : AssertsAhead p ahead rest) : ∀ x ∈ ahead, x.asserts = true := fun x hx => by
  obtain ⟨v, q, notice, -⟩ := h.ahead x hx
  exact Tx.asserts_iff.mpr ⟨v, q, notice⟩

theorem plain (h : AssertsAhead p ahead rest) : ∀ x ∈ rest, x.asserts = false := fun x hx => by
  rw [Bool.eq_false_iff, ne_eq, Tx.asserts_iff]
  rintro ⟨v, q, notice⟩
  exact h.rest x hx v q notice

theorem otherPairs (h : AssertsAhead p ahead rest) : ∀ x ∈ ahead, x.holdsPair p = false := fun x hx => by
  obtain ⟨v, q, notice, other⟩ := h.ahead x hx
  rw [Bool.eq_false_iff, ne_eq, Tx.holdsPair_iff]
  rintro ⟨v', m, notice'⟩
  rw [notice] at notice'
  cases notice'
  exact other rfl

/-- No assertion for the pair is queued. -/
theorem none_queued (h : AssertsAhead p ahead rest) : (ahead ++ rest).any (fun t => t.asserts && t.holdsPair p) = false := by
  rw [List.any_eq_false]
  intro x hx
  rcases List.mem_append.mp hx with hx | hx
  · simp [h.otherPairs x hx]
  · simp [h.plain x hx]

/-- The pair's renewal gives way (R29). -/
theorem renewal_leaves (h : AssertsAhead p ahead rest) :
    (ahead ++ rest).filter (fun t => !(t.holdsPair p && !t.asserts)) = ahead ++ rest.filter (fun x => !x.holdsPair p) := by
  rw [List.filter_append, List.filter_eq_self.mpr]
  · refine congrArg (ahead ++ ·) (List.filter_congr fun x hx => ?_)
    simp [h.plain x hx]
  · intro x hx
    simp [h.otherPairs x hx]

theorem filter (h : AssertsAhead p ahead rest) (q : Tx → Bool) : AssertsAhead p ahead (rest.filter q) :=
  ⟨h.ahead, fun x hx => h.rest x (List.mem_filter.mp hx).1⟩

/-- An assertion goes behind the assertions queued and ahead of the rest (R28). -/
theorem insertAssert (h : AssertsAhead p ahead rest) (tx : Tx) :
    Sys2Proof.Machine.insertAssert tx (ahead ++ rest) = ahead ++ tx :: rest := by
  have stops : rest.takeWhile Tx.asserts = [] ∧ rest.dropWhile Tx.asserts = rest := by
    cases rest with
    | nil => exact ⟨rfl, rfl⟩
    | cons x xs =>
      have plain := h.plain x List.mem_cons_self
      exact ⟨List.takeWhile_cons_of_neg (by simp [plain]), List.dropWhile_cons_of_neg (by simp [plain])⟩
  unfold Sys2Proof.Machine.insertAssert
  rw [List.takeWhile_append_of_pos h.asserts, List.dropWhile_append_of_pos h.asserts, stops.1, stops.2, List.append_nil]

end AssertsAhead

/-- A full queue pushes out its last notice, where that is no assertion (R28). -/
theorem pushOut_last {before : List Tx} {y : Tx} (plain : y.asserts = false) : pushOut (before ++ [y]) = some (y, before) := by
  unfold pushOut
  simp [plain]

/-- An assertion that finds no other for its pair queued, and room (R28). -/
theorem State.assertHold_room {u : Urgency} {p : Pair} {ahead rest : List Tx} (queue : s.line.queue = ahead ++ rest)
    (h : AssertsAhead p ahead rest) (room : (ahead ++ rest.filter (fun x => !x.holdsPair p)).length < 16) :
    s.assertHold u p
      = (s.setLine
          { s.line with
            queue :=
              ahead ++ { notice := .hold u p true, tag := .plain } :: rest.filter (fun x => !x.holdsPair p) }).loadFlight := by
  unfold State.assertHold
  dsimp only
  rw [queue, if_neg (by rw [h.none_queued]; decide), h.renewal_leaves, (h.filter _).insertAssert]
  exact if_pos room

/-- An assertion that finds no other for its pair queued, and a full queue (R28). -/
theorem State.assertHold_full {u : Urgency} {p : Pair} {ahead rest q : List Tx} {out : Tx} (queue : s.line.queue = ahead ++ rest)
    (h : AssertsAhead p ahead rest) (full : 16 ≤ (ahead ++ rest.filter (fun x => !x.holdsPair p)).length)
    (pushes : pushOut (ahead ++ rest.filter (fun x => !x.holdsPair p)) = some (out, q)) :
    s.assertHold u p
      = (s.setLine { s.line with queue := insertAssert { notice := .hold u p true, tag := .plain } q }).pushedOut out := by
  unfold State.assertHold
  dsimp only
  rw [queue, if_neg (by rw [h.none_queued]; decide), h.renewal_leaves, if_neg (by simp only [Config.transmitCap]; omega), pushes]

theorem State.pushedOut_claim {y : Tx} {v : Urgency} {q : Pair} (claim : y.notice = .claim v q) :
    s.pushedOut y
      = if v = .routine then s.loseClaim
        else (s.setLine { s.line with heldClaims := y :: s.line.heldClaims }).loseClaim := by
  unfold State.pushedOut State.handBack
  rw [claim]

/-- A pushed-out RELEASE, HOLD or ANNOUNCE is handed back to the Claim Manager (R28). -/
theorem State.pushedOut_claims {y : Tx} (h : (∃ q, y.notice = .release q) ∨ (∃ v q m, y.notice = .hold v q m)
      ∨ y.notice = .announce) :
    s.pushedOut y = s.setLine { s.line with heldClaims := y :: s.line.heldClaims } := by
  unfold State.pushedOut State.handBack
  obtain ⟨q, h⟩ | ⟨v, q, m, h⟩ | h := h <;> rw [h]

/-- The clauses of O25 on an asserting HOLD. -/
theorem assert_clauses (s : State) (u : Urgency) (p : Pair) (tx : Tx) (htx : tx = { notice := .hold u p true, tag := .plain }) :
    ((∃ x ∈ s.line.queue, ∃ v, x.notice = .hold v p true) → s.assertHold u p = s)
    ∧ (s.line.flight = none → s.line.queue = [] → s.assertHold u p = { s with line := broughtIntoFlight s tx })
    ∧ ∀ ahead rest kept : List Tx, s.line.queue = ahead ++ rest →
      (∀ x ∈ ahead, ∃ v q, x.notice = .hold v q true ∧ q ≠ p) → (∀ x ∈ rest, ∀ v q, x.notice ≠ .hold v q true) →
      kept = rest.filter (fun x => !x.holdsPair p) →
      ((ahead ++ kept).length < 16 → s.line.flight.isSome = true →
        s.assertHold u p = { s with line := { s.line with queue := ahead ++ tx :: kept } })
      ∧ (∀ (mid : List Tx) (y : Tx) (x : DeskLine), 16 ≤ (ahead ++ kept).length → kept = mid ++ [y] →
          x = { s.line with queue := ahead ++ tx :: mid } →
        (∀ l v k, y.notice = .verdict l v k →
          s.assertHold u p = { s with line := { x with heldVerdicts := y :: s.line.heldVerdicts } })
        ∧ (∀ i l st v, y.notice = .ticket i l st v →
          s.assertHold u p = { s with line := { x with heldTickets := y :: s.line.heldTickets } })
        ∧ (((∃ q, y.notice = .release q) ∨ (∃ v q m, y.notice = .hold v q m) ∨ y.notice = .announce) →
          s.assertHold u p = { s with line := { x with heldClaims := y :: s.line.heldClaims } })
        ∧ (∀ (v : Urgency) (q : Pair) (o : Opening) (c : OwnClaim), y.notice = .claim v q → s.claims.opening = some o →
            o.placed = some q.bus → o.urgency = v → s.entryAt q.bus = .own c →
          (v ≠ .routine →
            s.assertHold u p =
              { s with
                line := { x with heldClaims := y :: s.line.heldClaims }
                claims := claimLost s.claims o q.bus c })
          ∧ (∀ j info d, v = .routine → SweepInAccess s j info d →
            s.assertHold u p = sweepLost { s with line := x, claims := claimEnded s.claims q.bus c }))) := by
  subst htx
  refine ⟨fun ⟨x, queued, v, notice⟩ => ?_, fun flight queue => ?_, fun ahead rest kept queue first others hkept =>
    ⟨fun room flies => ?_, fun mid y x full last hx => ?_⟩⟩
  · unfold State.assertHold
    refine if_pos (List.any_eq_true.mpr ⟨x, queued, ?_⟩)
    rw [Tx.asserts_iff.mpr ⟨v, p, notice⟩, Tx.holdsPair_iff.mpr ⟨v, true, notice⟩]
    rfl
  · rw [State.assertHold_room (ahead := []) (rest := []) queue ⟨by simp, by simp⟩ (by simp)]
    exact State.loadFlight_first flight queue
  · rw [State.assertHold_room queue ⟨first, others⟩ (by rw [← hkept]; exact room), ← hkept, State.loadFlight_stands (by exact .inl flies)]
    rfl
  · have ordered : AssertsAhead p ahead rest := ⟨first, others⟩
    have orderedMid : AssertsAhead p ahead mid := by
      have := ordered.filter (fun x => !x.holdsPair p)
      rw [← hkept, last] at this
      exact ⟨first, fun z hz => this.rest z (List.mem_append_left _ hz)⟩
    have plain : y.asserts = false := by
      refine (ordered.filter (fun x => !x.holdsPair p)).plain y ?_
      rw [← hkept, last]
      simp
    have pushes : s.assertHold u p = (s.setLine x).pushedOut y := by
      rw [State.assertHold_full queue ordered (by rw [← hkept]; exact full)
        (by rw [← hkept, last, ← List.append_assoc]; exact pushOut_last plain), orderedMid.insertAssert, hx]
    rw [pushes]
    refine ⟨fun l v k verdict => ?_, fun i l st v ticket => ?_, fun kind => ?_, fun v q o c claim opening placed urgency entry =>
      ⟨fun desk => ?_, fun j info d routine sweeps => ?_⟩⟩
    · rw [State.pushedOut, verdict, State.handBack, verdict, hx]
      rfl
    · rw [State.pushedOut, ticket, State.handBack, ticket, hx]
      rfl
    · rw [State.pushedOut_claims kind, hx]
      rfl
    · rw [State.pushedOut_claim claim, if_neg desk,
        State.loseClaim_waits (by exact opening) placed (by exact entry) (by rw [urgency]; exact desk), hx]
      rfl
    · rw [State.pushedOut_claim claim, if_pos routine,
        State.loseClaim_ends (by exact opening) placed (by exact entry) (by rw [urgency]; exact routine)
          (by exact (sweepInAccess_accessSlot sweeps : s.accessSlot = _)),
        sweepInAccess_endSweepJob (j := j) (info := info) (d := d) (by exact sweepInAccess_of_eq sweeps rfl rfl rfl)]
      rfl

/-! ## Places that free (R27, R30, R41) -/

theorem State.heldClaims_nil (h : s.holders = []) :
    s.line.heldClaims = [] ∧ s.line.heldVerdicts = [] ∧ s.line.heldTickets = [] := by
  unfold State.holders at h
  refine ⟨?_, ?_, ?_⟩
  · cases e : s.line.heldClaims with
    | nil => rfl
    | cons => simp [e] at h
  · cases e : s.line.heldVerdicts with
    | nil => rfl
    | cons => simp [e] at h
  · cases e : s.line.heldTickets with
    | nil => rfl
    | cons => simp [e] at h

/-- No more is offered to a full queue, or with nothing held back (R30). -/
theorem State.refill_stops (h : 16 ≤ s.line.queue.length ∨ s.holders = []) (k : Nat) : State.refill k s = s := by
  cases k with
  | zero => rfl
  | succ k =>
    unfold State.refill
    by_cases room : s.line.queue.length < Config.transmitCap
    · have none_ : s.holders = [] := h.resolve_left (by simp [Config.transmitCap] at room; omega)
      rw [if_pos room, none_]
      rfl
    · exact if_neg room

/-- The one block that holds notices back has its oldest offered (R30). -/
theorem State.refill_one {h : Holder} (room : s.line.queue.length < 16) (one : s.holders = [h]) (k : Nat) :
    State.refill (k + 1) s = State.refill k (s.reoffer h) := by
  rw [State.refill, if_pos (by exact room), one]
  rfl

/-- Of two blocks a free value takes one (R30, log 7). -/
theorem State.chooseHolder_two (s : State) (h h' : Holder) :
    s.chooseHolder [h, h'] = (s.setFree (s.free + 1), some h) ∨ s.chooseHolder [h, h'] = (s.setFree (s.free + 1), some h') := by
  unfold State.chooseHolder
  dsimp only
  split
  · exact .inl rfl
  · exact .inr rfl

/-- Of two blocks that hold notices back either may have its oldest offered (R30, log 7). -/
theorem State.refill_two {h h' : Holder} (room : s.line.queue.length < 16) (two : s.holders = [h, h']) (k : Nat) :
    ∃ free, State.refill (k + 1) s = State.refill k ((s.setFree free).reoffer h)
      ∨ State.refill (k + 1) s = State.refill k ((s.setFree free).reoffer h') := by
  refine ⟨s.free + 1, ?_⟩
  rw [State.refill, if_pos (by exact room), two]
  rcases s.chooseHolder_two h h' with chosen | chosen
  · left
    rw [chosen]
  · right
    rw [chosen]

/-- A freed place takes one notice held back, and no more follows (R27, R30). -/
theorem State.lineMoves_one {x r : State} {h : Holder} (load : s.loadFlight = x) (room : x.line.queue.length < 16)
    (one : x.holders = [h]) (next : x.reoffer h = r) (stops : 16 ≤ r.line.queue.length ∨ r.holders = [])
    (flies : r.line.flight.isSome = true) : s.lineMoves = r := by
  unfold State.lineMoves
  rw [load, State.refill_one room one, next, State.refill_stops stops, State.loadFlight_stands (.inl flies)]

/-- A VERDICT or a TICKET held back enters a queue with room (R27, R30). -/
theorem State.enqueue_enters {tx : Tx} (apart : foldsInto tx s.line.queue = false) (room : s.line.queue.length < 16) :
    (s.enqueue tx).1 = s.setLine { s.line with queue := s.line.queue ++ [tx] } := by
  unfold State.enqueue
  rw [if_neg (by simp [apart]), if_pos (by exact room)]

theorem State.reoffer_verdicts {v : Tx} {vs : List Tx} (held : s.line.heldVerdicts = v :: vs)
    (kind : ∃ l k m, v.notice = .verdict l k m) (room : s.line.queue.length < 16) :
    s.reoffer .verdicts = s.setLine { s.line with queue := s.line.queue ++ [v], heldVerdicts := vs } := by
  obtain ⟨l, k, m, kind⟩ := kind
  unfold State.reoffer
  rw [held]
  dsimp only
  rw [State.enqueue_enters (foldsInto_other (by simp [kind])) (by exact room)]
  rfl

theorem State.reoffer_tickets {k : Tx} {ks : List Tx} (held : s.line.heldTickets = k :: ks)
    (kind : ∃ i l st w, k.notice = .ticket i l st w) (room : s.line.queue.length < 16) :
    s.reoffer .tickets = s.setLine { s.line with queue := s.line.queue ++ [k], heldTickets := ks } := by
  obtain ⟨i, l, st, w, kind⟩ := kind
  unfold State.reoffer
  rw [held]
  dsimp only
  rw [State.enqueue_enters (foldsInto_other (by simp [kind])) (by exact room)]
  rfl

theorem State.reoffer_release {h : Tx} {hs : List Tx} (held : s.line.heldClaims = h :: hs)
    (kind : ∃ p, h.notice = .release p) (room : s.line.queue.length < 16) :
    s.reoffer .claims = s.setLine { s.line with queue := s.line.queue ++ [h], heldClaims := hs } := by
  obtain ⟨p, kind⟩ := kind
  unfold State.reoffer
  rw [held]
  dsimp only [State.reofferClaims]
  rw [kind]
  dsimp only
  rw [State.enqueue_enters (foldsInto_other (by simp [kind])) (by exact room)]
  rfl

/-! ## CLAIMs offered again (R41, R114, R116) -/

/-- A pair conflicts with an entry by its bus or its line (R38). -/
theorem conflicts_peer {p : Pair} {b : Nat} {c : PeerClaim} :
    conflicts p b (.peer c) = true ↔ p.bus = b ∨ p.line = c.line := by
  simp [conflicts, Entry.line]

theorem conflicts_own {p : Pair} {b : Nat} {c : OwnClaim} :
    conflicts p b (.own c) = true ↔ p.bus = b ∨ p.line = c.line := by
  simp [conflicts, Entry.line]

theorem firmConflict_peer {p : Pair} {b : Nat} {c : PeerClaim} :
    firmConflict p b (.peer c) = true ↔ (p.bus = b ∨ p.line = c.line) ∧ c.firm = true := by
  simp [firmConflict, conflicts_peer]

/-- What conflicts with a pair leaves the table (R41). -/
theorem withoutConflicts_eq (s : State) (p : Pair) : withoutConflicts p s.claims.entries = conflictsRemoved s p := by
  unfold withoutConflicts conflictsRemoved
  refine List.map_congr_left fun b _ => ?_
  unfold State.entryAt
  cases s.claims.entries.getD b .free with
  | free => rfl
  | own c => rfl
  | peer c =>
    dsimp only
    by_cases h : p.bus = b ∨ p.line = c.line
    · rw [if_pos h, if_pos]
      rw [conflicts_peer]
      exact h
    · rw [if_neg h, if_neg]
      rw [conflicts_peer]
      exact h

/-- The yields that a claim asks for (R41). -/
theorem awaitedOf_eq (s : State) (p : Pair) : awaitedOf p s.claims.entries = yieldsAsked s p := by
  unfold awaitedOf yieldsAsked
  refine List.filterMap_congr fun b _ => ?_
  unfold State.entryAt
  cases s.claims.entries.getD b .free with
  | free => rfl
  | own c => rfl
  | peer c =>
    dsimp only
    by_cases h : (p.bus = b ∨ p.line = c.line) ∧ c.firm = true
    · rw [if_pos h, if_pos]
      rw [firmConflict_peer]
      exact h
    · rw [if_neg h, if_neg]
      rw [firmConflict_peer]
      exact h

/-- A claim takes the pair of its CLAIM held back, if that is still free (R41). -/
theorem State.reoffer_claim_free {h : Tx} {hs : List Tx} {u : Urgency} {p : Pair} {o : Opening}
    (held : s.line.heldClaims = h :: hs) (claim : h.notice = .claim u p) (opening : s.claims.opening = some o)
    (waits : o.placed = none) (line : o.line = p.line) (urgency : o.urgency = u) (free : s.pairFree u p = true) :
    s.reoffer .claims
      = { claimTaken s p.line u o.pref p.bus with
          line := { s.line with queue := s.line.queue ++ [h], heldClaims := hs } } := by
  obtain ⟨oLine, oUrgency, oPref, oPlaced⟩ := o
  obtain rfl : oPlaced = none := waits
  obtain rfl : oLine = p.line := line
  obtain rfl : oUrgency = u := urgency
  unfold State.reoffer
  rw [held]
  dsimp only [State.reofferClaims]
  rw [claim]
  dsimp only [State.setLine_claims]
  rw [opening]
  dsimp only
  rw [if_pos ⟨rfl, by exact free⟩, State.takePair]
  dsimp only [State.setLine_claims]
  rw [withoutConflicts_eq, awaitedOf_eq]
  rfl

/-- A CLAIM held back whose pair is no longer free is discarded, and its claim is tested again (R41). -/
theorem State.reoffer_claim_taken {h : Tx} {hs : List Tx} {u : Urgency} {p : Pair} {o : Opening}
    (held : s.line.heldClaims = h :: hs) (claim : h.notice = .claim u p) (opening : s.claims.opening = some o)
    (line : o.line = p.line) (urgency : o.urgency = u) (taken : s.pairFree u p = false) :
    s.reoffer .claims = (s.setLine { s.line with heldClaims := hs }).claimAgain o := by
  subst urgency
  unfold State.reoffer
  rw [held]
  dsimp only [State.reofferClaims]
  rw [claim]
  dsimp only [State.setLine_claims]
  rw [opening]
  dsimp only
  rw [if_neg]
  rw [line]
  exact fun ⟨_, free⟩ => by cases taken.symm.trans (show s.pairFree o.urgency p = true from free)

/-- A notice entered in a queue with room, where none waits behind an idle transmitter (R27). -/
theorem State.enter_loadFlight (h : s.line.flight.isSome = true ∨ s.line.queue = []) (tx : Tx) :
    (s.setLine { s.line with queue := s.line.queue ++ [tx] }).loadFlight = s.setLine (noticeEntered s tx) := by
  unfold noticeEntered
  by_cases idle : s.line.flight = none
  · have queue : s.line.queue = [] := h.resolve_left (by simp [idle])
    rw [if_pos ⟨idle, queue⟩, queue]
    exact State.loadFlight_first idle queue
  · rw [if_neg fun k => idle k.1, State.loadFlight_stands (.inl (by exact Option.isSome_iff_ne_none.mpr idle))]

/-- The desk line stands aside from a change of the claims that leaves the station's state (R21, R27). -/
theorem State.loadFlight_setClaims {x : Claims} (station : x.station = s.claims.station) :
    (s.setClaims x).loadFlight = s.loadFlight.setClaims x := by
  rw [State.loadFlight_line, s.loadFlight_line, State.LineAlike.loadFlight (s := s) (t := s.setClaims x) ⟨rfl, rfl, station⟩]
  rfl

/-- The CLAIM of a free pair is offered: its claim takes the pair, or waits with its CLAIM held back (R41). -/
theorem State.offerClaim_eq {o : Opening} (opening : s.claims.opening = some o) (waits : o.placed = none)
    (h : s.line.flight.isSome = true ∨ s.line.queue = []) (b : Nat) :
    s.offerClaim o b
      = if s.line.queue.length < 16 then claimTaken s o.line o.urgency o.pref b
        else claimWaiting s o.line o.urgency o.pref
          [{ notice := .claim o.urgency { bus := b, line := o.line }, tag := .plain }] := by
  obtain ⟨oLine, oUrgency, oPref, oPlaced⟩ := o
  obtain rfl : oPlaced = none := waits
  unfold State.offerClaim
  by_cases room : s.line.queue.length < 16
  · dsimp only
    rw [if_pos (by exact room), if_pos room, State.takePair]
    dsimp only [State.setLine_claims]
    rw [State.loadFlight_setClaims (by rfl), State.enter_loadFlight h, withoutConflicts_eq, awaitedOf_eq]
    rfl
  · dsimp only
    rw [if_neg (by exact room), if_neg room, State.holdBack]
    dsimp only
    rw [if_neg (by simp [foldsInto]), claimWaiting, ← opening]
    rfl

/-- A claim tested with no CLAIM held back comes to what the statements of Chapter 3 have of it (R41). -/
theorem State.claimTest_tested {o : Opening} (opening : s.claims.opening = some o) (waits : o.placed = none)
    (noneHeld : s.line.heldClaims.any Tx.isClaim = false)
    (station : s.claims.station = .active ∨ s.candidate o.line o.urgency o.pref = none)
    (h : s.line.flight.isSome = true ∨ s.line.queue = []) :
    s.claimTest = claimTested s o.line o.urgency o.pref := by
  have waiting : claimWaiting s o.line o.urgency o.pref [] = s := by
    obtain ⟨oLine, oUrgency, oPref, oPlaced⟩ := o
    obtain rfl : oPlaced = none := waits
    rw [claimWaiting, ← opening, List.append_nil]
  unfold State.claimTest claimTested
  rw [opening]
  dsimp only
  cases candidate : s.candidate o.line o.urgency o.pref with
  | none => rw [ite_self, waiting]
  | some b =>
    have active := station.resolve_right (by simp [candidate])
    dsimp only
    rw [if_pos ⟨waits, active, by simp [noneHeld]⟩, State.offerClaim_eq opening waits h]

/-- How a claim for a line is refused (R114). -/
theorem State.notFreeStatus_eq (s : State) (line : Nat) :
    s.notFreeStatus line = if ∃ e ∈ s.claims.entries, e.line = some line then .lineBusy else .noBus := by
  unfold State.notFreeStatus State.lineInTable
  simp

/-- A sweep job's claim that finds no pair free ends with its job in ACCESS (R114, R116). -/
theorem State.refuseClaim_ends {id : SlotId} {j : Job} {info : SweepInfo} (access : s.accessSlot = some id)
    (h : s.slot id = .job j) (sweep : j.sweep = some info) (stands : SlotsStand s id) (line : Nat) :
    s.refuseClaim line
      = ((s.setClaims { s.claims with opening := none }).setSeq (slotFilled s.seq id .empty)).sweepOutcome info j.order.line
          j.verdict (if ∃ e ∈ s.claims.entries, e.line = some line then .lineBusy else .noBus) := by
  unfold State.refuseClaim
  have found : (s.setClaims { s.claims with opening := none }).accessSlot = some id := access
  dsimp only
  rw [found]
  dsimp only
  rw [State.endSweepJob_stands (by exact h) sweep (by exact stands), State.setSlot_eq, State.notFreeStatus_eq]
  rfl

/-- Who holds a notice back (R30). -/
theorem State.holders_eq (s : State) :
    (s.line.heldVerdicts = [] → s.line.heldTickets = [] → s.line.heldClaims ≠ [] → s.holders = [.claims])
      ∧ (s.line.heldClaims = [] → s.line.heldTickets = [] → s.line.heldVerdicts ≠ [] → s.holders = [.verdicts])
      ∧ (s.line.heldClaims = [] → s.line.heldVerdicts ≠ [] → s.line.heldTickets ≠ [] →
        s.holders = [.verdicts, .tickets])
      ∧ (s.line.heldClaims = [] → s.line.heldVerdicts = [] → s.line.heldTickets = [] → s.holders = []) := by
  refine ⟨fun v t c => ?_, fun c t v => ?_, fun c v t => ?_, fun c v t => ?_⟩ <;> simp [State.holders, c, v, t]

/-- A tested claim leaves no further place, or nothing held back (R30, R41). -/
theorem claimTested_stops (flies : s.line.flight.isSome = true) (almost : s.line.queue.length = 15)
    (held : s.line.heldClaims = [] ∧ s.line.heldVerdicts = [] ∧ s.line.heldTickets = []) (line : Nat) (u : Urgency)
    (pref : Option Nat) :
    (16 ≤ (claimTested s line u pref).line.queue.length ∨ (claimTested s line u pref).holders = [])
      ∧ (claimTested s line u pref).line.flight.isSome = true := by
  obtain ⟨claims, verdicts, tickets⟩ := held
  unfold claimTested
  cases s.candidate line u pref with
  | none =>
    refine ⟨.inr ?_, flies⟩
    simp [claimWaiting, State.holders, claims, verdicts, tickets]
  | some b =>
    dsimp only
    rw [if_pos (by omega), claimTaken, noticeEntered, if_neg fun h => by rw [h.1] at flies; cases flies]
    exact ⟨.inl (by simp [almost]), flies⟩

/-- The clauses of O25 on a place that frees. -/
theorem freed_clauses (s : State) (first : Tx) (rest : List Tx) (x : DeskLine) (flight : s.line.flight = none)
    (queue : s.line.queue = first :: rest) (hx : x = broughtIntoFlight s first) :
    (s.line.heldClaims = [] → s.line.heldVerdicts = [] → s.line.heldTickets = [] →
      s.lineMoves = { s with line := { x with queue := rest } })
    ∧ (rest.length = 15 →
    (∀ v vs, s.line.heldVerdicts = v :: vs → (∀ w ∈ s.line.heldVerdicts, ∃ l k m, w.notice = .verdict l k m) →
      (s.line.heldClaims = [] → s.line.heldTickets = [] →
        s.lineMoves = { s with line := { x with queue := rest ++ [v], heldVerdicts := vs } })
      ∧ (∀ k ks, s.line.heldClaims = [] → s.line.heldTickets = k :: ks →
          (∃ i l st w, k.notice = .ticket i l st w) →
        ∃ free,
          s.lineMoves = { s with free := free, line := { x with queue := rest ++ [v], heldVerdicts := vs } }
            ∨ s.lineMoves = { s with free := free, line := { x with queue := rest ++ [k], heldTickets := ks } }))
    ∧ (s.line.heldVerdicts = [] → s.line.heldTickets = [] → ∀ h hs, s.line.heldClaims = h :: hs →
      ((∃ p, h.notice = .release p) →
        s.lineMoves = { s with line := { x with queue := rest ++ [h], heldClaims := hs } })
      ∧ (∀ (u : Urgency) (p : Pair) (o : Opening), h.notice = .claim u p → s.claims.opening = some o → o.placed = none →
          o.line = p.line → o.urgency = u →
        (s.pairFree u p = true →
          s.lineMoves =
            { claimTaken s p.line u o.pref p.bus with
              line := { x with queue := rest ++ [h], heldClaims := hs } })
        ∧ (s.pairFree u p = false → hs = [] → (u ≠ .routine ∨ s.candidate p.line u o.pref ≠ none) →
            (s.claims.station = .active ∨ s.candidate p.line u o.pref = none) →
          s.lineMoves = claimTested { s with line := { x with queue := rest, heldClaims := [] } } p.line u o.pref)
        ∧ (∀ (id : SlotId) (j : Job) (info : SweepInfo), u = .routine → s.candidate p.line u o.pref = none →
            s.pairFree u p = false → hs = [] → s.accessSlot = some id → s.slot id = .job j → j.sweep = some info →
            SlotsStand s id →
          s.lineMoves =
            { s with
              line := { x with queue := rest, heldClaims := [] }
              claims := { s.claims with opening := none }
              seq := slotFilled s.seq id .empty }.sweepOutcome info j.order.line j.verdict
                (if ∃ e ∈ s.claims.entries, e.line = some p.line then .lineBusy else .noBus))))) := by
  have load : s.loadFlight = s.setLine { x with queue := rest } := by rw [State.loadFlight_takes flight queue, hx]
  have held : x.heldClaims = s.line.heldClaims ∧ x.heldVerdicts = s.line.heldVerdicts
      ∧ x.heldTickets = s.line.heldTickets ∧ x.flight.isSome = true := by
    rw [hx]
    unfold broughtIntoFlight
    split <;> exact ⟨rfl, rfl, rfl, rfl⟩
  obtain ⟨heldC, heldV, heldT, flies⟩ := held
  obtain ⟨claimsHold, verdictsHold, bothHold, noneHold⟩ := (s.setLine { x with queue := rest }).holders_eq
  have room (almost : rest.length = 15) : (s.setLine { x with queue := rest }).line.queue.length < 16 := by simp [almost]
  refine ⟨fun claims verdicts tickets => ?_, fun almost => ⟨fun v vs verdicts kinds => ⟨fun claims tickets => ?_,
    fun k ks claims tickets kind => ?_⟩, fun verdicts tickets h hs claims => ⟨fun kind => ?_, fun u p o claim opening waits line urgency =>
      ⟨fun free => ?_, fun taken only mayWait station => ?_, fun id j info routine nothing taken only access job sweep stands => ?_⟩⟩⟩⟩
  · rw [State.lineMoves_of_nothing_held s claims verdicts tickets, load]
    rfl
  · exact State.lineMoves_one load (room almost)
      (verdictsHold (heldC.trans claims) (heldT.trans tickets) (by simp [heldV, verdicts]))
      (State.reoffer_verdicts (heldV.trans verdicts) (kinds v (by simp [verdicts])) (room almost)) (.inl (by simp [almost])) flies
  · obtain ⟨free, taken⟩ := State.refill_two (room almost)
      (bothHold (heldC.trans claims) (by simp [heldV, verdicts]) (by simp [heldT, tickets])) (s.setLine { x with queue := rest }).heldCount
    refine ⟨free, taken.imp (fun taken => ?_) fun taken => ?_⟩
    · rw [State.lineMoves, load, taken,
        State.reoffer_verdicts (by exact heldV.trans verdicts) (kinds v (by simp [verdicts])) (by exact room almost),
        State.refill_stops (.inl (by simp [almost])), State.loadFlight_stands (.inl flies)]
      rfl
    · rw [State.lineMoves, load, taken, State.reoffer_tickets (by exact heldT.trans tickets) kind (by exact room almost),
        State.refill_stops (.inl (by simp [almost])), State.loadFlight_stands (.inl flies)]
      rfl
  · exact State.lineMoves_one load (room almost) (claimsHold (heldV.trans verdicts) (heldT.trans tickets) (by simp [heldC, claims]))
      (State.reoffer_release (heldC.trans claims) kind (room almost)) (.inl (by simp [almost])) flies
  · exact State.lineMoves_one load (room almost) (claimsHold (heldV.trans verdicts) (heldT.trans tickets) (by simp [heldC, claims]))
      (State.reoffer_claim_free (heldC.trans claims) claim opening waits line urgency free) (.inl (by simp [almost])) flies
  · subst only urgency
    have again : (s.setLine { x with queue := rest }).reoffer .claims
        = claimTested { s with line := { x with queue := rest, heldClaims := [] } } p.line o.urgency o.pref := by
      rw [State.reoffer_claim_taken (s := s.setLine { x with queue := rest }) (heldC.trans claims) claim opening line rfl taken,
        State.claimAgain_of_waits _ _ (mayWait.imp id fun k => by rw [line]; exact Option.isSome_iff_ne_none.mpr k),
        State.claimTest_tested (by exact opening) waits (by rfl) (by rw [line]; exact station) (by exact .inl flies), line]
      rfl
    refine State.lineMoves_one load (room almost) (claimsHold (heldV.trans verdicts) (heldT.trans tickets) (by simp [heldC, claims]))
      again ?_ ?_
    · exact (claimTested_stops flies almost ⟨rfl, heldV.trans verdicts, heldT.trans tickets⟩ _ _ _).1
    · exact (claimTested_stops flies almost ⟨rfl, heldV.trans verdicts, heldT.trans tickets⟩ _ _ _).2
  · subst only urgency
    have again := State.reoffer_claim_taken (s := s.setLine { x with queue := rest }) (heldC.trans claims) claim opening line rfl taken
    rw [State.claimAgain_of_notFree _ _ waits routine (by rw [line]; exact nothing),
      State.refuseClaim_ends (by exact access) (by exact job) sweep (by exact stands), line] at again
    have moved := (State.SweepMoved.refl (({ s with
      line := { x with queue := rest, heldClaims := [] }
      claims := { s.claims with opening := none }
      seq := slotFilled s.seq id .empty }))).sweepOutcome info j.order.line j.verdict
        (if ∃ e ∈ s.claims.entries, e.line = some p.line then .lineBusy else .noBus)
    refine State.lineMoves_one load (room almost) (claimsHold (heldV.trans verdicts) (heldT.trans tickets) (by simp [heldC, claims]))
      again ?_ ?_
    · right
      unfold State.holders
      rw [moved.line]
      simp [heldV, heldT, verdicts, tickets]
    · rw [moved.line]
      exact flies

/-- Settles O25, by what an offer, an assertion and a freed place make of the queue. -/
theorem offeredNoticesQueueInOrder : Obligations.OfferedNoticesQueueInOrder := by
  refine ⟨offer_clauses, fun s u p tx htx => assert_clauses s u p tx htx, fun s stands none_ => ?_,
    fun s first rest x flight queue hx => freed_clauses s first rest x flight queue hx⟩
  obtain ⟨claims, verdicts, tickets⟩ := State.heldClaims_nil none_
  exact State.lineMoves_stands claims verdicts tickets stands

end Sys2Proof.Machine

/-! SUPPORT. Free pairs and the bus a claim takes (O27). -/

namespace Sys2Proof.Machine

variable {s t : State}

/-- A test of every entry, bus by bus. -/
theorem allEntries_iff {f : Nat → Entry → Bool} {es : List Entry} :
    allEntries f es = true ↔ ∀ b < es.length, f b (es.getD b .free) = true := by
  simp [allEntries]

/-- What one entry of the table asks of a claim that is to be free of it (R41). -/
theorem entryAllows_iff {station : Nat} {u : Urgency} {bus line b : Nat} {e : Entry} :
    entryAllows station u { bus := bus, line := line } b e = true ↔
      match e with
      | .free => True
      | .own c => b ≠ bus ∧ c.line ≠ line
      | .peer c =>
        b = bus ∨ c.line = line →
          if c.firm = true then u ≠ .routine ∧ c.urgency = .routine else precedes c.urgency c.station u station = false := by
  cases e with
  | free => simp [entryAllows, conflicts, Entry.line]
  | own c =>
    have conflict := conflicts_own (p := { bus := bus, line := line }) (b := b) (c := c)
    simp only [entryAllows, Bool.or_false, Bool.not_eq_true', Bool.eq_false_iff, ne_eq, conflict, not_or]
    exact and_congr (not_congr eq_comm) (not_congr eq_comm)
  | peer c =>
    have conflict := conflicts_peer (p := { bus := bus, line := line }) (b := b) (c := c)
    have same : (bus = b ∨ line = c.line) ↔ (b = bus ∨ c.line = line) := or_congr eq_comm eq_comm
    simp only [entryAllows, Bool.or_eq_true, Bool.not_eq_true', Bool.eq_false_iff, ne_eq, conflict, same]
    rw [← imp_iff_not_or]
    cases c.firm <;> simp

/-- R41, entry by entry. -/
theorem State.pairFree_iff {u : Urgency} {bus line : Nat} :
    s.pairFree u { bus := bus, line := line } = true ↔
      ∀ b < s.claims.entries.length,
        match s.entryAt b with
        | .free => True
        | .own c => b ≠ bus ∧ c.line ≠ line
        | .peer c =>
          b = bus ∨ c.line = line →
            if c.firm = true then u ≠ .routine ∧ c.urgency = .routine
            else precedes c.urgency c.station u s.straps.station = false := by
  unfold State.pairFree
  rw [allEntries_iff]
  exact forall₂_congr fun b _ => entryAllows_iff

/-- A pair free without a ROUTINE conflict (R41, log 9). -/
theorem State.pairClean_iff {u : Urgency} {bus line : Nat} :
    s.pairClean u { bus := bus, line := line } = true ↔
      s.pairFree u { bus := bus, line := line } = true
        ∧ ∀ b < s.claims.entries.length, ∀ c, s.entryAt b = .peer c → b = bus ∨ c.line = line → c.firm = false := by
  unfold State.pairClean
  rw [Bool.and_eq_true, allEntries_iff]
  refine and_congr_right fun _ => forall₂_congr fun b _ => ?_
  unfold State.entryAt
  cases s.claims.entries.getD b .free with
  | free => simp [firmConflict]
  | own c => simp [firmConflict]
  | peer c =>
    have conflict := firmConflict_peer (p := { bus := bus, line := line }) (b := b) (c := c)
    rw [Bool.not_eq_true', Bool.eq_false_iff, ne_eq, conflict]
    simp only [Entry.peer.injEq, forall_eq', not_and, Bool.not_eq_true]
    exact imp_congr (or_congr eq_comm eq_comm) Iff.rfl

/-- The lowest bus of a test, where there is one. -/
theorem find_lowest {q : Nat → Bool} {n bus : Nat} :
    (List.range n).find? q = some bus ↔ bus < n ∧ q bus = true ∧ ∀ b < bus, q b = false := by
  rw [List.find?_range_eq_some]
  simp only [List.mem_range, Bool.not_eq_true']
  tauto

/-- A claim for ANY bus takes the lowest clean one, or else the lowest free one (R41). -/
theorem State.candidate_any {line : Nat} {u : Urgency} {bus : Nat} :
    s.candidate line u none = some bus ↔
      bus < s.claims.entries.length
        ∧ (s.pairClean u { bus := bus, line := line } = true
              ∧ (∀ b < bus, s.pairClean u { bus := b, line := line } = false)
            ∨ s.pairFree u { bus := bus, line := line } = true
              ∧ (∀ b < s.claims.entries.length, s.pairClean u { bus := b, line := line } = false)
              ∧ (∀ b < bus, s.pairFree u { bus := b, line := line } = false)) := by
  unfold State.candidate
  dsimp only
  cases clean : (List.range s.claims.entries.length).find? (fun b => s.pairClean u { bus := b, line := line }) with
  | some b =>
    obtain ⟨inTable, isClean, lowest⟩ := find_lowest.mp clean
    dsimp only
    constructor
    · rintro ⟨⟩
      exact ⟨inTable, .inl ⟨isClean, lowest⟩⟩
    · rintro ⟨small, ⟨busClean, busLowest⟩ | ⟨-, noneClean, -⟩⟩
      · exact clean.symm.trans (find_lowest.mpr ⟨small, busClean, busLowest⟩)
      · exact absurd isClean (by simp [noneClean b inTable])
  | none =>
    have noneClean : ∀ b < s.claims.entries.length, s.pairClean u { bus := b, line := line } = false := by
      simpa using clean
    dsimp only
    rw [find_lowest]
    refine and_congr_right fun small => ?_
    constructor
    · rintro ⟨free, lowest⟩
      exact .inr ⟨free, noneClean, lowest⟩
    · rintro (⟨busClean, -⟩ | ⟨free, -, lowest⟩)
      · exact absurd busClean (by simp [noneClean bus small])
      · exact ⟨free, lowest⟩

/-- Settles O27, entry by entry. -/
theorem freePairIsTheLowestAllowed : Obligations.FreePairIsTheLowestAllowed := by
  refine fun s line u => ⟨fun bus => State.pairFree_iff, fun bus => State.pairClean_iff, fun bus => State.candidate_any,
    fun pref bus => ?_⟩
  unfold State.candidate
  dsimp only
  split
  · rename_i h
    constructor
    · rintro ⟨⟩
      exact ⟨rfl, h.1, h.2⟩
    · rintro ⟨rfl, -⟩
      rfl
  · rename_i h
    constructor
    · rintro ⟨⟩
    · rintro ⟨rfl, small, free⟩
      exact absurd ⟨small, free⟩ h

end Sys2Proof.Machine

/-! SUPPORT. Claims that become HELD, and connects that are begun, refused or removed unsent (O28). -/

namespace Sys2Proof.Machine

variable {s t : State}

/-! ## The arbiter's OPERATEs (R8) -/

/-- The grant of the oldest of the job group, whatever the fuel left (R7). -/
theorem State.grant_job (k : Nat) (noExchange : s.chain.exchange = none) (noDiscovery : s.chain.discovery = none)
    {q : ChainRequest} {rest : List ChainRequest} (waits : s.chain.jobGroup = q :: rest) (may : s.maySend q = true) :
    State.grant (k + 1) s = (s.setChain { s.chain with jobGroup := rest }).startExchange q := by
  unfold State.grant
  rw [noExchange, noDiscovery, waits]
  cases q with
  | operate p =>
    have held : (s.setChain { s.chain with exchange := none, jobGroup := rest, discovery := none }).pairHeld p = true := may
    simp only [Option.isSome_none, Bool.or_self, Bool.false_eq_true, if_false]
    exact if_pos held
  | release | readLine | poll | chainClear => simp [noExchange, noDiscovery]

/-- A release asked for on a free chain with nothing waiting is sent (R7). -/
theorem State.grant_release (noExchange : s.chain.exchange = none) (noDiscovery : s.chain.discovery = none)
    (noJob : s.chain.jobGroup = []) (p : Pair) (k n : Nat) :
    State.grant (k + 1) (s.startRelease p .release n)
      = (s.putOp { pair := p, kind := .release, attempt := n, stage := .acting, abandoned := false }).startExchange
          (.release p) := by
  have queue : (s.startRelease p .release n).chain.jobGroup = [.release p] := by
    simp [State.startRelease, State.ask, State.putOp, noJob]
  rw [State.grant_job (s := s.startRelease p .release n) k noExchange noDiscovery queue rfl]
  simp only [State.startRelease, State.ask, State.putOp, State.setChain_chain, State.setChain_setChain]
  rw [noJob]

/-- An OPERATE whose pair's claim is not HELD is removed unsent, and its connect ends WITHDRAWN (R8). -/
theorem State.grant_removes (k : Nat) (noExchange : s.chain.exchange = none) (noDiscovery : s.chain.discovery = none)
    {p : Pair} {rest : List ChainRequest} (waits : s.chain.jobGroup = .operate p :: rest) (lost : s.pairHeld p = false) :
    State.grant (k + 1) s
      = State.grant k (((s.setChain { s.chain with jobGroup := rest }).dropOp p).connectEnded p .withdrawn) := by
  rw [State.grant.eq_def]
  dsimp only
  rw [if_neg (by simp [noExchange, noDiscovery]), waits]
  dsimp only
  exact if_neg fun held => by cases lost.symm.trans held

/-! ## Release sequences away from the head (R54, R123) -/

theorem State.ownsHead_active {j : Job} (h : s.seq.active = .job j) :
    s.ownsHead .active = (j.bus.isSome && s.head.bus == j.bus && s.head.state != .offBus) := by
  unfold State.ownsHead
  rw [h]

theorem State.ownsHead_staged (s : State) : s.ownsHead .staged = false := by
  unfold State.ownsHead
  cases s.seq.active <;> rfl

/-- An OWN entry stands in the table. -/
theorem State.entryAt_lt {b : Nat} {c : OwnClaim} (h : s.entryAt b = .own c) : b < s.claims.entries.length := by
  by_contra outside
  rw [State.entryAt, List.getD_eq_default _ _ (by omega)] at h
  cases h

/-- What an entry of the table is after it has been replaced (R38). -/
theorem State.entryAt_setEntry {b : Nat} (h : b < s.claims.entries.length) (e : Entry) : (s.setEntry b e).entryAt b = e := by
  simp [State.entryAt, State.setEntry, h]

/-- The release sequence of a job that does not own the head goes straight to the chain (R54, R123). -/
theorem State.beginRelease_away {id : SlotId} {j : Job} {b : Nat} {c : OwnClaim} (h : s.slot id = .job j)
    (bus : j.bus = some b) (entry : s.entryAt b = .own c) (away : s.ownsHead id = false) (awake : j.phase ≠ .suspended) :
    s.beginRelease id
      = ((s.setEntry b (.own
            { c with state := if c.state = .held then .releasing else c.state, disturbances := [] })).setSlot id
          (.job { j with phase := .releasing, inserted := false })).releaseAtChain id := by
  have noClosing : (if id = .active then s.closeEvaluation else s) = s := by
    split
    · rename_i active
      subst active
      unfold State.closeEvaluation
      rw [show s.seq.active = .job j from h]
      exact if_neg fun ⟨_, _, owned, _⟩ => by rw [away] at owned; exact absurd owned (by decide)
    · rfl
  have rested (clock : Nat) : j.endSuspension clock = j := if_neg awake
  rw [State.beginRelease_eq h bus]
  dsimp only
  rw [noClosing, State.claimReleasing, State.updateOwn_own entry, State.updateJob_job (j := j) (by cases id <;> exact h), rested,
    if_neg]
  cases id with
  | active => 
    rw [State.ownsHead_active (by exact h)] at away
    rw [State.ownsHead_active (j := { j with phase := .releasing, inserted := false }) (by rfl), Bool.not_eq_true]
    exact away
  | staged =>
    rw [State.ownsHead_staged]
    decide

/-- A connect that ends WITHDRAWN has its job's release sequence begin (R123). -/
theorem State.connectEnded_withdrawn {p : Pair} {id : SlotId} {j : Job} (slot : s.slotOf p = some id)
    (h : s.slot id = .job j) (phase : j.phase ≠ .releasing) : s.connectEnded p .withdrawn = s.beginRelease id := by
  unfold State.connectEnded
  rw [slot]
  dsimp only
  rw [h]
  simp [phase]

/-- With no operation in progress the release of a pair is asked for at once (R123). -/
theorem State.Serves.releaseAtChain_starts {p : Pair} {j : Job} {c : OwnClaim} (h : s.Serves p j c)
    (ops : s.chain.ops = []) : s.releaseAtChain .active = s.startRelease p .release 1 :=
  State.releaseAtChain_starts (State.slot_active h.job) h.bus h.line h.operated (by simp [State.connecting?, State.opOf, ops])

/-- The clauses of O28 on the arbiter's OPERATEs. -/
theorem operate_clauses {b : Nat} {c : OwnClaim} {p : Pair} {rest : List ChainRequest}
    (noExchange : s.chain.exchange = none) (noDiscovery : s.chain.discovery = none) (entry : s.entryAt b = .own c)
    (hp : p = { bus := b, line := c.line }) (waits : s.chain.jobGroup = .operate p :: rest) :
    (c.state = .held → c.withdrawn = false →
      s.pump =
        { s with
          chain :=
            { s.chain with
              jobGroup := rest
              exchange := some { request := .operate p, begun := false, limit := s.time.now + ms 5 } } })
    ∧ (∀ (j : Job) (o : ChainOp), c.state ≠ .held → rest = [] → s.chain.ops = [o] → o.pair = p →
        s.seq.active = .job j → j.bus = some b → j.order.line = c.line → j.nothingOperated = false →
        s.head.state = .offBus →
      (j.phase = .connecting →
        s.pump =
          { withActive s { j with phase := .releasing, inserted := false } with
            claims := { s.claims with entries := s.claims.entries.set b (.own { c with disturbances := [] }) }
            chain := releaseSent { s.chain with jobGroup := [] } p s.time.now })
      ∧ (j.phase = .releasing →
        s.pump = { s with chain := releaseSent { s.chain with jobGroup := [] } p s.time.now })) := by
  have atBus : p.bus = b := by rw [hp]
  have atLine : p.line = c.line := by rw [hp]
  refine ⟨fun held kept => ?_, fun j o lost hrest ops pair active bus line operated head => ?_⟩
  · have may : s.maySend (.operate p) = true := by
      simp [State.maySend, State.pairHeld, atBus, State.ownAt_own entry, atLine, held, kept]
    rw [State.pump_job noExchange noDiscovery waits may]
    rfl
  · subst hrest
    have gone : s.pairHeld p = false := by simp [State.pairHeld, atBus, State.ownAt_own entry, lost]
    have left : (s.setChain { s.chain with jobGroup := [] }).dropOp p = s.setChain { s.chain with jobGroup := [], ops := [] } :=
      congrArg (fun l => s.setChain { s.chain with jobGroup := [], ops := l })
        (by rw [← pair]; exact State.dropOp_only (s := s) ops)
    rw [State.pump, waits, List.length_singleton, State.grant_removes 1 noExchange noDiscovery waits gone, left]
    have serves : (s.setChain { s.chain with jobGroup := [], ops := [] }).Serves p j c :=
      ⟨active, by rw [atBus]; exact bus, by rw [atLine]; exact line, operated, by rw [atBus]; exact entry⟩
    refine ⟨fun connecting => ?_, fun releasing => ?_⟩
    · rw [State.connectEnded_withdrawn serves.slotOf (State.slot_active serves.job) (by simp [connecting]),
        State.beginRelease_away (State.slot_active serves.job) serves.bus serves.entry
          (State.ownsHead_offBus (by exact head) _) (by simp [connecting]), if_neg lost,
        State.Serves.releaseAtChain_starts (p := p) (j := { j with phase := .releasing, inserted := false })
          (c := { c with state := c.state, disturbances := [] })
          (by exact ⟨rfl, serves.bus, serves.line, operated, State.entryAt_setEntry (by exact State.entryAt_lt serves.entry) _⟩)
          (by rfl),
        State.grant_release (by exact noExchange) (by exact noDiscovery) (by rfl), atBus]
      rfl
    · rw [State.connectEnded_releasing serves.slotOf (State.slot_active serves.job) releasing (by decide),
        serves.releaseAtChain_starts (by rfl), State.grant_release (by exact noExchange) (by exact noDiscovery) (by rfl)]
      rfl

/-! ## Claims that become HELD (R43, R47, R114) -/

/-- The job of a claim that has become HELD, at its connect (R114). -/
def connectingJob (s : State) (j : Job) (b : Nat) : Job :=
  { j with
    phase := .connecting
    bus := some b
    accessWait := some (min 4294967295 (s.time.clock - j.order.submitted)) }

/-- The claim on a bus has become HELD, before its renewal is offered (R47). -/
def State.madeHeld (s : State) (b : Nat) (c : OwnClaim) : State :=
  s.setClaims
    { s.claims with
      opening := none
      entries :=
        s.claims.entries.set b (.own { c with state := .held, awaited := [], renewAt := s.time.now + ms 1000 }) }

/-- A claim becomes HELD: its first renewal is offered and the connect of its job is offered to the chain (R13, R47, R114). -/
theorem State.becomeHeld_eq {b : Nat} {c : OwnClaim} {j : Job} (entry : s.entryAt b = .own c) (active : s.seq.active = .job j)
    (access : j.phase = .access) :
    s.becomeHeld b
      = ((((s.madeHeld b c).offerRenewal c.urgency { bus := b, line := c.line }).setSlot .active
          (.job (connectingJob s j b))).offerConnect { bus := b, line := c.line }) := by
  obtain ⟨l, offered⟩ : ∃ l, (s.madeHeld b c).offerRenewal c.urgency { bus := b, line := c.line } = (s.madeHeld b c).setLine l :=
    ⟨_, State.offer_line _ _⟩
  have found : ((s.madeHeld b c).setLine l).accessSlot = some .active := by
    simp [State.madeHeld, State.accessSlot, State.findSlot, Slot.job?, active, access]
  have made : (s.setEntry b (.own { c with state := .held, awaited := [], renewAt := s.time.now + ms 1000 })).setClaims
      { (s.setEntry b (.own { c with state := .held, awaited := [], renewAt := s.time.now + ms 1000 })).claims with
        opening := none } = s.madeHeld b c := rfl
  unfold State.becomeHeld
  rw [State.ownAt_own entry]
  dsimp only
  rw [State.updateOwn_own entry, made, offered, found]
  dsimp only
  rw [State.updateJob_job (by exact active)]
  rfl

/-- What the statements of Chapter 3 have of a claim become HELD, from the claim's own change (R47, R114). -/
theorem claimHeld_eq (s : State) (b : Nat) (c : OwnClaim) (j : Job) :
    claimHeld s b c j
      = (((s.madeHeld b c).offerRenewal c.urgency { bus := b, line := c.line }).setSeq
          { s.seq with active := .job (connectingJob s j b) }).setChain
          { s.chain with
            exchange :=
              some { request := .operate { bus := b, line := c.line }, begun := false, limit := s.time.now + ms 5 }
            ops :=
              [{ pair := { bus := b, line := c.line }, kind := .connect, attempt := 1, stage := .acting
                 abandoned := false }] } := rfl

/-- The unit in OK: the connect is sent on an idle chain (R13, R14). -/
theorem State.becomeHeld_connects {b : Nat} {c : OwnClaim} {j : Job} (entry : s.entryAt b = .own c)
    (kept : c.withdrawn = false) (active : s.seq.active = .job j) (access : j.phase = .access) (idle : s.ChainIdle)
    (ops : s.chain.ops = []) (ok : (s.unitAt (unitOf c.line)).state = .ok) :
    (s.becomeHeld b).pump = claimHeld s b c j := by
  have inTable := State.entryAt_lt entry
  rw [State.becomeHeld_eq entry active access, claimHeld_eq, State.offerRenewal, State.offer_line, State.offerConnect,
    if_pos (by exact ok), State.startConnect_pump (by exact idle)]
  · simp [State.putOp, State.startExchange, State.setSlot, State.madeHeld, ops]
  · simp [State.pairHeld, State.ownAt, State.entryAt, State.setSlot, State.madeHeld, inTable, kept]

/-- The state of a claim that has left the table with its connect refused, before its renewal and its RELEASE are offered (R15, R54). -/
def State.madeFree (s : State) (b : Nat) : State :=
  s.setClaims { s.claims with opening := none, entries := s.claims.entries.set b .free }

/-- A connect refused UNIT_DOWN has nothing operated (R13, R15). -/
theorem State.connectEnded_unitDown {p : Pair} {id : SlotId} {j : Job} (slot : s.slotOf p = some id) (h : s.slot id = .job j)
    (phase : j.phase ≠ .releasing) :
    s.connectEnded p .unitDown
      = (s.setSlot id (.job { j with nothingOperated := true, status := some .unitDown, failing := some 1 })).beginRelease id := by
  unfold State.connectEnded
  rw [slot]
  dsimp only
  rw [h]
  dsimp only
  rw [if_neg phase, if_neg (by decide), State.connectFails, State.updateJob_job h, State.updateJob_job (State.slot_setSlot _ _ _),
    State.setSlot_setSlot]

/-- A release sequence with nothing operated ends at once, its claim letting its pair go (R54, R123). -/
theorem State.releaseAtChain_passes {id : SlotId} {j : Job} {p : Pair} (h : s.slot id = .job j) (bus : j.bus = some p.bus)
    (line : j.order.line = p.line) (nothing : j.nothingOperated = true) : s.releaseAtChain id = (s.letGo p).endJob id := by
  unfold State.releaseAtChain
  rw [h]
  dsimp only
  rw [bus]
  dsimp only
  rw [line, if_pos nothing]

/-- A release sequence with nothing operated frees the pair of a claim that awaits nothing (R54, R123). -/
theorem State.releaseAtChain_lets {id : SlotId} {j : Job} {p : Pair} {c : OwnClaim} (h : s.slot id = .job j)
    (bus : j.bus = some p.bus) (line : j.order.line = p.line) (nothing : j.nothingOperated = true)
    (entry : s.entryAt p.bus = .own c) (awaited : c.awaited = []) (opening : s.claims.opening = none) :
    s.releaseAtChain id = ((s.setEntry p.bus .free).offerRelease p).endJob id := by
  rw [State.releaseAtChain_passes h bus line nothing, State.letGo_eq entry awaited opening]

/-- The unit not in OK: the connect is refused, the claim lets its pair go, and the job ends UNIT_DOWN (R13, R15, R54, R123). -/
theorem State.becomeHeld_refused {b : Nat} {c : OwnClaim} {j : Job} (entry : s.entryAt b = .own c)
    (active : s.seq.active = .job j) (access : j.phase = .access) (line : j.order.line = c.line)
    (down : (s.unitAt (unitOf c.line)).state ≠ .ok) (away : s.head.state = .offBus ∨ s.head.bus ≠ some b) :
    s.becomeHeld b
      = ((((s.madeFree b).offerRenewal c.urgency { bus := b, line := c.line }).offerRelease
          { bus := b, line := c.line }).setSlot .active
            (.job
              { connectingJob s j b with
                nothingOperated := true
                status := some .unitDown
                failing := some 1
                phase := .releasing
                inserted := false })).endJob .active := by
  have inTable := State.entryAt_lt entry
  have alike : (s.madeFree b).LineAlike (s.madeHeld b c) := ⟨rfl, rfl, rfl⟩
  rw [State.becomeHeld_eq entry active access, State.offerRenewal, alike.offer_eq]
  obtain ⟨l, offered⟩ : ∃ l, (s.madeFree b).offer { notice := .hold c.urgency { bus := b, line := c.line } false, tag := .plain }
      = (s.madeFree b).setLine l := ⟨_, State.offer_line _ _⟩
  rw [State.offerRenewal, offered, State.setLine_line]
  have slot : (((s.madeHeld b c).setLine l).setSlot .active (.job (connectingJob s j b))).slotOf { bus := b, line := c.line }
      = some .active := State.slotOf_active rfl rfl line
  have aside : (((s.madeHeld b c).setLine l).setSlot .active
      (.job { connectingJob s j b with nothingOperated := true, status := some .unitDown, failing := some 1 })).ownsHead .active
      = false := by
    rw [State.ownsHead_active (by rfl)]
    change (true && s.head.bus == some b && s.head.state != .offBus) = false
    rcases away with h | h <;> simp [h]
  have held : (((s.madeHeld b c).setLine l).setSlot .active
      (.job { connectingJob s j b with nothingOperated := true, status := some .unitDown, failing := some 1 })).entryAt b
      = .own { c with state := .held, awaited := [], renewAt := s.time.now + ms 1000 } := State.entryAt_setEntry inTable _
  rw [State.offerConnect, if_neg (by exact down), State.connectEnded_unitDown slot (by rfl) (by simp [connectingJob]),
    State.setSlot_setSlot, State.beginRelease_away (State.slot_setSlot _ _ _) (by rfl) held aside (by simp [connectingJob]), if_pos rfl,
    State.releaseAtChain_lets (p := { bus := b, line := c.line })
      (j :=
        { connectingJob s j b with
          nothingOperated := true, status := some .unitDown, failing := some 1, phase := .releasing, inserted := false })
      (c := { c with state := .releasing, awaited := [], renewAt := s.time.now + ms 1000, disturbances := [] })
      (by rfl) (by rfl) (by exact line) (by rfl) (by exact State.entryAt_setEntry (by change b < (s.claims.entries.set b _).length; simpa using inTable) _)
      (by rfl) (by rfl)]
  refine congrArg (State.endJob · .active) ?_
  rw [State.offerRelease, State.LineAlike.offer_eq (s := (s.madeFree b).setLine l) (by exact ⟨rfl, rfl, rfl⟩), State.offerRelease]
  conv_rhs => rw [State.offer_line]
  simp [State.setSlot, State.setEntry, State.madeHeld, State.madeFree]
  rfl

/-- The claim in the making, once it has its pair (R40). -/
theorem State.placedClaim_own {o : Opening} {b : Nat} {c : OwnClaim} (opening : s.claims.opening = some o)
    (placed : o.placed = some b) (entry : s.entryAt b = .own c) : s.placedClaim = some (b, c) := by
  simp [State.placedClaim, opening, placed, State.ownAt_own entry]

/-- Settles O28, by the arbiter's grant and the end of the contest window. -/
theorem contestWindowEndsHeld : Obligations.ContestWindowEndsHeld := by
  refine ⟨fun s b c p rest noExchange noDiscovery entry hp waits => operate_clauses noExchange noDiscovery entry hp waits, ?_⟩
  intro s o b c j opening placed entry inTable contest kept idle ops active access noBus line t ht
  have ends : exec .contestWindowEnd s = .next (t.becomeHeld b).pump := by
    simp only [exec, execContestWindowEnd, State.placedClaim_own opening placed entry, contest, ht]
  subst ht
  refine ⟨fun ok => ?_, fun down away station staged x hx => ?_⟩
  · rw [ends, State.becomeHeld_connects (s := s.passTo (c.sentAt + ms 40)) entry kept active access idle ops ok]
  have refused := State.becomeHeld_refused (s := s.passTo (c.sentAt + ms 40)) entry active access line down away
  have here : (((s.passTo (c.sentAt + ms 40)).madeFree b).offerRenewal c.urgency { bus := b, line := c.line }).offerRelease
      { bus := b, line := c.line } = x := hx.symm
  rw [here] at refused
  obtain ⟨l, form⟩ : ∃ l, x = ((s.passTo (c.sentAt + ms 40)).madeFree b).setLine l := by
    rw [hx, State.offerRelease, State.offer_line, State.offerRenewal, State.offer_line]
    exact ⟨_, rfl⟩
  have xSeq : x.seq = s.seq := by rw [form]; rfl
  have grants (y : State) (chain : y.chain = x.chain) : y.pump = y :=
    State.pump_nothing (by rw [State.NothingToGrant, chain, form]; exact .inr (.inr ⟨idle.2.1, idle.2.2.1⟩))
  have xStation : x.claims.station ≠ .resetting := by rw [form]; exact station
  have stands (i : Job) : SlotsStand (x.setSlot .active (.job i)) .active :=
    ⟨fun _ => by change x.seq.staged = .empty; rw [xSeq]; exact staged, fun h => by cases h⟩
  refine ⟨fun desk => ?_, fun info sweep => ?_⟩
  · have job : connectingJob (s.passTo (c.sentAt + ms 40)) j b
        = { j with
            phase := .connecting
            bus := some b
            accessWait := some (min 4294967295 (x.time.clock - j.order.submitted)) } := by
      rw [form]
      rfl
    rw [ends, refused, State.endJob_desk (State.slot_setSlot _ _ _) (by exact desk) (by exact xStation) (stands _), orderEndedIn_setSlot,
      grants _ (by rfl), job]
    rfl
  · have moved := (State.SweepMoved.refl (x.setSlot .active .empty)).sweepOutcome info j.order.line j.verdict .unitDown
    rw [ends, refused, State.endJob_sweep (State.slot_setSlot _ _ _) (by exact sweep) (by exact xStation) (stands _),
      State.setSlot_setSlot]
    exact congrArg Host.Outcome.next (grants _ moved.chain)

end Sys2Proof.Machine

/-! SUPPORT. The AWAIT_YIELD limit and awaited entries that lapse (O29); renewals, disturbances, PEER entries and the join period (O30). -/

namespace Sys2Proof.Machine

variable {s t : State}

/-- The awaited entry whose expiry comes first, the first among equals. -/
theorem earliestAwaited_first {a : Awaited} {rest : List Awaited} (first : ∀ y ∈ rest, a.expiry ≤ y.expiry) :
    earliestAwaited (a :: rest) = some a := by
  unfold earliestAwaited
  rw [List.foldl_cons]
  induction rest with
  | nil => rfl
  | cons y ys ih =>
    have later : ¬ y.expiry < a.expiry := by have := first y List.mem_cons_self; omega
    rw [List.foldl_cons]
    dsimp only
    rw [if_neg later]
    exact ih fun z hz => first z (List.mem_cons_of_mem _ hz)

/-- The first of the awaited list leaves it, with every entry of its station and pair (R44). -/
theorem unawait_first {c : OwnClaim} {a : Awaited} {rest : List Awaited} (awaited : c.awaited = a :: rest) :
    c.unawait a.station a.pair
      = { c with awaited := rest.filter (fun y => !(y.station == a.station && y.pair == a.pair)) } := by
  simp [OwnClaim.unawait, awaited]

/-- AWAITED_ENTRY_EXPIRY (R44, R60): the entry has left the list, and its lapse is posted. -/
theorem exec_awaitedEntryExpiry {b : Nat} {c : OwnClaim} {a : Awaited} {rest : List Awaited} {x : State} (bus : b < 4)
    (entry : s.entryAt b = .own c) (awaited : c.awaited = a :: rest) (first : ∀ y ∈ rest, a.expiry ≤ y.expiry)
    (hx : x = (s.passTo a.expiry).post (.peerLapsed a.station a.pair.bus a.pair.line)) :
    exec (.awaitedEntryExpiry b) s = .next
      ((x.setEntry b (.own
        { c with awaited := rest.filter (fun y => !(y.station == a.station && y.pair == a.pair)) })).awaitedLeft b).pump := by
  have formed : (Instr.awaitedEntryExpiry b).wellFormed = true := by simp [Instr.wellFormed, busFits, bus]
  simp only [exec, execAwaitedEntryExpiry, Sys2Proof.Machine.formed, formed, State.ownAt_own entry, awaited,
    earliestAwaited_first first, if_true]
  rw [State.updateOwn_own (by exact entry), unawait_first awaited, State.setEntry, State.setClaims_post, hx, State.setEntry,
    State.post_claims]

/-- What an awaited entry that has left leaves of its claim (R44). -/
theorem State.awaitedLeft_stands {b : Nat} {c : OwnClaim} (entry : s.entryAt b = .own c)
    (h : c.awaited ≠ [] ∨ c.state ≠ .awaitYield) : s.awaitedLeft b = s := by
  unfold State.awaitedLeft
  rw [State.ownAt_own entry]
  exact if_neg fun ⟨yields, none_⟩ => h.elim (· none_) (· yields)

theorem State.awaitedLeft_last {b : Nat} {c : OwnClaim} (entry : s.entryAt b = .own c) (none_ : c.awaited = [])
    (yields : c.state = .awaitYield) :
    s.awaitedLeft b
      = if c.sentAt + ms 40 ≤ s.time.now then s.becomeHeld b else s.setEntry b (.own { c with state := .contest }) := by
  unfold State.awaitedLeft
  rw [State.ownAt_own entry]
  dsimp only
  rw [if_pos ⟨yields, none_⟩, State.updateOwn_own entry]

/-- A claim become HELD is the same whether its awaited list has been emptied before or not (R44, R47). -/
theorem claimHeld_setEntry {b : Nat} {c : OwnClaim} {j : Job} :
    claimHeld (s.setEntry b (.own { c with awaited := [] })) b { c with awaited := [] } j = claimHeld s b c j := by
  have made : (s.setEntry b (.own { c with awaited := [] })).madeHeld b { c with awaited := [] } = s.madeHeld b c := by
    simp [State.madeHeld, State.setEntry]
  rw [claimHeld_eq, claimHeld_eq, made]
  rfl

/-- Settles O29, by the AWAIT_YIELD limit and the first expiry of the awaited list. -/
theorem awaitedYieldsRunOut : Obligations.AwaitedYieldsRunOut := by
  intro s b c entry inTable bus
  refine ⟨fun o opening placed yields some_ urgency => ?_, fun a rest left x put awaited first hleft hx hput =>
    ⟨fun idle => ⟨fun stays => ?_, fun none_ yields early => ?_⟩,
      fun j none_ yields late kept active access noBus line idle ops ok => ?_⟩⟩
  · have ends : exec .awaitYieldLimit s = .next (s.passTo c.limit).loseClaim := by
      simp only [exec, execAwaitYieldLimit, State.placedClaim_own opening placed entry]
      exact if_pos ⟨yields, some_⟩
    rw [ends, State.loseClaim_waits (by exact opening) placed (by exact entry) urgency]
    rfl
  all_goals
    have claims : x.claims = s.claims := by rw [hx]; simp
    have time : x.time.now = max s.time.now a.expiry := by rw [hx]; simp
    have chain : x.chain = s.chain := by rw [hx]; simp
    have seq : x.seq = s.seq := by rw [hx]; simp
    have set (e : Entry) : (x.setEntry b e).entryAt b = e := State.entryAt_setEntry (by rw [claims]; exact inTable) e
    rw [exec_awaitedEntryExpiry bus entry awaited first hx, ← hleft]
  · rw [State.awaitedLeft_stands (set _) stays, State.pump_alike idle (by exact chain), hput, State.setEntry, claims]
    rfl
  · rw [State.awaitedLeft_last (c := { c with awaited := left }) (set _) none_ yields, if_neg (by
      change ¬ c.sentAt + ms 40 ≤ x.time.now
      omega), State.pump_alike idle (by exact chain), hput, none_]
    simp [State.setEntry, claims]
    rfl
  · rw [State.awaitedLeft_last (c := { c with awaited := left }) (set _) none_ yields, if_pos (by
      change c.sentAt + ms 40 ≤ x.time.now
      omega), none_,
      State.becomeHeld_connects (c := { c with awaited := [] }) (set _) kept (by exact seq.symm ▸ active) access
        (by unfold State.ChainIdle; rw [show (x.setEntry b _).chain = s.chain from chain]; exact idle)
        (by rw [show (x.setEntry b _).chain = s.chain from chain]; exact ops)
        (by unfold State.unitAt; rw [show (x.setEntry b _).chain = s.chain from chain]; exact ok), claimHeld_setEntry]

/-! ## The stage of a step is offered to the head (R69, R72, R75, R77, R78, R119) -/

/-- A CAPACITY stage begins with configuration A's step (R69, R77). -/
theorem State.startCapacity_eq (clear : s.head.foreignClear = true) :
    s.startCapacity = s.setHead (capacityBegun s.head s.headClaimHeld s.time.now) := by
  unfold State.startCapacity State.capacityStep capacityBegun
  have may : (s.setHead { s.head with state := .capacity, source := .zero, config := some .a, work := StageWork.none }).sourceMayGoOn
      = s.headClaimHeld := by
    unfold State.sourceMayGoOn
    change ((HeadState.capacity == .resist || HeadState.capacity == .capacity) && s.headClaimHeld && s.head.foreignClear) = _
    rw [clear]
    simp
  rw [may]
  cases s.headClaimHeld <;> rfl

/-- A head idle on the bus of the RUNNING job, undisturbed and without a hazard, takes the stage of the job's step (R72 to R78, R117, R119). -/
theorem State.offerStage_eq {j : Job} (active : s.seq.active = .job j) (running : j.phase = .running)
    (onBus : s.head.state = .onBus) (bus : s.head.bus = j.bus) (calm : s.disturbed j.bus = false)
    (safe : s.head.hazardFound = false) : s.offerStage = stageOffered s j (j.order.stepAt j.step).kind := by
  unfold State.offerStage
  rw [active]
  dsimp only
  rw [if_pos ⟨running, onBus, bus, by simp [calm], by simp [safe]⟩]
  cases kind : (j.order.stepAt j.step).kind with
  | foreign => rfl
  | connect | hold | verdict | release => rfl
  | resist =>
    by_cases clear : s.head.foreignClear = true
    · simp only [clear, if_true, stageOffered]
      rfl
    · simp only [clear, stageOffered]
      rw [State.updateJob_job (by exact active)]
      rfl
  | capacity =>
    by_cases clear : s.head.foreignClear = true
    · simp only [clear, if_true, stageOffered]
      rw [State.startCapacity_eq clear]
      rfl
    · simp only [clear, stageOffered]
      rw [State.updateJob_job (by exact active)]
      rfl

/-- Nothing is offered to a head that is not idle on its bus, or by a job that is not RUNNING (R117, R119). -/
theorem State.offerStage_stands (h : s.head.state ≠ .onBus ∨ ∀ j, s.seq.active = .job j → j.phase ≠ .running) :
    s.offerStage = s := by
  unfold State.offerStage
  split
  · rename_i j active
    exact if_neg fun ⟨running, onBus, _⟩ => h.elim (· onBus) fun k => k j active running
  · rfl

/-- Whether a disturbance record stands on the claim of a bus (R81). -/
theorem State.disturbed_own {b : Nat} {c : OwnClaim} (entry : s.entryAt b = .own c) :
    s.disturbed (some b) = !c.disturbances.isEmpty := by
  simp [State.disturbed, State.ownAt_own entry]

/-! ## Disturbance records that end (R52, R82) -/

/-- The disturbance record whose deadline comes first, the first among equals. -/
theorem earliestDisturbance_first {d : Disturbance} {rest : List Disturbance} (first : ∀ y ∈ rest, d.deadline ≤ y.deadline) :
    earliestDisturbance (d :: rest) = some d := by
  unfold earliestDisturbance
  rw [List.foldl_cons]
  induction rest with
  | nil => rfl
  | cons y ys ih =>
    have later : ¬ y.deadline < d.deadline := by have := first y List.mem_cons_self; omega
    rw [List.foldl_cons]
    dsimp only
    rw [if_neg later]
    exact ih fun z hz => first z (List.mem_cons_of_mem _ hz)

/-- The first disturbance record ends, with every record of its station and pair; with the last of a claim the stage is offered again (R52, R82). -/
theorem State.endDisturbance_first {b : Nat} {c : OwnClaim} {d : Disturbance} {rest left : List Disturbance}
    (entry : s.entryAt b = .own c) (records : c.disturbances = d :: rest)
    (hleft : left = rest.filter (fun x => !(x.station == d.station && x.pair == d.pair))) :
    s.endDisturbance b d.station d.pair
      = if left.isEmpty then (s.setEntry b (.own { c with disturbances := left })).offerStage
        else s.setEntry b (.own { c with disturbances := left }) := by
  have kept : c.disturbances.filter (fun x => !(x.station == d.station && x.pair == d.pair)) = left := by
    rw [records, hleft, List.filter_cons_of_neg (by simp)]
  have fewer : left.length < c.disturbances.length := by
    have := List.length_filter_le (fun x : Disturbance => !(x.station == d.station && x.pair == d.pair)) rest
    rw [records, hleft, List.length_cons]
    omega
  unfold State.endDisturbance
  rw [State.ownAt_own entry]
  dsimp only
  rw [kept, if_pos fewer, State.updateOwn_own entry]
  rfl

theorem exec_disturbanceDeadline {b : Nat} {c : OwnClaim} {d : Disturbance} {rest : List Disturbance} (bus : b < 4)
    (entry : s.entryAt b = .own c) (records : c.disturbances = d :: rest) (first : ∀ y ∈ rest, d.deadline ≤ y.deadline) :
    exec (.disturbanceDeadline b) s = .next ((s.passTo d.deadline).endDisturbance b d.station d.pair) := by
  have formed : (Instr.disturbanceDeadline b).wellFormed = true := by simp [Instr.wellFormed, busFits, bus]
  simp only [exec, execDisturbanceDeadline, Sys2Proof.Machine.formed, formed, State.ownAt_own entry, records,
    earliestDisturbance_first first, if_true]

/-! ## The timers of the claims (O30) -/

/-- HOLD_INTERVAL (R47). -/
theorem exec_holdInterval {b : Nat} {c : OwnClaim} (bus : b < 4) (entry : s.entryAt b = .own c)
    (stands : c.state = .held ∨ c.state = .releasing ∨ c.state = .stuck) :
    exec (.holdInterval b) s = .next
      (({ s.passTo c.renewAt with
          claims :=
            { s.claims with
              entries := s.claims.entries.set b (.own { c with renewAt := c.renewAt + ms 1000 }) } }).offerRenewal
        c.urgency { bus := b, line := c.line }) := by
  have formed : (Instr.holdInterval b).wellFormed = true := by simp [Instr.wellFormed, busFits, bus]
  simp only [exec, execHoldInterval, Sys2Proof.Machine.formed, formed, State.ownAt_own entry, if_true]
  rw [if_pos stands, State.updateOwn_own (by exact entry)]
  rfl

/-- A waiting claim is not tested in a station that is not ACTIVE, or with its CLAIM held back (R41). -/
theorem State.claimTest_stands (h : ∀ o, s.claims.opening = some o →
      o.placed ≠ none ∨ s.claims.station ≠ .active ∨ s.line.heldClaims.any Tx.isClaim = true) : s.claimTest = s := by
  unfold State.claimTest
  split
  · rename_i o opening
    refine if_neg fun ⟨waits, active, noneHeld⟩ => ?_
    rcases h o opening with placed | idle | held
    · exact placed waits
    · exact idle active
    · rw [held] at noneHeld
      cases noneHeld
  · rfl

/-- PEER_ENTRY_EXPIRY (R60). -/
theorem exec_peerEntryExpiry {b : Nat} {c : PeerClaim} {x : State} (bus : b < 4) (entry : s.entryAt b = .peer c)
    (hx : x = { (s.passTo c.expiry).post (.peerLapsed c.station b c.line) with
      claims := { s.claims with entries := s.claims.entries.set b .free } }) :
    exec (.peerEntryExpiry b) s = .next x.claimTest := by
  have formed : (Instr.peerEntryExpiry b).wellFormed = true := by simp [Instr.wellFormed, busFits, bus]
  simp only [exec, execPeerEntryExpiry, Sys2Proof.Machine.formed, formed, entry, if_true]
  rw [State.setEntry, State.setClaims_post, hx]
  rfl

/-- Settles O30, timer by timer. -/
theorem claimTimersRunOut : Obligations.ClaimTimersRunOut := by
  refine fun s => ⟨fun b c entry inTable bus => ⟨exec_holdInterval bus entry, ?_⟩, ?_, fun t until_ joining => ?_⟩
  · intro d rest left t records first hleft ht
    have here : (s.passTo d.deadline).setEntry b (.own { c with disturbances := left }) = t := ht.symm
    rw [exec_disturbanceDeadline bus entry records first,
      State.endDisturbance_first (s := s.passTo d.deadline) entry records hleft, here]
    refine ⟨fun quiet => ?_, fun j last onBus active running jobBus bus safe => ?_⟩
    · by_cases last : left = []
      · rw [last, List.isEmpty_nil, if_pos rfl, State.offerStage_stands]
        have := quiet.resolve_left (· last)
        rw [ht]
        exact this
      · rw [if_neg (by simpa using last)]
    · have entryT : t.entryAt b = .own { c with disturbances := left } := by
        rw [← here]
        exact State.entryAt_setEntry (by exact inTable) _
      rw [last, List.isEmpty_nil, if_pos rfl,
        State.offerStage_eq (j := j) (by rw [ht]; exact active) running (by rw [ht]; exact onBus)
          (by rw [ht, jobBus]; exact bus) (by rw [jobBus, State.disturbed_own entryT, last]; rfl) (by rw [ht]; exact safe)]
  · intro b c x bus entry hx
    rw [exec_peerEntryExpiry bus entry hx]
    refine ⟨fun untested => ?_, fun o opening waits active noneHeld line => ?_⟩
    · rw [State.claimTest_stands]
      rw [hx]
      simpa using untested
    · rw [State.claimTest_tested (o := o) (by rw [hx]; exact opening) waits (by rw [hx]; simpa using noneHeld)
        (.inl (by rw [hx]; exact active)) (by rw [hx]; simpa using line)]
  · simp only [exec, execJoinPeriodEnd, until_, joining, if_true]
    rfl

end Sys2Proof.Machine

/-! SUPPORT. Numbers in bytes and back; the records of the desk's commands (O8) and the notices (O20) read back. -/

namespace Sys2Proof.Machine

/-! ## Numbers in bytes (R207) -/

theorem byte_toNat {n : Nat} (small : n < 256) : (byte n).toNat = n := by
  simp [byte, Nat.mod_eq_of_lt small]

theorem byte_toNat_mod (n : Nat) : (byte n).toNat = n % 256 := by simp [byte]

@[simp] theorem bytesOf_length (k n : Nat) : (bytesOf k n).length = k := by
  induction k with
  | zero => rfl
  | succ k ih => simp [bytesOf, ih]

theorem foldl_bytesOf (k n a : Nat) :
    (bytesOf k n).foldl (fun acc b => acc * 256 + b.toNat) a = a * 256 ^ k + n % 256 ^ k := by
  induction k generalizing a with
  | zero => simp [bytesOf, Nat.mod_one]
  | succ k ih =>
    have split : n % 256 ^ (k + 1) = n % 256 ^ k + 256 ^ k * (n / 256 ^ k % 256) := by
      rw [pow_succ, Nat.mod_mul]
    rw [bytesOf, List.foldl_cons, ih, byte_toNat_mod, split, pow_succ]
    ring

theorem numberOf_bytesOf {k n : Nat} (small : n < 256 ^ k) : numberOf (bytesOf k n) = n := by
  rw [numberOf, foldl_bytesOf, Nat.mod_eq_of_lt small, Nat.zero_mul, Nat.zero_add]

theorem byte_eq_bytesOf (n : Nat) : [byte n] = bytesOf 1 n := by simp [bytesOf]

theorem bytesOf_two (n : Nat) : bytesOf 2 n = [byte (n / 256), byte n] := by simp [bytesOf]

/-- The two bytes of a number, put together again as `wordAt` reads them. -/
theorem word_toNat {n : Nat} (small : n < 65536) : (byte (n / 256)).toNat * 256 + (byte n).toNat = n := by
  rw [byte_toNat (by omega), byte_toNat_mod]
  omega

/-! ## Notices (R25, R26, R208) -/

theorem urgencyOf_code (u : Urgency) : urgencyOf (byte u.code).toNat = some u := by cases u <;> rfl

theorem verdictOf_code (v : Verdict) : verdictOf (byte v.code).toNat = some v := by cases v <;> rfl

theorem ticketStateOf_code (st : TicketState) : ticketStateOf (byte st.code).toNat = some st := by cases st <;> rfl

theorem flagByte_ne_zero (m : Bool) : (flagByte m != 0) = m := by cases m <;> rfl

theorem noticeBody_length (station : Nat) (n : Notice) : (noticeBody station n).length = 8 := by
  cases n <;> simp [noticeBody]

theorem noticeBytes_length (station : Nat) (n : Notice) : (noticeBytes station n).length = 10 := by
  simp [noticeBytes, noticeBody_length]

theorem noticeBytes_checked (station : Nat) (n : Notice) : checkAgrees (noticeBytes station n) = true := by
  have size : (noticeBody station n).length = 8 := noticeBody_length station n
  have small : (noticeCheck (noticeBody station n)).toNat < 65536 := (noticeCheck (noticeBody station n)).isLt
  simp [checkAgrees, noticeBytes, wordAt, byteAt, size, bytesOf_two, word_toNat small]

theorem noticeBytes_head (station : Nat) (n : Notice) :
    byteAt (noticeBytes station n) 0 = byte (n.kind.code * 16 + station) := by
  simp [byteAt, noticeBytes, noticeBody]

theorem kind_code_bounds (k : NoticeKind) : 1 ≤ k.code ∧ k.code ≤ 6 := by cases k <;> decide

theorem noticeBytes_source {station : Nat} (n : Notice) (low : station ≤ 15) :
    sourceOf (noticeBytes station n) = station := by
  have code := kind_code_bounds n.kind
  rw [sourceOf, noticeBytes_head, byte_toNat (by omega)]
  omega

theorem noticeBytes_kind {station : Nat} (n : Notice) (low : station ≤ 15) :
    kindCode (noticeBytes station n) = n.kind.code := by
  have code := kind_code_bounds n.kind
  rw [kindCode, noticeBytes_head, byte_toNat (by omega)]
  omega

/-- Bytes 3 and 4 hold the line of every notice that carries one. -/
theorem noticeBytes_line {station l : Nat} {n : Notice} (carries : n.line = some l) (small : l ≤ 16383) :
    lineField (noticeBytes station n) = some l := by
  have word : wordAt (noticeBytes station n) 3 = l := by
    cases n with
    | announce => exact absurd carries (by simp [Notice.line])
    | _ =>
      simp only [Notice.line, Option.some.injEq] at carries
      subst carries
      simpa [wordAt, byteAt, noticeBytes, noticeBody, bytesOf_two] using word_toNat (by omega)
  rw [lineField, word, if_pos small]

/-- Byte 2 and bytes 3 and 4 hold the pair of a notice. -/
theorem noticeBytes_pair {station : Nat} {n : Notice} {p : Pair} (carries : n.line = some p.line)
    (bus : byteAt (noticeBytes station n) 2 = byte p.bus) (busRange : p.bus ≤ 3) (lineRange : p.line ≤ 16383) :
    pairField (noticeBytes station n) = some p := by
  rw [pairField, noticeBytes_line carries lineRange, bus, byte_toNat (by omega)]
  simp [busRange]

theorem readNotice_noticeBytes {station : Nat} {n : Notice} (low : station ≤ 15) (ranged : n.InRange station) :
    readNotice (noticeBytes station n) = some n := by
  unfold readNotice
  rw [noticeBytes_kind n low]
  cases n with
  | announce => rfl
  | claim u p =>
    obtain ⟨busRange, lineRange⟩ := ranged
    have urgency : byteAt (noticeBytes station (.claim u p)) 1 = byte u.code := rfl
    simp only [Notice.kind, NoticeKind.code, urgency, urgencyOf_code,
      noticeBytes_pair (n := .claim u p) rfl rfl busRange lineRange]
  | hold u p m =>
    obtain ⟨busRange, lineRange⟩ := ranged
    have urgency : byteAt (noticeBytes station (.hold u p m)) 1 = byte u.code := rfl
    have mark : byteAt (noticeBytes station (.hold u p m)) 5 = flagByte m := rfl
    simp only [Notice.kind, NoticeKind.code, urgency, urgencyOf_code, mark, flagByte_ne_zero,
      noticeBytes_pair (n := .hold u p m) rfl rfl busRange lineRange]
  | release p =>
    obtain ⟨busRange, lineRange⟩ := ranged
    simp only [Notice.kind, NoticeKind.code, noticeBytes_pair (n := .release p) rfl rfl busRange lineRange, Option.map]
  | verdict l v k =>
    obtain ⟨lineRange, kohms⟩ := ranged
    have cls : byteAt (noticeBytes station (.verdict l v k)) 5 = byte v.code := rfl
    have worst : wordAt (noticeBytes station (.verdict l v k)) 6 = k := by
      simp [wordAt, byteAt, noticeBytes, noticeBody, bytesOf_two, word_toNat (show k < 65536 by omega)]
    simp only [Notice.kind, NoticeKind.code, cls, verdictOf_code, worst,
      noticeBytes_line (n := .verdict l v k) rfl lineRange]
  | ticket i l st v =>
    obtain ⟨lineRange, owner, serial⟩ := ranged
    have cls : byteAt (noticeBytes station (.ticket i l st v)) 5 = byte v.code := rfl
    have state : byteAt (noticeBytes station (.ticket i l st v)) 6 = byte st.code := rfl
    have ident : wordAt (noticeBytes station (.ticket i l st v)) 1 = i := by
      simp [wordAt, byteAt, noticeBytes, noticeBody, bytesOf_two, word_toNat (show i < 65536 by omega)]
    simp only [Notice.kind, NoticeKind.code, cls, verdictOf_code, state, ticketStateOf_code, ident,
      noticeBytes_line (n := .ticket i l st v) rfl lineRange, noticeBytes_source _ low, owner, serial, and_self, if_true]

/-! ## Fields of a record (section 12.4) -/

theorem field_here {k n : Nat} {rest : List Byte} (small : n < 256 ^ k) : field (bytesOf k n ++ rest) 0 k = n := by
  rw [field, List.drop_zero, List.take_left' (bytesOf_length k n), numberOf_bytesOf small]

theorem field_past {x rest : List Byte} {i k : Nat} (past : x.length ≤ i) :
    field (x ++ rest) i k = field rest (i - x.length) k := by
  rw [field, field, List.drop_append, List.drop_eq_nil_of_le past, List.nil_append]

theorem field_whole {k n : Nat} (small : n < 256 ^ k) : field (bytesOf k n) 0 k = n := by
  have here : field (bytesOf k n ++ []) 0 k = n := field_here small
  rwa [List.append_nil] at here

/-- A field further on is a field of what stands there. -/
theorem field_drop (body : List Byte) (i j k : Nat) : field body (i + j) k = field (body.drop i) j k := by
  rw [field, field, List.drop_drop]

theorem drop_flatMap {α : Type} {f : α → List Byte} {k : Nat} (size : ∀ x, (f x).length = k) (xs : List α) (n : Nat) :
    (xs.flatMap f).drop (n * k) = (xs.drop n).flatMap f := by
  induction n generalizing xs with
  | zero => simp
  | succ n ih =>
    cases xs with
    | nil => simp
    | cons x xs =>
      rw [List.flatMap_cons, List.drop_succ_cons, ← ih, Nat.succ_mul, Nat.add_comm, ← List.drop_drop,
        List.drop_left' (size x)]

theorem length_flatMap_of {α : Type} {f : α → List Byte} {k : Nat} (size : ∀ x, (f x).length = k) (xs : List α) :
    (xs.flatMap f).length = xs.length * k := by
  simp [List.length_flatMap, size]

/-- What stands at the place of the n-th of equally long pieces is that piece and what follows it. -/
theorem drop_flatMap_lt {α : Type} {f : α → List Byte} {k : Nat} (size : ∀ x, (f x).length = k) {xs : List α} {n : Nat}
    (inside : n < xs.length) (rest : List Byte) :
    ∃ more, (xs.flatMap f ++ rest).drop (n * k) = f xs[n] ++ more := by
  have short : n * k ≤ (xs.flatMap f).length := by
    rw [length_flatMap_of size]
    exact Nat.mul_le_mul_right k (by omega)
  refine ⟨(xs.drop (n + 1)).flatMap f ++ rest, ?_⟩
  rw [List.drop_append_of_le_length short, drop_flatMap size, List.drop_eq_getElem_cons inside, List.flatMap_cons,
    List.append_assoc]

theorem fields_past {x rest : List Byte} {i k count : Nat} (past : x.length ≤ i) :
    fields (x ++ rest) i k count = fields rest (i - x.length) k count := by
  simp only [fields]
  refine List.map_congr_left (fun n _ => ?_)
  rw [field_past (by omega), Nat.sub_add_comm past]

theorem fields_here {k : Nat} {xs : List Nat} {rest : List Byte} (small : ∀ x ∈ xs, x < 256 ^ k) :
    fields (fieldBytes k xs ++ rest) 0 k xs.length = xs := by
  refine List.ext_getElem (by simp [fields]) (fun n _ inside => ?_)
  obtain ⟨more, piece⟩ := drop_flatMap_lt (bytesOf_length k) inside rest
  simp only [fields, List.getElem_map, List.getElem_range, Nat.zero_add]
  have here := field_drop (fieldBytes k xs ++ rest) (n * k) 0 k
  rw [Nat.add_zero] at here
  rw [here, fieldBytes, piece, field_here (small _ (List.getElem_mem inside))]

@[simp] theorem fieldBytes_length (k : Nat) (xs : List Nat) : (fieldBytes k xs).length = xs.length * k :=
  length_flatMap_of (bytesOf_length k) xs

@[simp] theorem stepBytes_length (e : StepEntry) : (stepBytes e).length = 4 := by simp [stepBytes]

theorem fits1_iff (n : Nat) : fits1 n = true ↔ n < 256 := by simp [fits1]
theorem fits2_iff (n : Nat) : fits2 n = true ↔ n < 65536 := by simp [fits2]
theorem fits4_iff (n : Nat) : fits4 n = true ↔ n < 4294967296 := by simp [fits4]

theorem readStep_here {e : StepEntry} (formed : e.wellFormed = true) (rest : List Byte) :
    readStep (stepBytes e ++ rest) 0 = e := by
  simp only [StepEntry.wellFormed, Bool.and_eq_true, fits1_iff, fits2_iff] at formed
  obtain ⟨⟨kind, mark⟩, seconds⟩ := formed
  have bytes : stepBytes e ++ rest = bytesOf 1 e.kind ++ (bytesOf 1 e.mark ++ (bytesOf 2 e.seconds ++ rest)) := by
    simp [stepBytes, bytesOf]
  simp [readStep, bytes, field_here, field_past, kind, mark, seconds]

theorem readStep_drop (body : List Byte) (i : Nat) : readStep body i = readStep (body.drop i) 0 := by
  have first := field_drop body i 0 1
  rw [Nat.add_zero] at first
  simp only [readStep, first, field_drop body i, Nat.zero_add]

theorem readOrder_orderBytes {o : OrderRecord} (formed : o.wellFormed = true) : readOrder (orderBytes o) = o := by
  simp only [OrderRecord.wellFormed, Bool.and_eq_true, fits1_iff, fits2_iff, decide_eq_true_eq, List.all_eq_true] at formed
  obtain ⟨⟨⟨⟨⟨⟨⟨tag, line⟩, urgency⟩, pref⟩, volts⟩, count⟩, twelve⟩, steps⟩ := formed
  have bytes : orderBytes o =
      bytesOf 2 o.tag ++ (bytesOf 2 o.line ++ (bytesOf 1 o.urgency ++ (bytesOf 1 o.busPref ++ (bytesOf 1 o.volts
        ++ (bytesOf 1 o.count ++ o.entries.flatMap stepBytes))))) := by
    simp [orderBytes, bytesOf]
  have body : (orderBytes o).drop 8 = o.entries.flatMap stepBytes := by
    rw [bytes]
    simp [bytesOf]
  have entries : (List.range 12).map (fun n => readStep (orderBytes o) (8 + n * 4)) = o.entries := by
    refine List.ext_getElem (by simp [twelve]) (fun n _ inside => ?_)
    obtain ⟨more, piece⟩ := drop_flatMap_lt stepBytes_length inside []
    rw [List.append_nil] at piece
    rw [List.getElem_map, List.getElem_range, readStep_drop, ← List.drop_drop, body, piece,
      readStep_here (steps _ (List.getElem_mem inside))]
  simp only [readOrder, entries]
  simp [bytes, field_here, field_past, tag, line, urgency, pref, volts, count]

theorem readSweepStart_bytes {r : SweepStartRecord} (formed : r.wellFormed = true) :
    readSweepStart (sweepStartBytes r) = r := by
  simp only [SweepStartRecord.wellFormed, Bool.and_eq_true, fits1_iff, fits2_iff] at formed
  obtain ⟨⟨⟨⟨start, complete⟩, error⟩, once⟩, interval⟩ := formed
  have bytes : sweepStartBytes r =
      bytesOf 2 r.start ++ (bytesOf 1 r.onComplete ++ (bytesOf 1 r.onError ++ (bytesOf 1 r.once ++ bytesOf 2 r.interval))) := by
    simp [sweepStartBytes, bytesOf]
  simp [readSweepStart, bytes, field_here, field_past, field_whole, start, complete, error, once, interval]

theorem readSettings_bytes {r : SettingsRecord} (formed : r.wellFormed = true) :
    readSettings (settingsRecordBytes r) = r := by
  simp only [SettingsRecord.wellFormed, Bool.and_eq_true, fits1_iff, fits2_iff, fits4_iff, decide_eq_true_eq,
    List.all_eq_true] at formed
  obtain ⟨⟨⟨⟨⟨⟨⟨⟨⟨⟨⟨⟨⟨⟨⟨⟨foreign, loop⟩, ground⟩, insulation⟩, imbalance⟩, four⟩, gauge⟩, sixtyFour⟩, index⟩, wait⟩, suspend⟩,
    decay⟩, opens⟩, clears⟩, hold⟩, retest⟩, guard⟩ := formed
  have bytes : settingsRecordBytes r =
      bytesOf 2 r.foreign ++ (bytesOf 2 r.loop ++ (bytesOf 4 r.ground ++ (bytesOf 4 r.insulation ++ (bytesOf 1 r.imbalance
        ++ (fieldBytes 4 r.gauge ++ (fieldBytes 1 r.gaugeIndex ++ (bytesOf 2 r.accessWait ++ (bytesOf 2 r.suspend
        ++ (bytesOf 2 r.decay ++ (bytesOf 1 r.openLevel ++ (bytesOf 1 r.clearLevel ++ (bytesOf 2 r.clearHold
        ++ (bytesOf 2 r.retest ++ bytesOf 2 r.guard))))))))))))) := by
    simp [settingsRecordBytes, ← byte_eq_bytesOf]
  have gauges : ∀ rest, fields (fieldBytes 4 r.gauge ++ rest) 0 4 4 = r.gauge := fun rest => by
    have here := fields_here (k := 4) (rest := rest) gauge
    rwa [four] at here
  have indexes : ∀ rest, fields (fieldBytes 1 r.gaugeIndex ++ rest) 0 1 64 = r.gaugeIndex := fun rest => by
    have here := fields_here (k := 1) (rest := rest) index
    rwa [sixtyFour] at here
  simp [readSettings, bytes, field_here, field_past, field_whole, fields_past, four, sixtyFour, gauges, indexes, foreign,
    loop, ground, insulation, imbalance, wait, suspend, decay, opens, clears, hold, retest, guard]

/-! ## Command records (R209, R210) -/

/-- A record whose length is the one of its code is read by its body. -/
theorem decodeCommand_record {code : Nat} {body : List Byte} (length : commandLength code = some (body.length + 2))
    (small : code < 256) (fits : body.length + 2 < 256) :
    decodeCommand (commandRecord code body) = readBody code body := by
  simp [decodeCommand, commandRecord, byte_toNat small, byte_toNat fits, takenLength, length]

/-- A record of a wrong code or length is read as BAD_COMMAND. -/
theorem decodeCommand_bad {code length : Nat} (formed : (Instr.badCommand code length).wellFormed = true) :
    decodeCommand (byte code :: byte length :: List.replicate (takenLength length - 2) 0)
      = some (.badCommand code length) := by
  simp only [Instr.wellFormed, Bool.and_eq_true, fits1_iff, bne_iff_ne, ne_eq] at formed
  obtain ⟨⟨codeFits, lengthFits⟩, wrong⟩ := formed
  have two : 2 ≤ takenLength length := Nat.le_max_left 2 length
  simp [decodeCommand, byte_toNat codeFits, byte_toNat lengthFits, Nat.sub_add_cancel two, wrong]

theorem orderBytes_length {o : OrderRecord} (formed : o.wellFormed = true) : (orderBytes o).length = 56 := by
  simp only [OrderRecord.wellFormed, Bool.and_eq_true, decide_eq_true_eq] at formed
  obtain ⟨⟨_, twelve⟩, _⟩ := formed
  simp [orderBytes, twelve]

theorem settingsRecordBytes_length {r : SettingsRecord} (formed : r.wellFormed = true) :
    (settingsRecordBytes r).length = 107 := by
  simp only [SettingsRecord.wellFormed, Bool.and_eq_true, decide_eq_true_eq] at formed
  obtain ⟨⟨⟨⟨⟨⟨⟨⟨⟨⟨⟨⟨_, four⟩, _⟩, sixtyFour⟩, _⟩, _⟩, _⟩, _⟩, _⟩, _⟩, _⟩, _⟩, _⟩ := formed
  simp [settingsRecordBytes, four, sixtyFour]

/-- Settles O20: the check reads back from bytes 8 and 9, and each field from its place in the body. -/
theorem noticesReadBack : Obligations.NoticesReadBack := by
  intro station n low ranged
  exact ⟨noticeBytes_length station n, noticeBytes_checked station n, noticeBytes_source n low,
    readNotice_noticeBytes low ranged⟩

/-- Settles O8: the record's length is the one of its code, and its body reads back field by field. -/
theorem commandRecordsReadBack : Obligations.CommandRecordsReadBack := by
  intro c bytes formed encoded
  cases c with
  | badCommand code length =>
    cases encoded
    exact decodeCommand_bad formed
  | submitOrder o =>
    cases encoded
    have size : (orderBytes o).length = 56 := orderBytes_length formed
    rw [decodeCommand_record (by rw [size]; rfl) (by omega) (by omega)]
    simp only [readBody, readOrder_orderBytes formed]
  | sweepStart r =>
    cases encoded
    have size : (sweepStartBytes r).length = 7 := by simp [sweepStartBytes]
    rw [decodeCommand_record (by rw [size]; rfl) (by omega) (by omega)]
    simp only [readBody, readSweepStart_bytes formed]
  | loadSettings r =>
    cases encoded
    have size : (settingsRecordBytes r).length = 107 := settingsRecordBytes_length formed
    rw [decodeCommand_record (by rw [size]; rfl) (by omega) (by omega)]
    simp only [readBody, readSettings_bytes formed]
  | setFilter marks v m =>
    cases encoded
    simp only [Instr.wellFormed, Bool.and_eq_true, decide_eq_true_eq, List.all_eq_true, fits1_iff, fits2_iff] at formed
    obtain ⟨⟨⟨six, marksFit⟩, value⟩, mask⟩ := formed
    have accepts := fields_here (k := 1) (rest := bytesOf 2 v ++ bytesOf 2 m) marksFit
    rw [six] at accepts
    rw [decodeCommand_record (by simp [six, commandLength]) (by omega) (by simp [six])]
    simp [readBody, accepts, field_past, field_here, field_whole, six, value, mask]
  | setLineClass f n r o =>
    cases encoded
    simp only [Instr.wellFormed, Bool.and_eq_true, fits1_iff, fits2_iff] at formed
    obtain ⟨⟨⟨first, count⟩, repetition⟩, offset⟩ := formed
    have bytes : bytesOf 2 f ++ bytesOf 2 n ++ [byte r, byte o]
        = bytesOf 2 f ++ (bytesOf 2 n ++ (bytesOf 1 r ++ bytesOf 1 o)) := by simp [bytesOf]
    rw [bytes, decodeCommand_record (by simp [commandLength]) (by omega) (by simp)]
    simp [readBody, field_past, field_here, field_whole, first, count, repetition, offset]
  | readTicketByPlace p | setCriticalLevel p =>
    cases encoded
    simp only [Instr.wellFormed, fits1_iff] at formed
    rw [byte_eq_bytesOf, decodeCommand_record (by simp [commandLength]) (by omega) (by simp)]
    simp [readBody, field_whole, formed]
  | cancelOrder n | resumeOrder n | readLineRecord n | readTicketByIdent n | assignTicket n | closeTicket n =>
    cases encoded
    simp only [Instr.wellFormed, fits2_iff] at formed
    rw [decodeCommand_record (by simp [commandLength]) (by omega) (by simp)]
    simp [readBody, field_whole, formed]
  | setTime n =>
    cases encoded
    simp only [Instr.wellFormed, fits4_iff] at formed
    rw [decodeCommand_record (by simp [commandLength]) (by omega) (by simp)]
    simp [readBody, field_whole, formed]
  | readCompletion | readReport | readStatus | sweepStop | sweepContinue | clearRecords | readForeignTickets | join
  | stationReset | clearErrors | pollRestart =>
    cases encoded
    rfl
  | _ => cases encoded

end Sys2Proof.Machine

/-! SUPPORT. What each kind of heard notice does where no own claim stands against it (O31). -/

namespace Sys2Proof.Machine

variable {s t : State}

/-! ## The foreign ticket cache (R170) -/

theorem filter_mid {α : Type} {q : α → Bool} {l front back : List α} {y : α} (hl : l = front ++ y :: back)
    (out : q y = false) (others : ∀ z ∈ front ++ back, q z = true) : l.filter q = front ++ back := by
  rw [hl, List.filter_append, List.filter_cons, out, if_neg Bool.false_ne_true, ← List.filter_append]
  exact List.filter_eq_self.mpr others

section Cache

variable {cache : List ForeignTicket} {e : ForeignTicket}

theorem cacheHear_known {before after : List ForeignTicket} {x : ForeignTicket} (known : cache = before ++ x :: after)
    (ident : x.ident = e.ident) (others : ∀ y ∈ before ++ after, y.ident ≠ e.ident) :
    cacheHear cache e
      = if e.state = .closed then before ++ after
        else (before ++ after).filter (fun y => y.line != e.line) ++ [e] := by
  have listed : cache.any (fun x => x.ident == e.ident) = true := by simp [known, ident]
  have kept : cache.filter (fun x => x.ident != e.ident) = before ++ after :=
    filter_mid known (by simp [ident]) (fun y hy => by simpa using others y hy)
  have both : cache.filter (fun x => x.ident != e.ident && x.line != e.line)
      = (before ++ after).filter (fun y => y.line != e.line) := by
    rw [← kept, List.filter_filter]
    exact List.filter_congr (fun y _ => Bool.and_comm _ _)
  rw [cacheHear, if_pos listed, kept, both]

theorem cacheHear_unknown (unknown : ∀ x ∈ cache, x.ident ≠ e.ident) :
    cacheHear cache e
      = if e.state = .closed then cache
        else
          let kept := cache.filter (fun x => x.line != e.line)
          (if 32 ≤ kept.length then kept.drop 1 else kept) ++ [e] := by
  have listed : ¬ cache.any (fun x => x.ident == e.ident) = true := by simpa using unknown
  rw [cacheHear, if_neg listed]

theorem otherLines_filter {l : List ForeignTicket} (others : ∀ y ∈ l, y.line ≠ e.line) :
    l.filter (fun y => y.line != e.line) = l :=
  List.filter_eq_self.mpr (fun y hy => by simpa using others y hy)

theorem line_filter {l front back : List ForeignTicket} {y : ForeignTicket} (hl : l = front ++ y :: back)
    (line : y.line = e.line) (others : ∀ z ∈ front ++ back, z.line ≠ e.line) :
    l.filter (fun y => y.line != e.line) = front ++ back :=
  filter_mid hl (by simp [line]) (fun z hz => by simpa using others z hz)

end Cache

/-- The table of R170, row by row. -/
theorem cache_clauses (cache : List ForeignTicket) (e : ForeignTicket) :
    (∀ before x after, cache = before ++ x :: after → x.ident = e.ident → (∀ y ∈ before ++ after, y.ident ≠ e.ident) →
      (e.state = .closed → cacheHear cache e = before ++ after)
      ∧ (e.state ≠ .closed → (∀ y ∈ before ++ after, y.line ≠ e.line) → cacheHear cache e = before ++ after ++ [e])
      ∧ (∀ front y back, e.state ≠ .closed → before ++ after = front ++ y :: back → y.line = e.line →
          (∀ z ∈ front ++ back, z.line ≠ e.line) →
        cacheHear cache e = front ++ back ++ [e]))
    ∧ ((∀ x ∈ cache, x.ident ≠ e.ident) →
      (e.state = .closed → cacheHear cache e = cache)
      ∧ (∀ before x after, e.state ≠ .closed → cache = before ++ x :: after → x.line = e.line →
          (∀ y ∈ before ++ after, y.line ≠ e.line) → cache.length ≤ 32 →
        cacheHear cache e = before ++ after ++ [e])
      ∧ (e.state ≠ .closed → (∀ x ∈ cache, x.line ≠ e.line) → cache.length < 32 → cacheHear cache e = cache ++ [e])
      ∧ (∀ x rest, e.state ≠ .closed → (∀ y ∈ cache, y.line ≠ e.line) → cache = x :: rest → cache.length = 32 →
        cacheHear cache e = rest ++ [e])) := by
  refine ⟨fun before x after known ident others => ⟨?_, ?_, ?_⟩, fun unknown => ⟨?_, ?_, ?_, ?_⟩⟩
  · intro closed
    rw [cacheHear_known known ident others, if_pos closed]
  · intro open_ lines
    rw [cacheHear_known known ident others, if_neg open_, otherLines_filter lines]
  · intro front y back open_ mid line lines
    rw [cacheHear_known known ident others, if_neg open_, line_filter mid line lines]
  · intro closed
    rw [cacheHear_unknown unknown, if_pos closed]
  · intro before x after open_ mid line lines few
    have short : ¬ 32 ≤ (before ++ after).length := by
      rw [mid] at few
      simp only [List.length_append, List.length_cons] at few ⊢
      omega
    rw [cacheHear_unknown unknown, if_neg open_]
    dsimp only
    rw [line_filter mid line lines, if_neg short]
  · intro open_ lines few
    rw [cacheHear_unknown unknown, if_neg open_]
    dsimp only
    rw [otherLines_filter lines, if_neg (by omega)]
  · intro x rest open_ lines front full
    rw [cacheHear_unknown unknown, if_neg open_]
    dsimp only
    rw [otherLines_filter lines, if_pos (by omega), front]
    rfl

/-! ## What the tickets leave alone (Chapter 8) -/

/-- What a change of the ticket table leaves as it was (R155, R165). -/
def State.BesideTickets (s t : State) : Prop :=
  t.claims = s.claims ∧ t.chain = s.chain ∧ t.head = s.head ∧ t.seq = s.seq ∧ t.time = s.time ∧ t.sweep = s.sweep
    ∧ t.settings = s.settings ∧ t.straps = s.straps

namespace State.BesideTickets

theorem refl (s : State) : s.BesideTickets s := ⟨rfl, rfl, rfl, rfl, rfl, rfl, rfl, rfl⟩

theorem claims (h : s.BesideTickets t) : t.claims = s.claims := by
  obtain ⟨claims, _⟩ := h
  exact claims

theorem chain (h : s.BesideTickets t) : t.chain = s.chain := by
  obtain ⟨_, chain, _⟩ := h
  exact chain

theorem offer (h : s.BesideTickets t) (tx : Tx) : s.BesideTickets (t.offer tx) := by
  rw [State.offer_line]
  exact h

theorem post (h : s.BesideTickets t) (c : ReportContent) : s.BesideTickets (t.post c) := by
  obtain ⟨claims, chain, head, seq, time, sweep, settings, straps⟩ := h
  simp only [State.BesideTickets, State.post_claims, State.post_chain, State.post_head, State.post_seq, State.post_time,
    State.post_sweep, State.post_settings, State.post_straps]
  exact ⟨claims, chain, head, seq, time, sweep, settings, straps⟩

theorem capture (h : s.BesideTickets t) (d : ErrorDetail) : s.BesideTickets (t.capture d) := by
  obtain ⟨claims, chain, head, seq, time, sweep, settings, straps⟩ := h
  simp only [State.BesideTickets, State.capture_claims, State.capture_chain, State.capture_head, State.capture_seq,
    State.capture_time, State.capture_sweep, State.capture_settings, State.capture_straps]
  exact ⟨claims, chain, head, seq, time, sweep, settings, straps⟩

theorem announceTicket (h : s.BesideTickets t) (before : Option TicketState) (k : Ticket) (cause : TicketCause) :
    s.BesideTickets (t.announceTicket before k cause) :=
  (State.BesideTickets.offer h _).post _

theorem moveTicket (h : s.BesideTickets t) (k : Ticket) (f : Ticket → Ticket) (cause : TicketCause) :
    s.BesideTickets (t.moveTicket k f cause) :=
  State.BesideTickets.announceTicket (t := t.updateTicket k.ident f) h _ _ _

theorem openTicket (h : s.BesideTickets t) (line : Nat) (v : Verdict) (time : Nat) (cause : TicketCause) :
    s.BesideTickets (t.openTicket line v time cause) := by
  unfold State.openTicket
  split
  · exact State.BesideTickets.announceTicket (by exact h) _ _ _
  · exact State.BesideTickets.capture (by exact h) _

theorem ticketMove (h : s.BesideTickets t) (k : Ticket) (v : Verdict) (time level : Nat) :
    s.BesideTickets (t.ticketMove k v time level) := by
  unfold State.ticketMove
  split
  · split
    · exact h.moveTicket _ _ _
    · exact h
  · exact h
  · split
    · exact h.moveTicket _ _ _
    · exact h

theorem ticketVerdict (h : s.BesideTickets t) (line : Nat) (v : Verdict) (time level : Nat) :
    s.BesideTickets (t.ticketVerdict line v time level) := by
  unfold State.ticketVerdict
  dsimp only
  split
  · split
    · exact State.BesideTickets.ticketMove (by exact h) _ _ _ _
    · exact h
  · split
    · split
      · exact h
      · exact h.openTicket _ _ _ _
    · split
      · exact h.openTicket _ _ _ _
      · exact h

theorem applyVerdict (h : s.BesideTickets t) (d : Delivery) : s.BesideTickets (t.applyVerdict d) := by
  unfold State.applyVerdict
  split
  · exact h
  · exact State.BesideTickets.ticketVerdict (by exact h) _ _ _ _

theorem filtered (h : s.BesideTickets t) (station : Nat) (n : Notice) :
    s.BesideTickets (offeredToFilter t station n) := by
  unfold offeredToFilter
  split
  · exact h.post _
  · exact h

end State.BesideTickets

/-! ## A heard notice of another station (R33, R197) -/

/-- A notice of another station is handed on, offered to the filter, and a waiting claim is tested on a changed table. -/
theorem exec_heard {station : Nat} {n : Notice} (hears : s.Hears) (low : station ≤ 15) (other : station ≠ s.straps.station)
    (ranged : n.InRange station) :
    exec (.noticeReceived (noticeBytes station n)) s
      = .next ((offeredToFilter (s.afterNotice.handOn station n) station n).testIfChanged s.afterNotice).pump := by
  have source : sourceOf (noticeBytes station n) ≠ s.afterNotice.straps.station := by
    rw [noticeBytes_source n low]
    exact other
  rw [exec_noticeReceived (noticeBytes_length station n) hears, State.takeNotice, noticeBytes_checked, Bool.not_true,
    if_neg Bool.false_ne_true, readNotice_noticeBytes low ranged]
  dsimp only
  rw [if_neg source, noticeBytes_source n low]
  rfl

/-- What a heard notice comes to where its block changes neither the chain nor, with a claim waiting, the table. -/
theorem exec_heard_quietly {station : Nat} {n : Notice} {x : State} (hears : s.Hears) (idle : s.NothingToGrant)
    (low : station ≤ 15) (other : station ≠ s.straps.station) (ranged : n.InRange station)
    (handed : s.afterNotice.handOn station n = x) (chain : x.chain = s.chain)
    (untested : x.claims = s.claims ∨ x.claims.opening = none) :
    exec (.noticeReceived (noticeBytes station n)) s = .next (offeredToFilter x station n) := by
  have beside := State.BesideTickets.filtered (State.BesideTickets.refl x) station n
  have tested : (offeredToFilter x station n).testIfChanged s.afterNotice = offeredToFilter x station n := by
    rcases untested with same | noOpening
    · exact State.testIfChanged_same (by rw [beside.claims, same]; rfl)
    · exact State.testIfChanged_noOpening (by rw [beside.claims, noOpening])
  rw [exec_heard hears low other ranged, handed, tested, State.pump_alike idle (by rw [beside.chain, chain])]

/-! ## Without an own claim (R56 to R59) -/

theorem entryAt_noOwn (noOwn : ∀ e ∈ s.claims.entries, e.own? = none) (b : Nat) (c : OwnClaim) : s.entryAt b ≠ .own c := by
  intro entry
  have listed : s.entryAt b ∈ s.claims.entries := by
    have inside : b < s.claims.entries.length := State.entryAt_lt entry
    rw [State.entryAt, List.getD_eq_getElem _ _ inside]
    exact List.getElem_mem inside
  have none_ := noOwn _ listed
  rw [entry] at none_
  exact absurd none_ (by simp [Entry.own?])

theorem ownAt_noOwn (noOwn : ∀ e ∈ s.claims.entries, e.own? = none) (b : Nat) : s.ownAt b = none := by
  unfold State.ownAt
  split
  · exact absurd (by assumption) (entryAt_noOwn noOwn b _)
  · rfl

theorem foldl_stands {α β : Type} {f : β → α → β} {l : List α} {x : β} (h : ∀ a ∈ l, f x a = x) : l.foldl f x = x := by
  induction l with
  | nil => rfl
  | cons a l ih =>
    rw [List.foldl_cons, h a (by simp)]
    exact ih (fun b hb => h b (by simp [hb]))

theorem State.ownRules_noOwn (noOwn : ∀ e ∈ s.claims.entries, e.own? = none) (meet : State → OwnClaim → Nat → State)
    (p : Pair) : s.ownRules meet p = s := by
  refine foldl_stands (fun b _ => ?_)
  split
  · exact absurd (by assumption) (entryAt_noOwn noOwn b _)
  · rfl

theorem ownConflict_noOwn {es : List Entry} (noOwn : ∀ e ∈ es, e.own? = none) (p : Pair) : ownConflict p es = false := by
  simp only [ownConflict, Bool.not_eq_false', allEntries_iff]
  intro b inside
  have none_ := noOwn _ (List.getElem_mem inside)
  rw [List.getD_eq_getElem _ _ inside]
  revert none_
  cases es[b] <;> simp [Entry.own?]

theorem State.bookClaim_noOwn (noOwn : ∀ e ∈ s.claims.entries, e.own? = none) (h : HeardClaim) :
    s.bookClaim h = s.setClaims { s.claims with entries := hearClaim h (s.time.now + ms 3000) s.claims.entries } := by
  rw [State.bookClaim, ownConflict_noOwn noOwn, if_neg Bool.false_ne_true]
  rfl

/-- What a heard RELEASE does to the own claim on a bus, if one stands there (R42, R44, R52). -/
def releaseHeardAt (station : Nat) (p : Pair) (s : State) (b : Nat) : State :=
  match s.ownAt b with
  | some c =>
    (if awaits c station p then (s.updateOwn b (fun c => c.unawait station p)).awaitedLeft b else s).endDisturbance b
      station p
  | none => s

theorem State.hearReleaseOf_eq (s : State) (station : Nat) {p : Pair} (inside : p.bus < s.claims.entries.length) :
    s.hearReleaseOf station p
      = (let x := (List.range s.claims.entries.length).foldl (releaseHeardAt station p) s
         x.setClaims { x.claims with entries := hearRelease station p x.claims.entries }) := by
  rw [State.hearReleaseOf, if_neg (by omega)]
  rfl

/-- A heard RELEASE without an own claim acts on the PEER entry alone (R59). -/
theorem State.hearReleaseOf_noOwn (noOwn : ∀ e ∈ s.claims.entries, e.own? = none) (station : Nat) {p : Pair}
    (inside : p.bus < s.claims.entries.length) :
    s.hearReleaseOf station p
      = s.setClaims { s.claims with entries := hearRelease station p s.claims.entries } := by
  have stands : (List.range s.claims.entries.length).foldl (releaseHeardAt station p) s = s :=
    foldl_stands (fun b _ => by rw [releaseHeardAt, ownAt_noOwn noOwn b])
  rw [State.hearReleaseOf_eq s station inside, stands]

theorem hearRelease_peer {station : Nat} {p : Pair} {q : PeerClaim} (entry : s.entryAt p.bus = .peer q)
    (own : q.station = station) (line : q.line = p.line) :
    hearRelease station p s.claims.entries = s.claims.entries.set p.bus .free := by
  have at_ : s.claims.entries.getD p.bus .free = .peer q := entry
  rw [hearRelease, at_]
  exact if_pos ⟨own, line⟩

theorem hearRelease_stands {station : Nat} {p : Pair}
    (h : ∀ q, s.entryAt p.bus = .peer q → q.station ≠ station ∨ q.line ≠ p.line) :
    hearRelease station p s.claims.entries = s.claims.entries := by
  unfold hearRelease
  split
  · rename_i q entry
    have apart := h q entry
    rw [if_neg (by tauto)]
  · rfl

/-! ## An ANNOUNCE (R48) -/

theorem State.offerRenewal_claims (s : State) (u : Urgency) (p : Pair) : (s.offerRenewal u p).claims = s.claims := by
  rw [State.offerRenewal, State.offer_line]
  rfl

/-- The renewals offered one after the other leave the claims and the chain as they were. -/
theorem State.BesideTickets.renewals (h : s.BesideTickets t) (l : List (Urgency × Pair)) :
    s.BesideTickets (l.foldl (fun x y => x.offerRenewal y.1 y.2) t) := by
  induction l generalizing t with
  | nil => exact h
  | cons y l ih => exact ih (h.offer _)

theorem State.answerAnnounce_eq (claims : t.claims = s.claims) :
    t.answerAnnounce = (standingClaims s).foldl (fun x y => x.offerRenewal y.1 y.2) t := by
  unfold State.answerAnnounce standingClaims
  rw [claims]
  generalize List.range s.claims.entries.length = l
  induction l generalizing t with
  | nil => rfl
  | cons b l ih =>
    have at_ : t.entryAt b = s.entryAt b := by rw [State.entryAt, State.entryAt, claims]
    rw [List.foldl_cons, List.filterMap_cons]
    cases entry : s.entryAt b with
    | own c =>
      rw [State.ownAt_own (at_.trans entry)]
      dsimp only
      split
      · exact ih ((State.offerRenewal_claims _ _ _).trans claims)
      · exact ih claims
    | peer q =>
      have noOwn : t.ownAt b = none := by unfold State.ownAt; rw [at_, entry]
      rw [noOwn]
      exact ih claims
    | free =>
      have noOwn : t.ownAt b = none := by unfold State.ownAt; rw [at_, entry]
      rw [noOwn]
      exact ih claims

/-- The kilohms of a VERDICT notice as a resistance (R141). -/
theorem worstOfKohm_eq {k : Nat} (ranged : k ≤ 65535) :
    worstOfKohm k
      = if k = 0 then { ohms := 10, mark := .atOrBelow }
        else if k = 65535 then { ohms := 999999999, mark := .openLine }
        else { ohms := k * 1000, mark := .none } := by
  unfold worstOfKohm
  have top : 65535 ≤ k ↔ k = 65535 := by omega
  simp only [top]

/-- Settles O31: the notice reads back, its block takes it, and nothing is tested or granted after it. -/
theorem heardNoticeGoesToItsBlock : Obligations.HeardNoticeGoesToItsBlock := by
  refine ⟨cache_clauses, ?_⟩
  intro s station n hears idle low other ranged t c ht hc
  subst ht hc
  refine ⟨fun noOpening noOwn => ⟨?_, ?_, ?_⟩, ?_, ?_, ?_⟩
  · rintro u p rfl
    refine exec_heard_quietly hears idle low other ranged ?_ rfl (.inr noOpening)
    simp only [State.handOn]
    rw [State.ownRules_noOwn (by exact noOwn), State.bookClaim_noOwn (by exact noOwn)]
    rfl
  · rintro u p m rfl
    refine exec_heard_quietly hears idle low other ranged ?_ rfl (.inr noOpening)
    simp only [State.handOn]
    rw [State.ownRules_noOwn (by exact noOwn), State.bookClaim_noOwn (by exact noOwn)]
    rfl
  · rintro p rfl
    refine ⟨fun q entry own line => ?_, fun apart => ?_⟩
    · have inside : p.bus < s.claims.entries.length := by
        by_contra past
        rw [State.entryAt, List.getD_eq_default _ _ (by omega)] at entry
        cases entry
      refine exec_heard_quietly hears idle low other ranged ?_ rfl (.inr noOpening)
      simp only [State.handOn]
      rw [State.hearReleaseOf_noOwn (by exact noOwn) station (by exact inside),
        hearRelease_peer (by exact entry) own line]
      rfl
    · refine exec_heard_quietly hears idle low other ranged ?_ rfl (.inr noOpening)
      simp only [State.handOn]
      by_cases inside : p.bus < s.claims.entries.length
      · rw [State.hearReleaseOf_noOwn (by exact noOwn) station (by exact inside), hearRelease_stands (by exact apart)]
        rfl
      · rw [State.hearReleaseOf, if_pos (by exact Nat.le_of_not_lt inside)]
  · rintro rfl
    have beside := State.BesideTickets.renewals (State.BesideTickets.refl s.afterNotice) (standingClaims s)
    exact exec_heard_quietly hears idle low other ranged (State.answerAnnounce_eq rfl) (by rw [beside.chain]; rfl)
      (.inl (by rw [beside.claims]; rfl))
  · rintro i l st v rfl
    refine ⟨fun away => ?_, fun home => ?_⟩
    · refine exec_heard_quietly hears idle low other ranged ?_ rfl (.inl rfl)
      have away' : s.afterNotice.isHome l = false := away
      simp only [State.handOn, State.hearTicket, away', if_neg Bool.false_ne_true]
      rfl
    · refine exec_heard_quietly hears idle low other ranged ?_ rfl (.inl rfl)
      have home' : s.afterNotice.isHome l = true := home
      simp only [State.handOn, State.hearTicket, home', if_true]
  · rintro l v k rfl
    refine ⟨fun away => ?_, fun home => ?_⟩
    · refine exec_heard_quietly hears idle low other ranged ?_ rfl (.inl rfl)
      have away' : s.afterNotice.isHome l = false := away
      simp only [State.handOn, State.hearVerdict, away', if_neg Bool.false_ne_true]
    · rw [← worstOfKohm_eq ranged.2]
      have beside := State.BesideTickets.applyVerdict (State.BesideTickets.refl s.afterNotice)
        { line := l, verdict := v, tester := station, worst := some (worstOfKohm k), length := none }
      refine exec_heard_quietly hears idle low other ranged ?_ (by rw [beside.chain]; rfl) (.inl (by rw [beside.claims]; rfl))
      have home' : s.afterNotice.isHome l = true := home
      simp only [State.handOn, State.hearVerdict, home', if_true]

end Sys2Proof.Machine

/-! SUPPORT. The PEER entries after a heard CLAIM or HOLD, entry by entry (O32). -/

namespace Sys2Proof.Machine

section

variable {h : HeardClaim} {expiry b : Nat} {es : List Entry}

/-- One entry set against a notice of its own station (R57, R58). -/
def settledAt (h : HeardClaim) (expiry b : Nat) (e : Entry) : Entry :=
  match e with
  | .peer c =>
    if c.station ≠ h.station then .peer c
    else if b = h.pair.bus ∧ c.line = h.pair.line then
      .peer { c with urgency := h.urgency, firm := h.firm, expiry := expiry }
    else if conflicts h.pair b (.peer c) then .free
    else .peer c
  | e => e

/-- One entry without a rival of a notice. -/
def rivalLeft (h : HeardClaim) (b : Nat) (e : Entry) : Entry := if (rivalAt h b e).isSome then .free else e

theorem settleOwnStation_length : (settleOwnStation h expiry es).length = es.length := by simp [settleOwnStation]

theorem dropRivals_length : (dropRivals h es).length = es.length := by simp [dropRivals]

theorem settleOwnStation_getD (inside : b < es.length) :
    (settleOwnStation h expiry es).getD b .free = settledAt h expiry b (es.getD b .free) := by
  rw [settleOwnStation, getD_map_range, if_pos inside]
  cases es.getD b .free <;> rfl

theorem dropRivals_getD (inside : b < es.length) : (dropRivals h es).getD b .free = rivalLeft h b (es.getD b .free) := by
  rw [dropRivals, getD_map_range, if_pos inside, rivalLeft]
  cases rivalAt h b (es.getD b .free) <;> rfl

theorem rivalAt_eq_some {e : Entry} {c : PeerClaim} :
    rivalAt h b e = some c ↔ e = .peer c ∧ c.station ≠ h.station ∧ (h.pair.bus = b ∨ h.pair.line = c.line) := by
  cases e with
  | peer d =>
    simp only [rivalAt, conflicts_peer]
    split
    · rename_i apart
      constructor
      · rintro ⟨⟩
        exact ⟨rfl, apart⟩
      · rintro ⟨⟨⟩, _⟩
        rfl
    · rename_i apart
      constructor
      · rintro ⟨⟩
      · rintro ⟨⟨⟩, apart'⟩
        exact absurd apart' apart
  | own c => simp [rivalAt]
  | free => simp [rivalAt]

/-- Setting an entry against its own station's notice makes no rival and takes none away. -/
theorem rivalAt_settledAt (e : Entry) : rivalAt h b (settledAt h expiry b e) = rivalAt h b e := by
  cases e with
  | peer c =>
    by_cases own : c.station = h.station
    · simp only [settledAt, own, ne_eq, not_true_eq_false, if_false]
      split_ifs <;> simp [rivalAt, own]
    · simp [settledAt, own]
  | own c => rfl
  | free => rfl

/-- The notice prevails over every rival of the settled table when it does over every one of the table. -/
theorem rivals_prevails_iff :
    (rivals h (settleOwnStation h expiry es)).all (prevails h) = true
      ↔ ∀ b < es.length, ∀ c, es.getD b .free = .peer c → c.station ≠ h.station →
          (b = h.pair.bus ∨ c.line = h.pair.line) → prevails h c = true := by
  have listed : ∀ c, c ∈ rivals h (settleOwnStation h expiry es)
      ↔ ∃ b < es.length, rivalAt h b (es.getD b .free) = some c := by
    intro c
    rw [rivals, List.mem_filterMap]
    constructor
    · rintro ⟨b, inside, at_⟩
      rw [List.mem_range, settleOwnStation_length] at inside
      rw [settleOwnStation_getD inside, rivalAt_settledAt] at at_
      exact ⟨b, inside, at_⟩
    · rintro ⟨b, inside, at_⟩
      refine ⟨b, ?_, ?_⟩
      · rwa [List.mem_range, settleOwnStation_length]
      · rwa [settleOwnStation_getD inside, rivalAt_settledAt]
  rw [List.all_eq_true]
  constructor
  · intro all b inside c entry apart conflict
    refine all c ((listed c).mpr ⟨b, inside, rivalAt_eq_some.mpr ⟨entry, apart, ?_⟩⟩)
    exact conflict.imp Eq.symm Eq.symm
  · intro all c mem
    obtain ⟨b, inside, at_⟩ := (listed c).mp mem
    obtain ⟨entry, apart, conflict⟩ := rivalAt_eq_some.mp at_
    exact all b inside c entry apart (conflict.imp Eq.symm Eq.symm)

theorem prevails_iff {c : PeerClaim} :
    prevails h c = true ↔
      if h.firm = true then c.firm = false ∨ precedes h.urgency h.station c.urgency c.station = true
      else c.firm = false ∧ precedes h.urgency h.station c.urgency c.station = true := by
  unfold prevails
  split <;> simp

theorem hearClaim_placed (inside : h.pair.bus < es.length)
    (wins : (rivals h (settleOwnStation h expiry es)).all (prevails h) = true) :
    hearClaim h expiry es
      = (dropRivals h (settleOwnStation h expiry es)).set h.pair.bus
          (.peer { station := h.station, line := h.pair.line, urgency := h.urgency, firm := h.firm, expiry := expiry }) := by
  rw [hearClaim, if_neg (by omega)]
  dsimp only
  rw [if_pos wins]

theorem hearClaim_ignored (inside : h.pair.bus < es.length)
    (loses : ¬ (rivals h (settleOwnStation h expiry es)).all (prevails h) = true) :
    hearClaim h expiry es = if h.firm then es else settleOwnStation h expiry es := by
  rw [hearClaim, if_neg (by omega)]
  dsimp only
  rw [if_neg loses]

/-- An entry of another bus once the notice is placed: a PEER entry of its line leaves, of whatever station. -/
theorem rivalLeft_settledAt (apart : b ≠ h.pair.bus) (e : Entry) :
    rivalLeft h b (settledAt h expiry b e)
      = match e with
        | .peer c => if c.line = h.pair.line then .free else .peer c
        | e => e := by
  cases e with
  | own c => rfl
  | free => rfl
  | peer c =>
    have conflict : conflicts h.pair b (.peer c) = true ↔ c.line = h.pair.line := by
      rw [conflicts_peer]
      exact ⟨fun k => k.elim (fun bus => absurd bus.symm apart) Eq.symm, fun line => .inr line.symm⟩
    by_cases own : c.station = h.station
    · simp only [settledAt, own, apart, conflict, ne_eq, not_true_eq_false, if_false, false_and, rivalLeft]
      split_ifs <;> simp_all [rivalAt]
    · simp only [settledAt, own, ne_eq, not_false_eq_true, if_true, rivalLeft, rivalAt, conflict, true_and]
      split_ifs <;> simp_all

end

/-- Settles O32: the settled table keeps its rivals, so the notice prevails on the table as it was heard on. -/
theorem peerEntriesFollowClaimsAndHolds : Obligations.PeerEntriesFollowClaimsAndHolds := by
  intro es station expiry u p firm inside noOwn es' wins hes' hwins
  let h : HeardClaim := { station := station, urgency := u, pair := p, firm := firm }
  have winsIff : wins ↔ (rivals h (settleOwnStation h expiry es)).all (prevails h) = true := by
    rw [hwins, rivals_prevails_iff]
    simp only [prevails_iff]
    rfl
  have placed (won : wins) := hearClaim_placed (h := h) (expiry := expiry) inside (winsIff.mp won)
  have ignored (lost : ¬ wins) := hearClaim_ignored (h := h) (expiry := expiry) inside (fun k => lost (winsIff.mpr k))
  rw [hes']
  refine ⟨?_, ?_, ?_, ?_⟩
  · by_cases won : wins
    · rw [placed won, List.length_set, dropRivals_length, settleOwnStation_length]
    · rw [ignored won]
      split
      · rfl
      · exact settleOwnStation_length
  · intro won
    have long : p.bus < (dropRivals h (settleOwnStation h expiry es)).length := by
      rwa [dropRivals_length, settleOwnStation_length]
    rw [placed won]
    refine ⟨?_, fun b within apart => ?_⟩
    · rw [List.getD_eq_getElem _ _ (by rw [List.length_set]; exact long)]
      simp [h]
    · have other : ∀ e, ((dropRivals h (settleOwnStation h expiry es)).set p.bus e).getD b .free
          = (dropRivals h (settleOwnStation h expiry es)).getD b .free := fun e => by
        simp only [List.getD_eq_getElem?_getD, List.getElem?_set_ne (Ne.symm apart)]
      rw [other, dropRivals_getD (by rwa [settleOwnStation_length]), settleOwnStation_getD within]
      refine (rivalLeft_settledAt (by exact apart) _).trans ?_
      cases es.getD b .free <;> rfl
  · intro lost isFirm
    rw [ignored lost]
    exact if_pos isFirm
  · intro lost notFirm b within
    have loose : ¬ h.firm = true := by rw [show h.firm = false from notFirm]; exact Bool.false_ne_true
    rw [ignored lost, if_neg loose, settleOwnStation_getD within]
    cases es.getD b .free with
    | own c => rfl
    | free => rfl
    | peer c =>
      have conflict : conflicts p b (.peer c) = true ↔ b = p.bus ∨ c.line = p.line := by
        rw [conflicts_peer, eq_comm, eq_comm (a := p.line)]
      simp only [settledAt, h, conflict]

end Sys2Proof.Machine

/-! SUPPORT. A conflicting notice of another station against this station's one claim (O33). -/

namespace Sys2Proof.Machine

variable {s t y : State}

/-! ## A table with one OWN entry (R38, R56) -/

/-- No OWN entry stands in a table but, it may be, at one bus. -/
def OwnsAtMost (es : List Entry) (b : Nat) : Prop := ∀ b' ≠ b, ownLine es b' = none

/-- No OWN entry stands in a table. -/
def OwnsNone (es : List Entry) : Prop := ∀ b, ownLine es b = none

theorem ownLine_none_iff {es : List Entry} {b : Nat} : ownLine es b = none ↔ (es.getD b .free).own? = none := by
  simp [ownLine]

theorem ownsAtMost_of {b : Nat} (h : ∀ b' < s.claims.entries.length, b' ≠ b → (s.entryAt b').own? = none) :
    OwnsAtMost s.claims.entries b := by
  intro b' apart
  by_cases inside : b' < s.claims.entries.length
  · exact ownLine_none_iff.mpr (h b' inside apart)
  · rw [ownLine, getD_free _ _ (by omega)]
    rfl

theorem OwnsAtMost.set {es : List Entry} {b : Nat} (h : OwnsAtMost es b) (e : Entry) : OwnsAtMost (es.set b e) b := by
  intro b' apart
  rw [ownLine, getD_set, if_neg (fun k => apart k.1.symm)]
  exact h b' apart

/-- With its one OWN entry gone and the awaited pairs put back, the table holds none. -/
theorem OwnsAtMost.left {es : List Entry} {b : Nat} (h : OwnsAtMost es b) (l : List Awaited) :
    OwnsNone (l.foldl putBack (es.set b .free)) := by
  intro b'
  by_contra owned
  obtain ⟨line, at_⟩ := Option.ne_none_iff_exists'.mp owned
  have before := (foldl_putBack l (es.set b .free)).2 b' line at_
  by_cases same : b' = b
  · subst same
    rw [ownLine, getD_set] at before
    split at before
    · cases before
    · rename_i past
      rw [getD_free _ _ (by omega)] at before
      cases before
  · rw [h.set .free b' same] at before
    cases before

theorem OwnsNone.hearClaim {es : List Entry} (none_ : OwnsNone es) (h : HeardClaim) (x : Nat) :
    OwnsNone (Sys2Proof.Machine.hearClaim h x es) := by
  intro b
  by_contra owned
  obtain ⟨line, at_⟩ := Option.ne_none_iff_exists'.mp owned
  have before := hearClaim_own h x es b line at_
  rw [none_ b] at before
  cases before

theorem OwnsNone.mem {es : List Entry} (none_ : OwnsNone es) : ∀ e ∈ es, e.own? = none := by
  intro e mem
  obtain ⟨b, inside, rfl⟩ := List.mem_iff_getElem.mp mem
  have at_ := ownLine_none_iff.mp (none_ b)
  rwa [List.getD_eq_getElem _ _ inside] at at_

theorem OwnsNone.ne {es es' : List Entry} (none_ : OwnsNone es) {b : Nat} {c : OwnClaim} (own : es'.getD b .free = .own c) :
    es ≠ es' := by
  rintro rfl
  have at_ := ownLine_none_iff.mp (none_ b)
  rw [own] at at_
  cases at_

theorem set_own_self {b : Nat} {c : OwnClaim} (entry : s.entryAt b = .own c) :
    s.claims.entries.set b (.own c) = s.claims.entries := by
  have inside := State.entryAt_lt entry
  rw [State.entryAt, List.getD_eq_getElem _ _ inside] at entry
  rw [← entry, List.set_getElem_self]

/-! ## The rules of the own claim, and then the table (R49, R56) -/

section

variable {b : Nat} {c : OwnClaim} {p : Pair} {meet : State → OwnClaim → Nat → State}

/-- What the rules make of the entry of a bus (R49, R56). -/
def ruleAt (meet : State → OwnClaim → Nat → State) (p : Pair) (s : State) (b : Nat) : State :=
  match s.entryAt b with
  | .own c => if conflicts p b (.own c) then meet s c b else s
  | _ => s

theorem State.ownRules_eq (s : State) (meet : State → OwnClaim → Nat → State) (p : Pair) :
    s.ownRules meet p = (List.range s.claims.entries.length).foldl (ruleAt meet p) s := rfl

theorem ruleAt_own (entry : s.entryAt b = .own c) (conflict : p.bus = b ∨ p.line = c.line) :
    ruleAt meet p s b = meet s c b := by
  rw [ruleAt, entry]
  exact if_pos (conflicts_own.mpr conflict)

theorem ruleAt_none (none_ : ownLine s.claims.entries b = none) : ruleAt meet p s b = s := by
  unfold ruleAt
  split
  · rename_i c' at_
    rw [ownLine_none_iff, show s.claims.entries.getD b .free = .own c' from at_] at none_
    cases none_
  · rfl

/-- What goes over the entries and acts on OWN entries alone acts once in a table with one of them. -/
theorem foldl_owns {f : State → Nat → State} (silent : ∀ x b', ownLine x.claims.entries b' = none → f x b' = x)
    (inside : b < s.claims.entries.length) (only : OwnsAtMost s.claims.entries b)
    (after : OwnsAtMost (f s b).claims.entries b) : (List.range s.claims.entries.length).foldl f s = f s b := by
  obtain ⟨front, back, split⟩ := List.append_of_mem (List.mem_range.mpr inside)
  have nodup : (front ++ b :: back).Nodup := split ▸ List.nodup_range
  have apart : b ∉ front ∧ b ∉ back := by
    rw [List.nodup_append] at nodup
    obtain ⟨_, tail, cross⟩ := nodup
    exact ⟨fun h => cross b h b (by simp) rfl, (List.nodup_cons.mp tail).1⟩
  have passes (x : State) (others : OwnsAtMost x.claims.entries b) (l : List Nat) (out : b ∉ l) : l.foldl f x = x :=
    foldl_stands (fun b' mem => silent x b' (others b' (fun same => out (same ▸ mem))))
  rw [split, List.foldl_append, passes s only front apart.1, List.foldl_cons]
  exact passes _ after back apart.2

/-- The rules of the one OWN entry are the rules of the claims. -/
theorem State.ownRules_only (entry : s.entryAt b = .own c) (only : OwnsAtMost s.claims.entries b)
    (conflict : p.bus = b ∨ p.line = c.line) (after : OwnsAtMost (meet s c b).claims.entries b) :
    s.ownRules meet p = meet s c b := by
  have met : ruleAt meet p s b = meet s c b := ruleAt_own entry conflict
  rw [State.ownRules_eq,
    foldl_owns (fun _ _ none_ => ruleAt_none none_) (State.entryAt_lt entry) only (by rwa [met]), met]

/-- The own claim stands, so the notice is not taken into the table. -/
theorem State.bookClaim_conflict {h : HeardClaim} {c' : OwnClaim} (entry : s.entryAt b = .own c')
    (conflict : h.pair.bus = b ∨ h.pair.line = c'.line) : s.bookClaim h = s := by
  refine if_pos ?_
  rw [ownConflict, Bool.not_eq_true', Bool.eq_false_iff]
  intro all
  have at_ := allEntries_get _ _ all b (State.entryAt_lt entry)
  rw [show s.claims.entries.getD b .free = .own c' from entry, conflicts_own.mpr conflict] at at_
  cases at_

/-- What the own claim makes of a CLAIM or a HOLD, as `handOn` asks it. -/
def MetBy (s : State) (c : OwnClaim) (b station : Nat) (u : Urgency) (p : Pair) (n : Notice) (firm : Bool) (y : State) : Prop :=
  n = .claim u p ∧ firm = false ∧ s.claimMeets c b station u p = y
    ∨ (∃ m, n = .hold u p m) ∧ firm = true ∧ s.holdMeets c b station u p = y

/-- The claim stands against the notice. -/
theorem State.handOn_stands {station : Nat} {u : Urgency} {n : Notice} {firm : Bool} {c' : OwnClaim}
    (entry : s.entryAt b = .own c) (only : OwnsAtMost s.claims.entries b) (conflict : p.bus = b ∨ p.line = c.line)
    (met : MetBy s c b station u p n firm y) (stands : y.claims.entries = s.claims.entries.set b (.own c'))
    (line : c'.line = c.line) : s.handOn station n = y := by
  have inside := State.entryAt_lt entry
  have others : OwnsAtMost y.claims.entries b := stands ▸ only.set _
  have own : y.entryAt b = .own c' := by
    rw [State.entryAt, stands, getD_set, if_pos ⟨rfl, inside⟩]
  have conflict' : p.bus = b ∨ p.line = c'.line := by rwa [line]
  rcases met with ⟨rfl, _, meets⟩ | ⟨⟨m, rfl⟩, _, meets⟩
  · simp only [State.handOn]
    rw [State.ownRules_only entry only conflict (by rw [meets]; exact others), meets,
      State.bookClaim_conflict own (by exact conflict')]
  · simp only [State.handOn]
    rw [State.ownRules_only entry only conflict (by rw [meets]; exact others), meets,
      State.bookClaim_conflict own (by exact conflict')]

/-- The claim has left the table, and the notice is taken into it. -/
theorem State.handOn_taken {station : Nat} {u : Urgency} {n : Notice} {firm : Bool} (entry : s.entryAt b = .own c)
    (only : OwnsAtMost s.claims.entries b) (conflict : p.bus = b ∨ p.line = c.line)
    (met : MetBy s c b station u p n firm y) (gone : OwnsNone y.claims.entries) :
    s.handOn station n
      = y.setClaims (defeatTaken y.claims { station := station, urgency := u, pair := p, firm := firm } y.time.now) := by
  rcases met with ⟨rfl, rfl, meets⟩ | ⟨⟨m, rfl⟩, rfl, meets⟩
  · simp only [State.handOn]
    rw [State.ownRules_only entry only conflict (by rw [meets]; exact fun b' _ => gone b'), meets,
      State.bookClaim_noOwn gone.mem]
    rfl
  · simp only [State.handOn]
    rw [State.ownRules_only entry only conflict (by rw [meets]; exact fun b' _ => gone b'), meets,
      State.bookClaim_noOwn gone.mem]
    rfl

end

/-! ## What the claim makes of a notice, by its state (R42 to R44, R49 to R53) -/

section

variable {b station : Nat} {c : OwnClaim} {u : Urgency} {p : Pair}

theorem State.claimMeets_asserts (kept : c.withdrawn = false)
    (stands : c.state = .held ∧ (c.urgency ≠ .routine ∨ u = .routine) ∨ c.state = .releasing ∨ c.state = .stuck) :
    s.claimMeets c b station u p = s.assertHold c.urgency { bus := b, line := c.line } := by
  simp only [State.claimMeets, kept, Bool.false_eq_true, if_false]
  rcases stands with ⟨state, either⟩ | state | state
  · rw [state]
    dsimp only
    rw [if_neg (by tauto)]
  · rw [state]
  · rw [state]

theorem State.claimMeets_yields (kept : c.withdrawn = false) (state : c.state = .held) (routine : c.urgency = .routine)
    (above : u ≠ .routine) : s.claimMeets c b station u p = s.takeFromJob { bus := b, line := c.line } .yielded := by
  simp [State.claimMeets, kept, state, routine, above]

/-- The claim in the making is lost, its CLAIM withdrawn while it is still SENDING (R42, R45). -/
def State.defeated (s : State) (c : OwnClaim) : State := if c.state = .sending then s.defeatSending else s.loseClaim

theorem State.claimMeets_loses (kept : c.withdrawn = false)
    (state : c.state = .sending ∨ c.state = .contest ∨ c.state = .awaitYield)
    (unknown : c.state = .awaitYield → awaits c station p = false)
    (wins : precedes u station c.urgency s.straps.station = true) : s.claimMeets c b station u p = s.defeated c := by
  simp only [State.claimMeets, kept, Bool.false_eq_true, if_false, wins, if_true]
  rcases state with state | state | state
  · simp [State.defeated, state]
  · simp [State.defeated, state]
  · simp [State.defeated, state, unknown state]

theorem State.claimMeets_stands (kept : c.withdrawn = false)
    (state : c.state = .sending ∨ c.state = .contest ∨ c.state = .awaitYield ∧ awaits c station p = false)
    (loses : ¬ precedes u station c.urgency s.straps.station = true) : s.claimMeets c b station u p = s := by
  simp only [State.claimMeets, kept, Bool.false_eq_true, if_false, loses]
  rcases state with state | state | ⟨state, unknown⟩
  · rw [state]
  · rw [state]
  · simp [state, unknown]

theorem State.claimMeets_refreshes (kept : c.withdrawn = false) (state : c.state = .awaitYield)
    (known : awaits c station p = true) :
    s.claimMeets c b station u p = s.updateOwn b (fun c => c.await station p (s.time.now + ms 3000)) := by
  simp only [State.claimMeets, kept, Bool.false_eq_true, if_false, state, known, if_true]
  rfl

theorem State.holdMeets_held (kept : c.withdrawn = false) (state : c.state = .held) :
    s.holdMeets c b station u p = s.doubleHold c b station u p := by
  simp [State.holdMeets, kept, state]

theorem State.holdMeets_passes (kept : c.withdrawn = false) (state : c.state = .releasing ∨ c.state = .stuck) :
    s.holdMeets c b station u p = s := by
  rcases state with state | state <;> simp [State.holdMeets, kept, state]

theorem State.holdMeets_loses (kept : c.withdrawn = false)
    (state : c.state = .sending ∨ c.state = .contest ∨ c.state = .awaitYield)
    (unknown : c.state = .awaitYield → awaits c station p = false) (firm : ¬ (u = .routine ∧ c.urgency ≠ .routine)) :
    s.holdMeets c b station u p = s.defeated c := by
  simp only [State.holdMeets, kept, Bool.false_eq_true, if_false, firm]
  rcases state with state | state | state
  · simp [State.defeated, state]
  · simp [State.defeated, state]
  · simp [State.defeated, state, unknown state]

theorem State.holdMeets_awaits (kept : c.withdrawn = false)
    (state : c.state = .awaitYield ∧ awaits c station p = true
      ∨ (c.state = .sending ∨ c.state = .awaitYield) ∧ (u = .routine ∧ c.urgency ≠ .routine)) :
    s.holdMeets c b station u p = s.updateOwn b (fun c => c.await station p (s.time.now + ms 3000)) := by
  simp only [State.holdMeets, kept, Bool.false_eq_true, if_false]
  rcases state with ⟨state, known⟩ | ⟨state | state, yields⟩
  · rw [state]
    dsimp only
    rw [if_pos (.inl known)]
    rfl
  · rw [state]
    dsimp only
    rw [if_pos yields]
    rfl
  · rw [state]
    dsimp only
    rw [if_pos (.inr yields)]
    rfl

theorem State.holdMeets_contest (kept : c.withdrawn = false) (state : c.state = .contest)
    (yields : u = .routine ∧ c.urgency ≠ .routine) :
    s.holdMeets c b station u p
      = s.updateOwn b (fun c =>
          { c.await station p (s.time.now + ms 3000) with state := .awaitYield, limit := s.time.now + ms 2000 }) := by
  simp only [State.holdMeets, kept, Bool.false_eq_true, if_false, state]
  rw [if_pos yields]
  rfl

theorem awaits_iff : awaits c station p = true ↔ ∃ a ∈ c.awaited, a.station = station ∧ a.pair = p := by
  simp [awaits]

theorem OwnClaim.await_eq (c : OwnClaim) (station : Nat) (p : Pair) (expiry : Nat) :
    c.await station p expiry = { c with awaited := awaitedWith c.awaited station p expiry } := by
  unfold OwnClaim.await awaitedWith
  simp only [awaits_iff]
  split <;> rfl

/-! ## Double holds (R51, R52) -/

theorem State.doubleHold_recorded (recorded : ∃ d ∈ c.disturbances, d.station = station ∧ d.pair = p) :
    s.doubleHold c b station u p = s := by
  refine if_pos ?_
  simpa using recorded

theorem State.doubleHold_lost (fresh : ∀ d ∈ c.disturbances, d.station ≠ station ∨ d.pair ≠ p)
    (loses : precedes c.urgency s.straps.station u station = false) :
    s.doubleHold c b station u p = s.takeFromJob { bus := b, line := c.line } .accessLost := by
  have unrecorded : ¬ c.disturbances.any (fun d => d.station == station && d.pair == p) = true := by
    simpa [not_and_or, imp_iff_not_or] using fresh
  unfold State.doubleHold
  dsimp only
  rw [if_neg unrecorded, loses, if_neg Bool.false_ne_true]

theorem State.doubleHold_won (entry : s.entryAt b = .own c)
    (fresh : ∀ d ∈ c.disturbances, d.station ≠ station ∨ d.pair ≠ p)
    (wins : precedes c.urgency s.straps.station u station = true) :
    s.doubleHold c b station u p
      = (s.setEntry b (.own
          { c with disturbances :=
              c.disturbances ++ [{ station := station, pair := p, deadline := s.time.now + ms 500 }] })).handDisturbed
          { bus := b, line := c.line } := by
  have unrecorded : ¬ c.disturbances.any (fun d => d.station == station && d.pair == p) = true := by
    simpa [not_and_or, imp_iff_not_or] using fresh
  unfold State.doubleHold
  dsimp only
  rw [if_neg unrecorded, if_pos wins, State.updateOwn_own entry]

@[simp] theorem State.setHead_self (s : State) : s.setHead s.head = s := rfl

theorem State.headDisturbed_eq (s : State) : s.headDisturbed = s.setHead (headAfterDisturbance s.head s.time.now) := by
  cases on : s.head.work.wasOn <;> cases activity : s.head.activity <;>
    simp only [State.headDisturbed, headAfterDisturbance, activity, on, State.setHead_self, if_true, if_false,
      Bool.false_eq_true]

end

end Sys2Proof.Machine

/-! SUPPORT. The release sequence at the head (R79, R123, R130), and the claims against a conflicting notice (O33). -/

namespace Sys2Proof.Machine

variable {s t y : State}

/-! ## The release sequence of the active job at the head -/

theorem State.headRelease_eq (s : State) : s.headRelease = s.setHead (headLeaves s.head s.time.now) := by
  cases activity : s.head.activity <;> simp only [State.headRelease, headLeaves, activity, State.setHead_self]

theorem suspensionEnded_bus (j : Job) (clock : Nat) : (suspensionEnded j clock).bus = j.bus := by
  unfold suspensionEnded
  split <;> rfl

theorem State.ownsHead_on {j : Job} {b : Nat} (active : s.seq.active = .job j) (bus : j.bus = some b)
    (head : s.head.bus = some b) (on : s.head.state ≠ .offBus) : s.ownsHead .active = true := by
  rw [State.ownsHead_active active, bus, head]
  simpa using on

theorem State.closeEvaluation_eq {j : Job} (active : s.seq.active = .job j) (owned : s.ownsHead .active = true) :
    s.closeEvaluation = s.setSlot .active (.job { j with results := closingResults s j }) := by
  unfold State.closeEvaluation closingResults
  rw [active]
  dsimp only
  by_cases closes : j.sweep.isNone = true ∧ s.claims.station ≠ .resetting
      ∧ (s.head.heldForeign.isSome = true ∨ s.head.heldResist.isSome = true ∨ s.head.heldCapacity.isSome = true)
  · obtain ⟨desk, station, held⟩ := closes
    rw [if_pos ⟨desk, station, owned, held⟩, if_pos ⟨desk, station, held⟩, State.updateJob_job (j := j) (by exact active)]
    rfl
  · rw [if_neg fun ⟨desk, station, _, held⟩ => closes ⟨desk, station, held⟩, if_neg closes]
    exact (State.setSlot_slot (id := .active) active).symm

theorem State.claimReleasing_setSlot (s : State) (id : SlotId) (x : Slot) (b : Nat) :
    (s.setSlot id x).claimReleasing b = (s.claimReleasing b).setSlot id x := by
  unfold State.claimReleasing State.updateOwn
  rw [show (s.setSlot id x).entryAt b = s.entryAt b by cases id <;> rfl]
  cases s.entryAt b <;> cases id <;> rfl

theorem State.claimReleasing_claims (s : State) (b : Nat) :
    s.claimReleasing b = s.setClaims (s.claimReleasing b).claims := by
  unfold State.claimReleasing State.updateOwn
  cases s.entryAt b <;> rfl

/-- The release sequence of the active job begins with the head on the bus or connecting to it (R79, R123, R130). -/
theorem State.beginRelease_onHead {j : Job} {b : Nat} (active : s.seq.active = .job j) (bus : j.bus = some b)
    (head : s.head.bus = some b) (on : s.head.state ≠ .offBus) :
    s.beginRelease .active
      = ((s.claimReleasing b).setSlot .active
          (.job
            { suspensionEnded j s.time.clock with
              results := closingResults s j
              phase := .releasing
              inserted := false })).setHead (headLeaves s.head s.time.now) := by
  have owned : s.ownsHead .active = true := State.ownsHead_on active bus head on
  have ended : { ({ j with results := closingResults s j } : Job).endSuspension s.time.clock with
        phase := .releasing, inserted := false }
      = { suspensionEnded j s.time.clock with results := closingResults s j, phase := .releasing, inserted := false } := by
    unfold suspensionEnded Job.endSuspension
    by_cases suspended : j.phase = .suspended
    · rw [if_pos (by exact suspended), if_pos suspended]
    · rw [if_neg (by exact suspended), if_neg suspended]
  rw [State.beginRelease_eq (State.slot_active active) bus]
  dsimp only
  rw [if_pos rfl, State.closeEvaluation_eq active owned, State.claimReleasing_setSlot, State.claimReleasing_claims,
    State.updateJob_job (j := { j with results := closingResults s j }) (by rfl), State.setSlot_setSlot]
  have now : (s.setSlot .active (.job { j with results := closingResults s j })).time.clock = s.time.clock := rfl
  rw [now, ended, if_pos, State.headRelease_eq]
  · rfl
  · exact State.ownsHead_on rfl ((suspensionEnded_bus _ _).trans bus) head on

/-- The active job's release sequence begins at the head with its claim HELD (R54, R79, R123, R130). -/
theorem State.beginRelease_atHead {j : Job} {b : Nat} {c : OwnClaim} (active : s.seq.active = .job j)
    (bus : j.bus = some b) (entry : s.entryAt b = .own c) (held : c.state = .held) (head : s.head.bus = some b)
    (on : s.head.state ≠ .offBus) :
    s.beginRelease .active = releaseBegun s (suspensionEnded j s.time.clock) b c := by
  have closing : closingResults s (suspensionEnded j s.time.clock) = closingResults s j := by
    unfold suspensionEnded
    split <;> rfl
  rw [State.beginRelease_onHead active bus head on, State.claimReleasing, State.updateOwn_own entry, if_pos held,
    releaseBegun, closing]
  rfl

/-- A job that holds its claim is abandoned with its head on the bus (R80, R125, R128). -/
theorem State.abandon_atHead {j : Job} {b : Nat} {c : OwnClaim} (active : s.seq.active = .job j) (bus : j.bus = some b)
    (entry : s.entryAt b = .own c) (held : c.state = .held) (head : s.head.bus = some b) (on : s.head.state ≠ .offBus)
    (status : EndStatus) (failing : Bool) :
    s.abandon .active status failing = abandonedAtHead s j b c status (if failing then some j.step else none) := by
  have told (k : Option Nat) (clock : Nat) : suspensionEnded { j with status := some status, failing := k } clock
      = { suspensionEnded j clock with status := some status, failing := k } := by
    unfold suspensionEnded
    by_cases suspended : j.phase = .suspended
    · rw [if_pos (by exact suspended), if_pos suspended]
    · rw [if_neg (by exact suspended), if_neg suspended]
  rw [State.abandon, State.updateJob_job (j := j) (by exact active),
    State.beginRelease_atHead (j := { j with status := some status, failing := if failing then some j.step else none })
      (b := b) (c := c) rfl bus (by exact entry) held (by exact head) (by exact on), told]
  rfl

/-! ## Jobs by their pair -/

theorem State.slotOf_staged {j : Job} {p : Pair}
    (away : ∀ i, s.seq.active = .job i → i.bus ≠ some p.bus ∨ i.order.line ≠ p.line) (staged : s.seq.staged = .job j)
    (bus : j.bus = some p.bus) (line : j.order.line = p.line) : s.slotOf p = some .staged := by
  have notActive : ¬ (s.seq.active.job?).any (fun j => j.bus == some p.bus && j.order.line == p.line) = true := by
    cases active : s.seq.active with
    | job i =>
      have apart := away i active
      simp only [Slot.job?, Option.any_some, Bool.and_eq_true, beq_iff_eq]
      tauto
    | _ => simp [Slot.job?]
  rw [State.slotOf, State.findSlot, if_neg notActive, if_pos]
  simp [staged, Slot.job?, bus, line]

theorem State.takeFromJob_slot {p : Pair} {id : SlotId} (slot : s.slotOf p = some id) (status : EndStatus) :
    s.takeFromJob p status = s.abandon id status (status == .accessLost) := by
  rw [State.takeFromJob, slot]

theorem State.connecting?_noOps {p : Pair} (ops : s.chain.ops = []) : s.connecting? p = false := by
  simp [State.connecting?, State.opOf, ops]

/-- The job in the staged slot is abandoned with nothing of it on the chain: its RELEASE is asked for (R123). -/
theorem State.abandon_staged {j : Job} {b : Nat} {c : OwnClaim} (staged : s.seq.staged = .job j)
    (ready : j.phase = .ready) (bus : j.bus = some b) (operated : j.nothingOperated = false)
    (entry : s.entryAt b = .own c) (held : c.state = .held) (ops : s.chain.ops = []) (status : EndStatus) (failing : Bool) :
    s.abandon .staged status failing
      = ((s.setClaims (claimReleased s.claims b c)).setSlot .staged
          (.job
            { j with
              status := some status
              failing := if failing then some j.step else none
              phase := .releasing
              inserted := false })).startRelease { bus := b, line := j.order.line } .release 1 := by
  rw [State.abandon, State.updateJob_job (j := j) (by exact staged),
    State.beginRelease_away (j := { j with status := some status, failing := if failing then some j.step else none })
      (b := b) (c := c) (State.slot_setSlot _ _ _) bus (by exact entry) (State.ownsHead_staged _)
      (by simp [ready]),
    State.releaseAtChain_starts (p := { bus := b, line := j.order.line }) (by exact State.slot_setSlot _ _ _) (by exact bus)
      (by rfl) (by exact operated) (State.connecting?_noOps (by exact ops)), if_pos held]
  rfl

/-- The RELEASE asked for by an idle chain's staged job is sent at once (R7, R123). -/
theorem State.startRelease_sent {p : Pair} (idle : s.ChainIdle) (ops : s.chain.ops = []) :
    (s.startRelease p .release 1).pump = s.setChain (releaseSent s.chain p s.time.now) := by
  rw [State.startRelease_pump idle]
  simp [State.putOp, State.startExchange, ops]
  rfl

/-! ## Disturbance (R52, R81, R124) -/

theorem State.handDisturbed_nobody {p : Pair} (slot : s.slotOf p = none) : s.handDisturbed p = s := by
  rw [State.handDisturbed, slot]

theorem State.handDisturbed_active {p : Pair} {j : Job} (active : s.seq.active = .job j) (bus : j.bus = some p.bus)
    (line : j.order.line = p.line) :
    s.handDisturbed p
      = { withActive s (disturbedJob j) with
          head :=
            if s.head.bus = some p.bus ∧ s.head.state ≠ .offBus then headAfterDisturbance s.head s.time.now
            else s.head } := by
  have told : s.updateJob .active (fun j => { j with disturbed := true, inserted := false }) = withActive s (disturbedJob j) :=
    State.updateJob_job (j := j) (by exact active) _
  unfold State.handDisturbed
  rw [State.slotOf_active active bus line]
  dsimp only
  rw [told]
  by_cases at_ : s.head.bus = some p.bus ∧ s.head.state ≠ .offBus
  · obtain ⟨head, on⟩ := at_
    have owned : (withActive s (disturbedJob j)).ownsHead .active = true :=
      State.ownsHead_on (j := disturbedJob j) rfl bus head on
    rw [if_pos owned, State.headDisturbed_eq, if_pos ⟨head, on⟩]
    rfl
  · have away : ¬ (withActive s (disturbedJob j)).ownsHead .active = true := by
      rw [State.ownsHead_active (j := disturbedJob j) rfl, show (disturbedJob j).bus = some p.bus from bus]
      intro on
      simp only [Option.isSome_some, Bool.true_and, Bool.and_eq_true, beq_iff_eq, bne_iff_ne] at on
      exact at_ on
    rw [if_neg away, if_neg at_]
    rfl

theorem State.handDisturbed_staged {p : Pair} {j : Job}
    (away : ∀ i, s.seq.active = .job i → i.bus ≠ some p.bus ∨ i.order.line ≠ p.line) (staged : s.seq.staged = .job j)
    (bus : j.bus = some p.bus) (line : j.order.line = p.line) :
    s.handDisturbed p = { s with seq := { s.seq with staged := .job (disturbedJob j) } } := by
  unfold State.handDisturbed
  rw [State.slotOf_staged away staged bus line]
  dsimp only
  rw [State.updateJob_job (j := j) (by exact staged), State.ownsHead_staged, if_neg Bool.false_ne_true]
  rfl

/-! ## A claim in the making that is lost to a notice (R42, R45) -/

/-- What the transmit queue holds after the CLAIM of a defeated claim has been withdrawn, where it had not been sent (R31). -/
def DefeatLeaves (t : State) (c : OwnClaim) (y : DeskLine) : Prop :=
  c.state = .sending ∧ ClaimStopped t y ∨ (c.state = .contest ∨ c.state = .awaitYield) ∧ y = t.line

theorem State.defeated_eq {c : OwnClaim} {y : DeskLine} (leaves : DefeatLeaves s c y) :
    s.defeated c = (s.setLine y).loseClaim := by
  rcases leaves with ⟨sending, stopped⟩ | ⟨announced, rfl⟩
  · rw [State.defeated, if_pos sending, State.defeatSending, State.withdrawClaim_stopped stopped]
  · have notSending : c.state ≠ .sending := by rcases announced with h | h <;> rw [h] <;> decide
    rw [State.defeated, if_neg notSending]
    rfl

theorem State.offerClaim_chain (s : State) (o : Opening) (b : Nat) : (s.offerClaim o b).chain = s.chain := by
  unfold State.offerClaim
  split
  · rw [State.loadFlight_line]
    rfl
  · rw [State.holdBack_line]
    rfl

theorem State.claimTest_chain (s : State) : s.claimTest.chain = s.chain := by
  unfold State.claimTest
  split
  · split
    · split
      · exact State.offerClaim_chain _ _ _
      · rfl
    · rfl
  · rfl

end Sys2Proof.Machine

/-! SUPPORT. The clauses on a conflicting notice of another station (O33). -/

namespace Sys2Proof.Machine

variable {s t y : State}

/-- The activity of a notice ends as its last symbol passes (R19, R20). -/
theorem State.afterNotice_ended (s : State) : s.afterNotice.line.endedAt = s.afterNotice.time.now :=
  (State.passTo_now s (s.line.startedAt + 500)).symm

/-- A notice heard where no notice passes the filter. -/
theorem exec_heard_silently {station : Nat} {n : Notice} {x : State} (hears : s.Hears) (low : station ≤ 15)
    (other : station ≠ s.straps.station) (ranged : n.InRange station)
    (silent : ∀ n : Notice, s.reports.filter.passes n = false) (handed : s.afterNotice.handOn station n = x)
    (filter : x.reports.filter = s.reports.filter) :
    exec (.noticeReceived (noticeBytes station n)) s = .next (x.testIfChanged s.afterNotice).pump := by
  have unposted : offeredToFilter x station n = x := by
    rw [offeredToFilter, filter, silent, if_neg Bool.false_ne_true]
  rw [exec_heard hears low other ranged, handed, unposted]

/-- The setting of the statements on one claim of this station and a conflicting notice of another. -/
structure Contested (s : State) (b station : Nat) (c : OwnClaim) (p : Pair) : Prop where
  hears : s.Hears
  idle : s.NothingToGrant
  low : station ≤ 15
  other : station ≠ s.straps.station
  bus : p.bus ≤ 3
  line : p.line ≤ 16383
  silent : ∀ n : Notice, s.reports.filter.passes n = false
  entry : s.entryAt b = .own c
  kept : c.withdrawn = false
  conflict : p.bus = b ∨ p.line = c.line
  only : OwnsAtMost s.claims.entries b

namespace Contested

variable {b station : Nat} {c : OwnClaim} {u : Urgency} {p : Pair} {n : Notice} {firm : Bool}

theorem inRange (h : Contested s b station c p) (met : MetBy t c b station u p n firm y) : n.InRange station := by
  rcases met with ⟨rfl, _⟩ | ⟨⟨m, rfl⟩, _⟩ <;> exact ⟨h.bus, h.line⟩

/-- The claim stands: what it makes of the notice is what the notice comes to. -/
theorem stands {c' : OwnClaim} (h : Contested s b station c p) (met : MetBy s.afterNotice c b station u p n firm y)
    (stands : y.claims.entries = s.claims.entries.set b (.own c')) (line : c'.line = c.line)
    (filter : y.reports.filter = s.reports.filter)
    (untested : y.claims.opening = none ∨ (∃ o b, y.claims.opening = some o ∧ o.placed = some b)) :
    exec (.noticeReceived (noticeBytes station n)) s = .next y.pump := by
  rw [exec_heard_silently h.hears h.low h.other (h.inRange met) h.silent
    (State.handOn_stands (s := s.afterNotice) h.entry h.only h.conflict met stands line) filter]
  rcases untested with none_ | ⟨o, b, opening, placed⟩
  · rw [State.testIfChanged_noOpening none_]
  · rw [State.testIfChanged_placed opening placed]

/-- The claim stands and the chain is as it was. -/
theorem stands_quietly {c' : OwnClaim} (h : Contested s b station c p) (met : MetBy s.afterNotice c b station u p n firm y)
    (stands : y.claims.entries = s.claims.entries.set b (.own c')) (line : c'.line = c.line)
    (filter : y.reports.filter = s.reports.filter)
    (untested : y.claims.opening = none ∨ (∃ o b, y.claims.opening = some o ∧ o.placed = some b))
    (chain : y.chain = s.chain) :
    exec (.noticeReceived (noticeBytes station n)) s = .next y := by
  rw [h.stands met stands line filter untested, State.pump_alike h.idle chain]

/-- The notice changes nothing. -/
theorem unmoved (h : Contested s b station c p) (met : MetBy s.afterNotice c b station u p n firm s.afterNotice)
    (untested : s.claims.opening = none ∨ (∃ o b, s.claims.opening = some o ∧ o.placed = some b)) :
    exec (.noticeReceived (noticeBytes station n)) s = .next s.afterNotice :=
  h.stands_quietly (c' := c) met (set_own_self h.entry).symm rfl rfl untested rfl

/-! ### HELD, RELEASING and STUCK -/

theorem asserts (h : Contested s b station c p) (opening : s.claims.opening = none)
    (state : c.state = .held ∧ (c.urgency ≠ .routine ∨ u = .routine) ∨ c.state = .releasing ∨ c.state = .stuck)
    (flight : s.line.flight = none) (queue : s.line.queue = []) :
    exec (.noticeReceived (noticeBytes station (.claim u p))) s = .next
      { s.afterNotice with
        line :=
          { s.afterNotice.line with
            flight :=
              some
                { tx := { notice := .hold c.urgency { bus := b, line := c.line } true, tag := .plain }
                  collisions := 0
                  phase := .waitQuiet
                  withdrawn := false } } } := by
  refine h.stands_quietly (c' := c) (firm := false) (.inl ⟨rfl, rfl, ?_⟩) (set_own_self h.entry).symm rfl rfl (.inl opening) rfl
  rw [State.claimMeets_asserts h.kept state, State.assertHold_room (ahead := []) (rest := []) (by exact queue)
    ⟨by simp, by simp⟩ (by simp), State.loadFlight_ended (by exact flight) (by exact State.afterNotice_ended s)]
  have same : ({ s.afterNotice.line with queue := [] } : DeskLine) = s.afterNotice.line := by
    rw [← show s.afterNotice.line.queue = [] from queue]
  exact congrArg (fun l : DeskLine => s.afterNotice.setLine
    { l with
      flight :=
        some
          { tx := { notice := .hold c.urgency { bus := b, line := c.line } true, tag := .plain }
            collisions := 0
            phase := .waitQuiet
            withdrawn := false } }) same

/-- The status with which a HELD claim's job ends by a notice, and whether it names its step (R50, R51, R125). -/
theorem taken (h : Contested s b station c p) {n : Notice} {status : EndStatus} {failing : Job → Option Nat}
    (state : c.state = .held)
    (cause : n = .claim u p ∧ c.urgency = .routine ∧ u ≠ .routine ∧ status = .yielded ∧ (∀ j, failing j = none)
      ∨ (∃ m, n = .hold u p m) ∧ precedes c.urgency s.straps.station u station = false
        ∧ (∀ d ∈ c.disturbances, d.station ≠ station ∨ d.pair ≠ p) ∧ status = .accessLost
        ∧ (∀ j, failing j = some j.step)) :
    (∃ firm, MetBy s.afterNotice c b station u p n firm (s.afterNotice.takeFromJob { bus := b, line := c.line } status))
      ∧ ∀ j : Job, (if (status == .accessLost) = true then some j.step else none) = failing j := by
  rcases cause with ⟨claim, routine, above, rfl, none_⟩ | ⟨hold, loses, fresh, rfl, some_⟩
  · exact ⟨⟨false, .inl ⟨claim, rfl, State.claimMeets_yields h.kept state routine above⟩⟩, fun j => (none_ j).symm⟩
  · refine ⟨⟨true, .inr ⟨hold, rfl, ?_⟩⟩, fun j => (some_ j).symm⟩
    rw [State.holdMeets_held h.kept state]
    exact State.doubleHold_lost fresh loses

theorem taken_atHead (h : Contested s b station c p) (opening : s.claims.opening = none) {n : Notice} {status : EndStatus}
    {failing : Option Nat} {j : Job} (state : c.state = .held)
    (met : ∃ firm, MetBy s.afterNotice c b station u p n firm
      (s.afterNotice.takeFromJob { bus := b, line := c.line } status))
    (names : (if (status == .accessLost) = true then some j.step else none) = failing) (active : s.seq.active = .job j)
    (bus : j.bus = some b) (line : j.order.line = c.line) (head : s.head.bus = some b) (on : s.head.state ≠ .offBus) :
    exec (.noticeReceived (noticeBytes station n)) s = .next (abandonedAtHead s.afterNotice j b c status failing) := by
  obtain ⟨firm, met⟩ := met
  have ends : s.afterNotice.takeFromJob { bus := b, line := c.line } status
      = abandonedAtHead s.afterNotice j b c status failing := by
    rw [State.takeFromJob_slot (State.slotOf_active (by exact active) bus line),
      State.abandon_atHead (by exact active) bus (by exact h.entry) state (by exact head) (by exact on), names]
  rw [ends] at met
  exact h.stands_quietly met rfl rfl rfl (.inl opening) rfl

theorem taken_atChain (h : Contested s b station c p) (opening : s.claims.opening = none) {n : Notice} {status : EndStatus}
    {failing : Option Nat} {j : Job} (state : c.state = .held)
    (met : ∃ firm, MetBy s.afterNotice c b station u p n firm
      (s.afterNotice.takeFromJob { bus := b, line := c.line } status))
    (names : (if (status == .accessLost) = true then some j.step else none) = failing)
    (away : ∀ i, s.seq.active = .job i → i.bus ≠ some b ∨ i.order.line ≠ c.line) (staged : s.seq.staged = .job j)
    (ready : j.phase = .ready) (bus : j.bus = some b) (line : j.order.line = c.line) (operated : j.nothingOperated = false)
    (idle : s.ChainIdle) (ops : s.chain.ops = []) :
    exec (.noticeReceived (noticeBytes station n)) s = .next
      { s.afterNotice with
        claims := claimReleased s.claims b c
        chain := releaseSent s.chain { bus := b, line := c.line } s.afterNotice.time.now
        seq :=
          { s.seq with
            staged :=
              .job { j with status := some status, failing := failing, phase := .releasing, inserted := false } } } := by
  obtain ⟨firm, met⟩ := met
  have ends := State.takeFromJob_slot (s := s.afterNotice) (p := { bus := b, line := c.line })
    (State.slotOf_staged away staged bus line) status
  rw [State.abandon_staged (c := c) (by exact staged) ready bus operated (by exact h.entry) state (by exact ops), names] at ends
  rw [ends] at met
  rw [h.stands met rfl rfl rfl (.inl opening), State.startRelease_sent (by exact idle) (by exact ops), line]
  rfl

/-! ### Double holds -/

theorem recorded (h : Contested s b station c p) (opening : s.claims.opening = none) (state : c.state = .held) (m : Bool)
    (stands : ∃ d ∈ c.disturbances, d.station = station ∧ d.pair = p) :
    exec (.noticeReceived (noticeBytes station (.hold u p m))) s = .next s.afterNotice := by
  refine h.unmoved (firm := true) (.inr ⟨⟨m, rfl⟩, rfl, ?_⟩) (.inl opening)
  rw [State.holdMeets_held h.kept state, State.doubleHold_recorded stands]

/-- The state of a claim that has won a double hold, before its job is told (R51, R52). -/
def won (s : State) (b station : Nat) (c : OwnClaim) (p : Pair) : State :=
  { s.afterNotice with
    claims :=
      { s.claims with
        entries :=
          s.claims.entries.set b
            (.own
              { c with
                disturbances :=
                  c.disturbances
                    ++ [{ station := station, pair := p, deadline := s.afterNotice.time.now + ms 500 }] }) } }

/-- The claim keeps its pair, and its job is told (R51, R52, R124). -/
theorem wins (h : Contested s b station c p) (opening : s.claims.opening = none) (state : c.state = .held) (m : Bool)
    (precedence : precedes c.urgency s.straps.station u station = true)
    (fresh : ∀ d ∈ c.disturbances, d.station ≠ station ∨ d.pair ≠ p)
    (told : (won s b station c p).handDisturbed { bus := b, line := c.line } = y)
    (claims : y.claims = (won s b station c p).claims) (reports : y.reports = s.reports) (chain : y.chain = s.chain) :
    exec (.noticeReceived (noticeBytes station (.hold u p m))) s = .next y := by
  refine h.stands_quietly (firm := true)
    (c' := { c with
      disturbances :=
        c.disturbances ++ [{ station := station, pair := p, deadline := s.afterNotice.time.now + ms 500 }] })
    (.inr ⟨⟨m, rfl⟩, rfl, ?_⟩) (by rw [claims]; rfl) rfl (by rw [reports]) (.inl (by rw [claims]; exact opening)) chain
  rw [State.holdMeets_held h.kept state, State.doubleHold_won (by exact h.entry) fresh (by exact precedence)]
  exact told

/-! ### Claims in the making that are lost -/

/-- The claim in the making is lost and taken off the table, and the notice is taken into it. -/
theorem lost (h : Contested s b station c p) {y : State} (met : MetBy s.afterNotice c b station u p n firm y)
    (gone : OwnsNone y.claims.entries) (filter : y.reports.filter = s.reports.filter) :
    exec (.noticeReceived (noticeBytes station n)) s = .next
      ((y.setClaims (defeatTaken y.claims { station := station, urgency := u, pair := p, firm := firm } y.time.now)).claimTest).pump := by
  rw [exec_heard_silently h.hears h.low h.other (h.inRange met) h.silent
    (State.handOn_taken (s := s.afterNotice) h.entry h.only h.conflict met gone) filter,
    State.testIfChanged_changed]
  exact OwnsNone.ne (b := b) (gone.hearClaim _ _) h.entry

/-- A notice that takes its pair from a claim in the making (R42 to R44). -/
theorem defeat_met (h : Contested s b station c p) {hc : HeardClaim} {y : DeskLine}
    (cause : n = .claim u p ∧ hc = { station := station, urgency := u, pair := p, firm := false }
        ∧ precedes u station c.urgency s.straps.station = true
      ∨ (∃ m, n = .hold u p m) ∧ hc = { station := station, urgency := u, pair := p, firm := true }
        ∧ ¬ (u = .routine ∧ c.urgency ≠ .routine))
    (unknown : c.state = .awaitYield → ¬ ∃ a ∈ c.awaited, a.station = station ∧ a.pair = p)
    (leaves : DefeatLeaves s.afterNotice c y) :
    MetBy s.afterNotice c b station u p n hc.firm (s.afterNotice.setLine y).loseClaim
      ∧ hc = { station := station, urgency := u, pair := p, firm := hc.firm } := by
  have state : c.state = .sending ∨ c.state = .contest ∨ c.state = .awaitYield := by
    rcases leaves with ⟨sending, _⟩ | ⟨announced, _⟩
    · exact .inl sending
    · exact .inr announced
  have unknown' (waits : c.state = .awaitYield) : awaits c station p = false := by
    rw [← Bool.not_eq_true, awaits_iff]
    exact unknown waits
  rw [← State.defeated_eq leaves]
  rcases cause with ⟨rfl, rfl, precedence⟩ | ⟨hold, rfl, firm⟩
  · exact ⟨.inl ⟨rfl, rfl, State.claimMeets_loses h.kept state unknown' precedence⟩, rfl⟩
  · exact ⟨.inr ⟨hold, rfl, State.holdMeets_loses h.kept state unknown' firm⟩, rfl⟩

/-! ### Awaited yields -/

theorem awaits_more (h : Contested s b station c p) {o : Opening} (opening : s.claims.opening = some o)
    (placed : o.placed = some b) {f : OwnClaim → OwnClaim} {c' : OwnClaim} (changed : f c = c') (line : c'.line = c.line)
    (met : MetBy s.afterNotice c b station u p n firm (s.afterNotice.updateOwn b f)) :
    exec (.noticeReceived (noticeBytes station n)) s = .next
      { s.afterNotice with claims := { s.claims with entries := s.claims.entries.set b (.own c') } } := by
  rw [State.updateOwn_own (by exact h.entry), changed] at met
  exact h.stands_quietly met rfl line rfl (.inr ⟨o, b, opening, placed⟩) rfl

end Contested

end Sys2Proof.Machine

/-! SUPPORT. A heard RELEASE and the awaited list of this station's claim (R42, R44), and O33. -/

namespace Sys2Proof.Machine

variable {s t y : State}

section

variable {b station : Nat} {c c' : OwnClaim} {p : Pair}

theorem State.endDisturbance_calm (entry : s.entryAt b = .own c) (calm : c.disturbances = []) :
    s.endDisturbance b station p = s := by
  unfold State.endDisturbance
  rw [State.ownAt_own entry]
  simp [calm]

theorem releaseHeardAt_none {b' : Nat} (none_ : ownLine s.claims.entries b' = none) : releaseHeardAt station p s b' = s := by
  unfold releaseHeardAt State.ownAt
  cases at_ : s.entryAt b' with
  | own c' =>
    rw [ownLine_none_iff, show s.claims.entries.getD b' .free = .own c' from at_] at none_
    cases none_
  | peer q => rfl
  | free => rfl

/-- The awaited list without a station and pair, as the claim's next step finds it (R42, R44). -/
theorem releaseHeardAt_awaited (entry : s.entryAt b = .own c) (known : ∃ a ∈ c.awaited, a.station = station ∧ a.pair = p)
    (left : (s.setEntry b (.own (c.unawait station p))).awaitedLeft b = y) (own : y.entryAt b = .own c')
    (calm : c'.disturbances = []) : releaseHeardAt station p s b = y := by
  unfold releaseHeardAt
  rw [State.ownAt_own entry]
  dsimp only
  rw [if_pos (awaits_iff.mpr known), State.updateOwn_own entry, left, State.endDisturbance_calm own calm]

/-- A RELEASE that an own claim awaits, and that names no PEER entry of the table (R42, R44, R59). -/
theorem State.handOn_release (entry : s.entryAt b = .own c) (only : OwnsAtMost s.claims.entries b)
    (known : ∃ a ∈ c.awaited, a.station = station ∧ a.pair = p) (inside : p.bus < s.claims.entries.length)
    (apart : ∀ q, s.entryAt p.bus = .peer q → q.station ≠ station ∨ q.line ≠ p.line)
    (left : (s.setEntry b (.own (c.unawait station p))).awaitedLeft b = y)
    (stands : y.claims.entries = s.claims.entries.set b (.own c')) (calm : c'.disturbances = []) :
    s.handOn station (.release p) = y := by
  have inTable := State.entryAt_lt entry
  have own : y.entryAt b = .own c' := by rw [State.entryAt, stands, getD_set, if_pos ⟨rfl, inTable⟩]
  have heard : releaseHeardAt station p s b = y := releaseHeardAt_awaited entry known left own calm
  have others : OwnsAtMost y.claims.entries b := stands ▸ only.set _
  have unnamed : ∀ q, y.entryAt p.bus = .peer q → q.station ≠ station ∨ q.line ≠ p.line := by
    intro q at_
    rw [State.entryAt, stands, getD_set] at at_
    split at at_
    · cases at_
    · exact apart q at_
  simp only [State.handOn]
  rw [State.hearReleaseOf_eq s station inside,
    foldl_owns (fun _ _ none_ => releaseHeardAt_none none_) inTable only (by rwa [heard]), heard]
  dsimp only
  rw [hearRelease_stands unnamed]
  rfl

end

namespace Contested

variable {b station : Nat} {c c' : OwnClaim} {u : Urgency} {p : Pair}

/-- A RELEASE that takes its entry off the awaited list (R42, R44). -/
theorem released (h : Contested s b station c p) (known : ∃ a ∈ c.awaited, a.station = station ∧ a.pair = p)
    (inside : p.bus < s.claims.entries.length)
    (apart : ∀ q, s.entryAt p.bus = .peer q → q.station ≠ station ∨ q.line ≠ p.line)
    (left : (s.afterNotice.setEntry b (.own (c.unawait station p))).awaitedLeft b = y)
    (stands : y.claims.entries = s.claims.entries.set b (.own c')) (calm : c'.disturbances = [])
    (filter : y.reports.filter = s.reports.filter)
    (untested : y.claims.opening = none ∨ (∃ o b, y.claims.opening = some o ∧ o.placed = some b)) :
    exec (.noticeReceived (noticeBytes station (.release p))) s = .next y.pump := by
  rw [exec_heard_silently (n := .release p) h.hears h.low h.other ⟨h.bus, h.line⟩ h.silent
    (State.handOn_release (s := s.afterNotice) h.entry h.only known inside apart left stands calm) filter]
  rcases untested with none_ | ⟨o, b, opening, placed⟩
  · rw [State.testIfChanged_noOpening none_]
  · rw [State.testIfChanged_placed opening placed]

end Contested

theorem State.setEntry_setEntry (s : State) (b : Nat) (e e' : Entry) : (s.setEntry b e).setEntry b e' = s.setEntry b e' := by
  simp [State.setEntry]

theorem State.becomeHeld_claims {b : Nat} {c : OwnClaim} {j : Job} (entry : s.entryAt b = .own c)
    (active : s.seq.active = .job j) (access : j.phase = .access) (ok : (s.unitAt (unitOf c.line)).state = .ok) :
    (s.becomeHeld b).claims = (s.madeHeld b c).claims ∧ (s.becomeHeld b).reports = s.reports := by
  rw [State.becomeHeld_eq entry active access, State.offerRenewal, State.offer_line, State.offerConnect,
    if_pos (by exact ok)]
  exact ⟨rfl, rfl⟩

/-- Settles O33: what the own claim makes of the notice, state by state, and what its job and the table come to. -/
theorem standingClaimAnswersConflicts : Obligations.StandingClaimAnswersConflicts := by
  intro s b station c u p hears idle low other bus line silent entry kept conflict only t mine hear put ht hmine hhear hput
  have on : Contested s b station c p := ⟨hears, idle, low, other, bus, line, silent, entry, kept, conflict, ownsAtMost_of only⟩
  subst ht hmine
  simp only [hhear, hput]
  refine ⟨fun opening => ⟨on.asserts opening, ?_, ?_, ?_⟩, ?_⟩
  · intro n status failing state cause
    obtain ⟨met, names⟩ := on.taken state cause
    exact ⟨fun j active bus line head atBus => on.taken_atHead opening state met (names j) active bus line head atBus,
      fun j away staged ready bus line operated chain ops =>
        on.taken_atChain opening state met (names j) away staged ready bus line operated chain ops⟩
  · intro m x state
    refine ⟨on.recorded opening state m, fun precedence fresh hx => ?_⟩
    subst hx
    refine ⟨fun nobody => ?_, fun j active bus line => ?_, fun j away staged bus line => ?_⟩
    · exact on.wins opening state m precedence fresh (State.handDisturbed_nobody (by exact nobody)) rfl rfl rfl
    · exact on.wins opening state m precedence fresh (State.handDisturbed_active (by exact active) bus line) rfl rfl rfl
    · exact on.wins opening state m precedence fresh (State.handDisturbed_staged (by exact away) (by exact staged) bus line)
        rfl rfl rfl
  · intro state m
    exact on.unmoved (firm := true) (.inr ⟨⟨m, rfl⟩, rfl, State.holdMeets_passes kept state⟩) (.inl opening)
  · intro o opening placed calm known yields wins hknown hyields hwins
    have untested : ∃ o b, s.claims.opening = some o ∧ o.placed = some b := ⟨o, b, opening, placed⟩
    refine ⟨?_, ?_, ?_, ?_, ?_⟩
    · intro n hc y unknown cause leaves
      rw [hknown] at unknown
      rw [hwins, hyields] at cause
      obtain ⟨met, hhc⟩ := on.defeat_met cause unknown leaves
      refine ⟨fun urgency => ?_, fun j info d urgency access => ?_⟩
      · rw [State.loseClaim_waits (by exact opening) placed (by exact entry) urgency] at met
        rw [on.lost met (on.only.left c.awaited) rfl, hhc, State.pump_alike idle (by exact State.claimTest_chain _)]
        rfl
      · have accessLine : SweepInAccess (s.afterNotice.setLine y) j info d := sweepInAccess_of_eq access rfl rfl rfl
        have access' : SweepInAccess ((s.afterNotice.setLine y).setClaims (claimEnded s.claims b c)) j info d :=
          sweepInAccess_of_eq access rfl rfl rfl
        rw [State.loseClaim_ends (by exact opening) placed (by exact entry) urgency (id := .active)
          (by exact sweepInAccess_accessSlot accessLine), show claimEnded (s.afterNotice.setLine y).claims b c
            = claimEnded s.claims b c from rfl, sweepInAccess_endSweepJob access'] at met
        rw [on.lost met (on.only.left c.awaited) rfl, hhc, State.claimTest_noOpening (by rfl), State.pump_alike idle (by rfl)]
        rfl
    · intro loses state
      rw [hwins] at loses
      refine on.unmoved (firm := false) (.inl ⟨rfl, rfl, State.claimMeets_stands kept ?_ loses⟩) (.inr untested)
      rcases state with state | state | ⟨state, unknown⟩
      · exact .inl state
      · exact .inr (.inl state)
      · rw [hknown, ← awaits_iff, Bool.not_eq_true] at unknown
        exact .inr (.inr ⟨state, unknown⟩)
    · intro n expiry hexpiry cause
      subst hexpiry
      rw [hknown, ← awaits_iff, hyields] at cause
      have refreshed := OwnClaim.await_eq c station p (s.afterNotice.time.now + ms 3000)
      rcases cause with ⟨state, known, rfl | hold⟩ | ⟨state, yields, hold⟩
      · exact on.awaits_more opening placed refreshed rfl (firm := false)
          (.inl ⟨rfl, rfl, State.claimMeets_refreshes kept state known⟩)
      · exact on.awaits_more opening placed refreshed rfl (firm := true)
          (.inr ⟨hold, rfl, State.holdMeets_awaits kept (.inl ⟨state, known⟩)⟩)
      · exact on.awaits_more opening placed refreshed rfl (firm := true)
          (.inr ⟨hold, rfl, State.holdMeets_awaits kept (.inr ⟨state, yields⟩)⟩)
    · intro m state yields
      rw [hyields] at yields
      exact on.awaits_more opening placed (by rw [OwnClaim.await_eq]) rfl (firm := true)
        (.inr ⟨⟨m, rfl⟩, rfl, State.holdMeets_contest kept state yields⟩)
    · intro left known inside apart hleft
      rw [hknown] at known
      subst hleft
      have own : (s.afterNotice.setEntry b (.own (c.unawait station p))).entryAt b = .own (c.unawait station p) :=
        State.entryAt_setEntry (State.entryAt_lt entry) _
      refine ⟨fun stays => ?_, fun state none_ early => ?_, fun j state none_ late active access _ _ chain ops ok => ?_⟩
      · have stands := State.awaitedLeft_stands own (stays.elim
          (fun state => .inr (by change c.state ≠ _; rw [state]; decide)) (fun k => .inl k.2))
        rw [on.released known inside apart stands rfl calm rfl (.inr untested), State.pump_alike idle (by rfl)]
        rfl
      · have gone : c.unawait station p = { c with awaited := [] } := by rw [OwnClaim.unawait, none_]
        have contests : (s.afterNotice.setEntry b (.own (c.unawait station p))).awaitedLeft b
            = s.afterNotice.setEntry b (.own { c with awaited := [], state := .contest }) := by
          rw [State.awaitedLeft_last own none_ state, if_neg (by exact Nat.not_le_of_lt early), State.setEntry_setEntry, gone]
        rw [on.released known inside apart contests rfl calm rfl (.inr untested), State.pump_alike idle (by rfl)]
        rfl
      · have gone : c.unawait station p = { c with awaited := [] } := by rw [OwnClaim.unawait, none_]
        have becomes := State.awaitedLeft_last own none_ state
        rw [if_pos (by exact late)] at becomes
        obtain ⟨claims, reports⟩ := State.becomeHeld_claims own (by exact active) access (by exact ok)
        rw [on.released known inside apart becomes
          (c' := { c with state := .held, awaited := [], renewAt := s.afterNotice.time.now + ms 1000 })
          (by rw [claims]; simp [State.madeHeld, State.setEntry, OwnClaim.unawait]; rfl) calm (by rw [reports]; rfl)
          (.inl (by rw [claims]; rfl)),
          State.becomeHeld_connects own kept (by exact active) access (by exact chain) (by exact ops) (by exact ok), gone,
          claimHeld_setEntry]

end Sys2Proof.Machine

/-! SUPPORT. The steps of an order at the head (R117 to R126): one step and the next, as the statements write them. -/

namespace Sys2Proof.Machine

variable {s t x : State}

/-! ## What the tickets do beside the slots (Chapter 8) -/

theorem State.setSeq_offer (s : State) (q : Sequencer) (tx : Tx) : (s.setSeq q).offer tx = (s.offer tx).setSeq q := by
  rw [State.LineAlike.offer_eq (s := s) (t := s.setSeq q) ⟨rfl, rfl, rfl⟩, State.offer_line s]
  rfl

theorem State.setSeq_announceTicket (s : State) (q : Sequencer) (before : Option TicketState) (k : Ticket)
    (cause : TicketCause) : (s.setSeq q).announceTicket before k cause = (s.announceTicket before k cause).setSeq q := by
  rw [State.announceTicket, State.offerPlain, State.setSeq_offer, State.setSeq_post]
  rfl

theorem State.setSeq_moveTicket (s : State) (q : Sequencer) (k : Ticket) (f : Ticket → Ticket) (cause : TicketCause) :
    (s.setSeq q).moveTicket k f cause = (s.moveTicket k f cause).setSeq q :=
  (s.updateTicket k.ident f).setSeq_announceTicket q _ _ _

theorem State.setSeq_openTicket (s : State) (q : Sequencer) (line : Nat) (v : Verdict) (time : Nat) (cause : TicketCause) :
    (s.setSeq q).openTicket line v time cause = (s.openTicket line v time cause).setSeq q := by
  unfold State.openTicket
  rw [State.setSeq_tickets]
  cases roomFor s.tickets.table with
  | some ts => exact State.setSeq_announceTicket (State.setRecord (State.setTickets s _) _ _) q _ _ _
  | none => exact State.setSeq_capture (State.setRecord s _ _) q _

theorem State.setSeq_ticketMove (s : State) (q : Sequencer) (k : Ticket) (v : Verdict) (time level : Nat) :
    (s.setSeq q).ticketMove k v time level = (s.ticketMove k v time level).setSeq q := by
  unfold State.ticketMove
  rw [State.setSeq_settings]
  split
  · split
    · exact State.setSeq_moveTicket _ q _ _ _
    · rfl
  · rfl
  · split
    · exact State.setSeq_moveTicket _ q _ _ _
    · rfl

theorem State.setSeq_ticketVerdict (s : State) (q : Sequencer) (line : Nat) (v : Verdict) (time level : Nat) :
    (s.setSeq q).ticketVerdict line v time level = (s.ticketVerdict line v time level).setSeq q := by
  have record : (s.setSeq q).recordOf line = s.recordOf line := rfl
  have found (i : Nat) : (s.setSeq q).ticket? i = s.ticket? i := rfl
  unfold State.ticketVerdict
  rw [record, State.setSeq_settings]
  dsimp only
  cases (s.recordOf line).ticket with
  | some ident =>
    dsimp only
    rw [found]
    cases s.ticket? ident with
    | some k => exact State.setSeq_ticketMove (s.updateTicket ident _) q _ _ _ _
    | none => rfl
  | none =>
    dsimp only
    split
    · split
      · rfl
      · exact State.setSeq_openTicket _ q _ _ _ _
    · split
      · exact State.setSeq_openTicket _ q _ _ _ _
      · rfl

theorem State.setSeq_applyVerdict (s : State) (q : Sequencer) (d : Delivery) :
    (s.setSeq q).applyVerdict d = (s.applyVerdict d).setSeq q := by
  unfold State.applyVerdict
  rw [State.setSeq_records]
  split
  · rfl
  · exact State.setSeq_ticketVerdict (s.setRecord d.line _) q _ _ _ _

/-! ## Evaluation and delivery (R122) -/

theorem withActive_self {j : Job} (active : s.seq.active = .job j) : withActive s j = s := by
  rw [withActive, ← active]

@[simp] theorem withActive_withActive (s : State) (i j : Job) : withActive (withActive s i) j = withActive s j := rfl

theorem updateActive (s : State) (j : Job) (f : Job → Job) : (withActive s j).updateJob .active f = withActive s (f j) :=
  State.updateJob_job (j := j) rfl f

theorem State.BesideTickets.applied (s : State) (d : Delivery) : s.BesideTickets (s.applyVerdict d) :=
  (State.BesideTickets.refl s).applyVerdict d

theorem delivered_beside (s : State) (line : Nat) (r : Results) (v : Option Verdict) :
    s.BesideTickets (delivered s line r v) := by
  unfold delivered
  cases v with
  | none => exact State.BesideTickets.refl s
  | some k =>
    dsimp only
    split
    · exact State.BesideTickets.applied s _
    · exact (State.BesideTickets.refl s).offer _

theorem delivered_withActive (s : State) (j : Job) (line : Nat) (r : Results) (v : Option Verdict) :
    delivered (withActive s j) line r v = withActive (delivered s line r v) j := by
  obtain ⟨_, _, _, seq, _⟩ := delivered_beside s line r v
  have commutes : delivered (withActive s j) line r v = (delivered s line r v).setSeq { s.seq with active := .job j } := by
    unfold delivered
    cases v with
    | none => rfl
    | some k =>
      have home : (withActive s j).isHome line = s.isHome line := rfl
      dsimp only
      rw [home]
      split
      · exact State.setSeq_applyVerdict s _ _
      · exact State.setSeq_offer s _ _
  rw [commutes, withActive, seq]
  rfl

/-- The readings of the active job are evaluated and what they give is delivered (R122). -/
theorem judge_eq (s : State) (j : Job) :
    (withActive s j).judge
      = (let e := evaluate (s.evalInput j.order.line)
         withActive (delivered s j.order.line e.1 e.2)
           { j with verdict := if e.2.isSome = true then e.2 else j.verdict }) := by
  have input : (withActive s j).evalInput j.order.line = s.evalInput j.order.line := rfl
  have active : (withActive s j).seq.active = .job j := rfl
  unfold State.judge
  rw [active]
  dsimp only
  rw [input]
  obtain ⟨r, v⟩ := evaluate (s.evalInput j.order.line)
  cases v with
  | none => rfl
  | some k =>
    have told : (withActive s j).deliver j.order.line k r = delivered (withActive s j) j.order.line r (some k) := rfl
    dsimp only
    rw [told, delivered_withActive, updateActive]
    rfl

/-! ## A step begins and the next follows (R117, R119, R121 to R123, R126) -/

/-- The job holds the head, idle and safe on its bus, with its HELD claim undisturbed: what a step needs to begin at the head. -/
structure AtHead (s : State) (j : Job) (b : Nat) (c : OwnClaim) : Prop where
  running : j.phase = .running
  bus : j.bus = some b
  head : s.head.bus = some b
  onBus : s.head.state = .onBus
  safe : s.head.hazardFound = false
  entry : s.entryAt b = .own c
  held : c.state = .held
  calm : c.disturbances = []

namespace AtHead

variable {j i : Job} {b : Nat} {c : OwnClaim}

theorem of_job (h : AtHead s j b c) (phase : i.phase = j.phase) (bus : i.bus = j.bus) : AtHead s i b c :=
  { h with running := phase.trans h.running, bus := bus.trans h.bus }

theorem of_beside (h : AtHead s j b c) (beside : s.BesideTickets t) : AtHead t j b c := by
  obtain ⟨claims, _, head, _⟩ := beside
  exact { h with
    head := by rw [head]; exact h.head
    onBus := by rw [head]; exact h.onBus
    safe := by rw [head]; exact h.safe
    entry := by rw [State.entryAt, claims]; exact h.entry }

theorem offerStage (h : AtHead s j b c) :
    (withActive s j).offerStage = stageOffered (withActive s j) j (j.order.stepAt j.step).kind := by
  refine State.offerStage_eq (j := j) rfl h.running h.onBus ?_ ?_ h.safe
  · rw [h.bus]
    exact h.head
  · rw [h.bus, State.disturbed_own (c := c) (by exact h.entry), h.calm]
    rfl

theorem beginRelease (h : AtHead s j b c) : (withActive s j).beginRelease .active = releaseBegun s j b c := by
  have awake : suspensionEnded j (withActive s j).time.clock = j := by
    rw [suspensionEnded, if_neg (by rw [h.running]; decide)]
  have on : (withActive s j).head.state ≠ .offBus := by
    change s.head.state ≠ _
    rw [h.onBus]
    decide
  rw [State.beginRelease_atHead (j := j) (b := b) (c := c) (by rfl) h.bus (by exact h.entry) h.held (by exact h.head) on, awake]
  rfl

/-- A step in hand that is neither a CONNECT nor a VERDICT begins (R119, R121, R123). -/
theorem runStep_plain (h : AtHead s j b c) (noConnect : (j.order.stepAt j.step).kind ≠ .connect)
    (noVerdict : (j.order.stepAt j.step).kind ≠ .verdict) (k : Nat) :
    State.runStep (k + 1) (withActive s j) = kindBegun s j b c := by
  have active : (withActive s j).seq.active = .job j := rfl
  unfold State.runStep kindBegun
  rw [active]
  dsimp only
  have offered := h.offerStage
  cases kind : (j.order.stepAt j.step).kind with
  | connect => exact absurd kind noConnect
  | verdict => exact absurd kind noVerdict
  | hold => exact updateActive s j _
  | release => exact h.beginRelease
  | foreign | resist | capacity =>
    rw [kind] at offered
    exact offered

/-- The step in hand begins, a VERDICT step with the one after it (R117, R122, R126). -/
theorem runStep_begins (h : AtHead s j b c) (plain : PlainFrom j j.step) (k : Nat) :
    State.runStep (k + 2) (withActive s j) = stepBegun s j b c := by
  obtain ⟨noConnect, noneAfter, single⟩ := plain
  by_cases verdict : (j.order.stepAt j.step).kind = .verdict
  · have active : (withActive s j).seq.active = .job j := rfl
    have judged := judge_eq s j
    unfold State.runStep
    rw [active]
    dsimp only
    rw [verdict]
    dsimp only
    rw [judged]
    dsimp only
    rw [updateActive, stepBegun, if_pos verdict]
    dsimp only
    have beside := delivered_beside s j.order.line (evaluate (s.evalInput j.order.line)).1
      (evaluate (s.evalInput j.order.line)).2
    by_cases marked : (j.order.stepAt (j.step + 1)).marked = true
    · rw [if_pos marked, if_pos marked, State.suspend, updateActive]
      rfl
    · rw [if_neg marked, if_neg marked]
      have next : AtHead (delivered s j.order.line (evaluate (s.evalInput j.order.line)).1
          (evaluate (s.evalInput j.order.line)).2)
          { j with
            verdict :=
              if (evaluate (s.evalInput j.order.line)).2.isSome = true then (evaluate (s.evalInput j.order.line)).2
              else j.verdict
            step := j.step + 1 } b c := (h.of_beside beside).of_job rfl rfl
      exact next.runStep_plain noneAfter (single verdict) k
  · rw [h.runStep_plain noConnect verdict, stepBegun, if_neg verdict]

/-- The step in hand is finished and the next follows (R117, R126). -/
theorem finishStep (h : AtHead s j b c) (plain : PlainFrom j (j.step + 1)) :
    (withActive s j).finishStep = stepFollows s j b c := by
  have active : (withActive s j).seq.active = .job j := rfl
  unfold State.finishStep
  rw [active]
  dsimp only
  rw [updateActive, stepFollows]
  by_cases marked : (j.order.stepAt (j.step + 1)).marked = true
  · rw [if_pos marked, if_pos marked, State.suspend, updateActive]
    rfl
  · rw [if_neg marked, if_neg marked]
    have next : AtHead s { j with step := j.step + 1 } b c := h.of_job rfl rfl
    exact next.runStep_begins plain 11

end AtHead

/-! ## What a step leaves alone: the chain (R117) -/

theorem stageOffered_chain (s : State) (j : Job) (k : StepKind) : (stageOffered s j k).chain = s.chain := by
  unfold stageOffered
  (repeat' split) <;> rfl

theorem kindBegun_chain (s : State) (j : Job) (b : Nat) (c : OwnClaim) : (kindBegun s j b c).chain = s.chain := by
  unfold kindBegun
  split
  · rfl
  · rfl
  · exact stageOffered_chain _ _ _

theorem stepBegun_chain (s : State) (j : Job) (b : Nat) (c : OwnClaim) : (stepBegun s j b c).chain = s.chain := by
  unfold stepBegun
  dsimp only
  split
  · split
    · exact (delivered_beside s _ _ _).chain
    · exact (kindBegun_chain _ _ _ _).trans (delivered_beside s _ _ _).chain
  · exact kindBegun_chain _ _ _ _

theorem stepFollows_chain (s : State) (j : Job) (b : Nat) (c : OwnClaim) : (stepFollows s j b c).chain = s.chain := by
  unfold stepFollows
  split
  · rfl
  · exact stepBegun_chain _ _ _ _

end Sys2Proof.Machine

/-! SUPPORT. The head's connect, discharge and release (O34), and its FOREIGN, RESIST and CAPACITY stages (O35 to O38). -/

namespace Sys2Proof.Machine

variable {s t x : State} {j : Job} {b : Nat} {c : OwnClaim}

/-! ## The head onto its bus and off it (R66, R67, R79, R118) -/

theorem connectedAtHead_follows (active : s.seq.active = .job j) (ready : j.phase = .ready)
    (at_ : AtHead s { j with phase := .running } b c) (plain : PlainFrom j (j.step + 1)) :
    s.connectedAtHead = stepFollows s { j with phase := .running } b c := by
  have told : s.updateJob .active (fun j => { j with phase := .running }) = withActive s { j with phase := .running } :=
    State.updateJob_job (j := j) (by exact active) _
  unfold State.connectedAtHead
  rw [active]
  dsimp only
  rw [if_pos ready, told]
  exact at_.finishStep plain

/-- No stage is offered to a job that does not run or on a disturbed claim (R81, R117). -/
theorem State.offerStage_refused (active : s.seq.active = .job j)
    (refused : j.phase ≠ .running ∨ s.disturbed j.bus = true) : s.offerStage = s := by
  unfold State.offerStage
  rw [active]
  refine if_neg ?_
  rintro ⟨running, _, _, calm, _⟩
  rcases refused with still | disturbed
  · exact still running
  · rw [disturbed] at calm
    cases calm

/-- The release of a pair that nothing is in progress for, asked for behind an exchange or on an idle chain (R7, R16). -/
theorem State.startRelease_asked_or (chain : s.chain.exchange.isSome = true ∨ s.ChainIdle) (p : Pair) :
    (s.startRelease p .release 1).pump = s.setChain (releaseAsked s.chain p s.time.now) := by
  rcases chain with busy | ⟨exchange, noJob, noPoll, noDiscovery⟩
  · rw [State.pump_busy (by exact busy), releaseAsked, if_pos busy]
    rfl
  · exact State.startRelease_asked noJob noPoll noDiscovery p

theorem State.connecting?_apart {p : Pair} (apart : ∀ o ∈ s.chain.ops, o.pair ≠ p) : s.connecting? p = false := by
  have none_ : s.opOf p = none := by
    rw [State.opOf, List.find?_eq_none]
    exact fun o mem => by simpa using apart o mem
  rw [State.connecting?, none_]
  rfl

/-- The slots stand behind an active job in its release sequence where the staged job is in its own (R112). -/
theorem State.settleSlots_releasing (active : s.seq.active = .job j) (phase : j.phase = .releasing)
    (staged : ∀ k, s.seq.staged = .job k → k.phase = .releasing) : s.settleSlots = s := by
  have moved : s.slotMove = s := by
    unfold State.slotMove
    rw [active]
    cases at_ : s.seq.staged with
    | job k =>
      dsimp only
      exact if_neg fun ⟨_, _, apart⟩ => apart (staged k at_)
    | _ => rfl
  rw [State.settleSlots, moved]
  refine State.offerHead_stands (fun i on ready => ?_)
  rw [active] at on
  cases on
  rw [phase] at ready
  cases ready

/-- A staged job that has not begun its release changes places with the job that has freed the head (R112). -/
theorem State.slotMove_swaps {k : Job} (active : s.seq.active = .job j) (phase : j.phase = .releasing)
    (freed : j.headFreed = true) (staged : s.seq.staged = .job k) (apart : k.phase ≠ .releasing) :
    s.slotMove = s.setSeq { s.seq with active := .job k, staged := .job j } := by
  unfold State.slotMove
  rw [active, staged]
  exact if_pos ⟨phase, freed, apart⟩

/-- The job that has freed the head asks for its release, and the slots settle (R83, R112, R123). -/
theorem State.headFree_eq {p : Pair} (active : s.seq.active = .job j) (phase : j.phase = .releasing)
    (operated : j.nothingOperated = false) (bus : j.bus = some p.bus) (line : j.order.line = p.line)
    (apart : ∀ o ∈ s.chain.ops, o.pair ≠ p) :
    s.headFree = ((withActive s { j with headFreed := true }).startRelease p .release 1).settleSlots := by
  have told : s.updateJob .active (fun j => { j with headFreed := true }) = withActive s { j with headFreed := true } :=
    State.updateJob_job (j := j) (by exact active) _
  unfold State.headFree
  rw [active]
  dsimp only
  rw [if_pos phase, told, State.releaseAtChain_starts (j := { j with headFreed := true }) (p := p) (by rfl) bus line operated
    (State.connecting?_apart (by exact apart))]

/-- The head is off its bus, and the job that freed it has changed places with the staged one (R67, R112). -/
def slotsSwapped (s : State) (k freed : Job) : State :=
  ((s.passTo s.head.until_).setHead Head.offBus).setSeq { s.seq with active := .job k, staged := .job freed }

/-- Settles O34: each event of the head, with the job's next step or the slots' moves after it. -/
theorem headConnectsDischargesAndLeaves : Obligations.HeadConnectsDischargesAndLeaves := by
  intro s j b now active bus hnow
  rw [← State.passTo_now] at hnow
  subst hnow
  refine ⟨?_, ?_, ?_, ?_⟩
  · intro c connecting on ready plain idle
    obtain ⟨_, _, head, entry, held, calm⟩ := on
    rw [exec, execHeadConnected, if_pos connecting]
    have at_ : AtHead (s.passTo s.head.until_).headOnBus { j with phase := .running } b c :=
      ⟨rfl, bus, head, rfl, rfl, entry, held, calm⟩
    rw [connectedAtHead_follows (by exact active) ready at_ plain,
      State.pump_alike idle (by exact stepFollows_chain _ _ _ _)]
    rfl
  · intro leaving
    simp only [exec, execDischargeEnd, leaving, if_true]
    rfl
  · intro t stays ht
    have ends : exec .dischargeEnd s = .next t.offerStage := by
      simp only [exec, execDischargeEnd, stays, ht, if_false, Bool.false_eq_true]
      rfl
    have active' : t.seq.active = .job j := by rw [ht]; exact active
    refine ⟨fun refused => ?_, fun c running head safe entry calm => ?_⟩
    · rw [ends, State.offerStage_refused active' (by rw [bus, ht]; exact refused)]
    · rw [ends, State.offerStage_eq active' running (by rw [ht]) (by rw [ht, bus]; exact head) _ (by rw [ht]; exact safe)]
      rw [bus, State.disturbed_own (c := c) (by rw [ht]; exact entry), calm]
      rfl
  · intro p x freed opening phase operated chain hp apart hfreed hx
    subst hp hfreed
    have frees : exec .busRelayOpen s
        = .next (((withActive ((s.passTo s.head.until_).setHead Head.offBus) { j with headFreed := true }).startRelease
            { bus := b, line := j.order.line } .release 1).settleSlots).pump := by
      rw [exec, execBusRelayOpen, if_pos opening]
      dsimp only
      rw [State.headFree_eq (j := j) (by exact active) phase operated bus rfl (by exact apart)]
    refine ⟨fun staged => ?_, fun k staged other => ⟨fun notReady => ?_, fun b' ready bus' => ?_⟩⟩
    · rw [frees, State.settleSlots_releasing (j := { j with headFreed := true }) (by rfl) phase (by exact staged),
        State.startRelease_asked_or (by exact chain), hx]
      rfl
    · have sent := State.startRelease_asked_or (s := slotsSwapped s k { j with headFreed := true }) chain { bus := b, line := j.order.line }
      rw [frees, State.settleSlots,
        State.slotMove_swaps (j := { j with headFreed := true }) (by rfl) phase (by rfl) (by exact staged) other,
        State.offerHead_stands]
      · exact (congrArg Host.Outcome.next sent).trans (by rw [hx]; rfl)
      · intro i on ready
        cases on
        exact absurd ready notReady
    · have sent := State.startRelease_asked_or
        (s := (slotsSwapped s k { j with headFreed := true }).setHead (headTaken k b' (s.passTo s.head.until_).time.now))
        chain { bus := b, line := j.order.line }
      rw [frees, State.settleSlots,
        State.slotMove_swaps (j := { j with headFreed := true }) (by rfl) phase (by rfl) (by exact staged) other,
        State.offerHead_takes (j := k) (by rfl) ready (by rfl) bus']
      exact (congrArg Host.Outcome.next sent).trans (by rw [hx]; rfl)

end Sys2Proof.Machine

/-! SUPPORT. The FOREIGN, RESIST and CAPACITY stages: phase by phase, and what follows a stage that is done (O35 to O38). -/

namespace Sys2Proof.Machine

variable {s t x : State} {j : Job} {b : Nat} {c : OwnClaim}

/-! ## A stage is done (R119) -/

theorem atHead_of_onItsBus (on : OnItsBus s j b c) (running : j.phase = .running) {h : Head} (head : h.bus = s.head.bus)
    (onBus : h.state = .onBus) (safe : h.hazardFound = false) (claims : x.claims = s.claims) (at_ : x.head = h) :
    AtHead x j b c := by
  obtain ⟨_, bus, headBus, entry, held, calm⟩ := on
  subst at_
  exact ⟨running, bus, head.trans headBus, onBus, safe, by rw [State.entryAt, claims]; exact entry, held, calm⟩

theorem stageDone_follows (active : s.seq.active = .job j) (at_ : AtHead s j b c) (plain : PlainFrom j (j.step + 1))
    {foreign : Bool} (noInsert : foreign = false ∨ j.inserted = false) : s.stageDone foreign = stepFollows s j b c := by
  have finishes : s.finishStep = stepFollows s j b c := by
    have ends := at_.finishStep plain
    rwa [withActive_self active] at ends
  have own : ¬ (foreign && j.inserted) = true := by
    rcases noInsert with h | h <;> rw [h] <;> simp
  unfold State.stageDone
  rw [active]
  dsimp only
  rw [if_neg (by rw [at_.running]; decide), if_neg own, finishes]

/-- A stage other than FOREIGN that leaves its head idle on the bus is followed by the job's next step (R117, R119). -/
theorem stageDone_pump (on : OnItsBus s j b c) (running : j.phase = .running) (plain : PlainFrom j (j.step + 1))
    (idle : s.NothingToGrant) {m : Nat} {h : Head} (head : h.bus = s.head.bus) (onBus : h.state = .onBus)
    (safe : h.hazardFound = false) :
    (((s.passTo m).setHead h).stageDone false).pump = stepFollows ((s.passTo m).setHead h) j b c := by
  have at_ : AtHead ((s.passTo m).setHead h) j b c := atHead_of_onItsBus on running head onBus safe rfl rfl
  rw [stageDone_follows (by exact on.active) at_ plain (.inl rfl),
    State.pump_alike idle (by exact stepFollows_chain _ _ _ _)]

/-- After the FOREIGN that was inserted the refused stage is offered (R119). -/
theorem stageDone_inserted (active : s.seq.active = .job j) (at_ : AtHead s j b c) (inserted : j.inserted = true) :
    s.stageDone true
      = stageOffered (withActive s { j with inserted := false }) { j with inserted := false } (j.order.stepAt j.step).kind := by
  have at' : AtHead s { j with inserted := false } b c := at_.of_job rfl rfl
  have told : s.updateJob .active (fun j => { j with inserted := false }) = withActive s { j with inserted := false } :=
    State.updateJob_job (j := j) (by exact active) _
  unfold State.stageDone
  rw [active]
  dsimp only
  rw [if_neg (by rw [at_.running]; decide), if_pos (by rw [inserted]; rfl), told]
  exact at'.offerStage

/-! ## A hazard ends the job (R73, R76, R120) -/

theorem evaluate_hazard {i : EvalInput} (hazard : i.hazardFound = true) : (evaluate i).2 = some .hazard := by
  simp [evaluate, verdictFor, hazard]

/-- The job as a hazard ends it (R120). -/
def hazardEnded (j : Job) (d : HazardDetail) : Job :=
  { j with verdict := some .hazard, status := some .hazardAbort, failing := some j.step, hazard := some d }

/-- What a hazard found makes of the active job, and of its idle head (R73, R79, R120). -/
theorem hazardFound_ends (active : s.seq.active = .job j) (bus : j.bus = some b) (running : j.phase = .running)
    (head : s.head.bus = some b) (onBus : s.head.state = .onBus) (rests : s.head.activity = .idle)
    (hazard : s.head.hazardFound = true) (d : HazardDetail) :
    ∃ i : Job, (s.hazardFound d).seq.active = .job i ∧ i.phase = .releasing ∧ i.status = some .hazardAbort
      ∧ i.failing = some j.step ∧ i.hazard = some d ∧ i.verdict = some .hazard ∧ i.order = j.order
      ∧ (s.hazardFound d).chain = s.chain
      ∧ (s.hazardFound d).head =
          { s.head with
            state := .discharge
            source := .disconnected
            config := none
            shunt := true
            activity := .discharging true
            until_ := s.time.now + ms 20
            work := StageWork.none } := by
  have judged := judge_eq s j
  rw [withActive_self active] at judged
  have found : (evaluate (s.evalInput j.order.line)).2 = some .hazard := evaluate_hazard hazard
  obtain ⟨_, chain, headSame, _, time, _⟩ := delivered_beside s j.order.line (evaluate (s.evalInput j.order.line)).1
    (evaluate (s.evalInput j.order.line)).2
  dsimp only at judged
  rw [found] at judged chain headSame time
  generalize delivered s j.order.line (evaluate (s.evalInput j.order.line)).1 (some .hazard) = y at judged chain headSame time
  have told : s.hazardFound d = (withActive y (hazardEnded j d)).beginRelease .active := by
    rw [State.hazardFound, judged, updateActive]
    rfl
  have leaves : headLeaves s.head s.time.now =
      { s.head with
        state := .discharge
        source := .disconnected
        config := none
        shunt := true
        activity := .discharging true
        until_ := s.time.now + ms 20
        work := StageWork.none } := by
    simp [headLeaves, rests]
  have awake (clock : Nat) : suspensionEnded (hazardEnded j d) clock = hazardEnded j d := by
    rw [suspensionEnded, if_neg]
    rw [show (hazardEnded j d).phase = .running from running]
    decide
  have released := State.beginRelease_onHead (s := withActive y (hazardEnded j d)) (j := hazardEnded j d) (b := b) rfl bus
    (by rw [← head, ← headSame]; rfl)
    (by change y.head.state ≠ _; rw [headSame, onBus]; decide)
  rw [awake, State.claimReleasing_claims] at released
  rw [told, released]
  refine ⟨_, rfl, rfl, rfl, rfl, rfl, rfl, rfl, chain, ?_⟩
  change headLeaves y.head y.time.now = _
  rw [headSame, time, leaves]

/-- Settles O35: a FOREIGN stage ends foreign-clear with the next step, or in HAZARD_ABORT. -/
theorem foreignStageClearsOrAborts : Obligations.ForeignStageClearsOrAborts := by
  intro s j b tg rg tr r hTg hRg hTr hr sampling foreign head active bus running idle
  subst hr
  have formed : (Instr.foreignStageEnd tg rg tr).wellFormed = true := by simp [Instr.wellFormed, runFits, hTg, hRg, hTr]
  have ends : exec (.foreignStageEnd tg rg tr) s
      = .next ((s.passTo s.head.until_).foreignEnds (foreignReadings tg rg tr)).pump := by
    simp only [exec, execForeignStageEnd, Sys2Proof.Machine.formed, formed, if_true, sampling]
  generalize foreignReadings tg rg tr = r at ends
  refine ⟨fun c x clear on safe hx => ?_, fun tripped => ?_⟩
  · have found : (s.passTo s.head.until_).foreignEnds r = x.stageDone true := by
      unfold State.foreignEnds
      dsimp only
      rw [clear, if_neg Bool.false_ne_true, hx, Bool.or_false]
      rfl
    have active' : x.seq.active = .job j := by rw [hx]; exact active
    have at_ : AtHead x j b c := atHead_of_onItsBus on running (h := x.head) (by rw [hx]) (by rw [hx]) (by rw [hx]; exact safe) (by rw [hx]; rfl) rfl
    have chain : x.chain = s.chain := by rw [hx]; rfl
    rw [ends, found]
    refine ⟨fun noInsert plain => ?_, fun inserted _ => ?_⟩
    · rw [stageDone_follows active' at_ plain (.inr noInsert),
        State.pump_alike idle (by rw [stepFollows_chain, chain])]
    · rw [stageDone_inserted active' at_ inserted, State.pump_alike idle (by rw [stageOffered_chain]; exact chain)]
  · have found : (s.passTo s.head.until_).foreignEnds r
        = ((s.passTo s.head.until_).setHead
            { s.head with
              state := .onBus
              activity := .idle
              heldForeign := some r
              foreignClear := false
              hazardFound := true
              work := StageWork.none }).hazardFound (.foreign r.tripped) := by
      unfold State.foreignEnds
      dsimp only
      rw [tripped, if_pos rfl, Bool.or_true]
      rfl
    obtain ⟨i, active', phase, status, failing, hazard, verdict, order, chain, headEnds⟩ :=
      hazardFound_ends (s := (s.passTo s.head.until_).setHead
            { s.head with
              state := .onBus
              activity := .idle
              heldForeign := some r
              foreignClear := false
              hazardFound := true
              work := StageWork.none }) active bus running head rfl rfl rfl (.foreign r.tripped)
    refine ⟨_, i, ends, ?_⟩
    rw [found, State.pump_alike idle (by rw [chain]; rfl)]
    refine ⟨active', phase, status, failing, hazard, verdict, order, ?_⟩
    rw [headEnds, ← State.passTo_now]
    rfl

/-! ## RESIST (R69, R75, R76) -/

theorem sourceMayGoOn_iff (stage : s.head.state = .resist ∨ s.head.state = .capacity) :
    s.sourceMayGoOn = true ↔ s.headClaimHeld = true ∧ s.head.foreignClear = true := by
  rcases stage with h | h <;> simp [State.sourceMayGoOn, h]

theorem exec_resistOffPhaseEnd {current voltage : List Int} {k : HeadConfig} (hi : current.length = 16)
    (hv : voltage.length = 16) (off : s.head.activity = .resistOff) (config : s.head.config = some k) :
    exec (.resistOffPhaseEnd current voltage) s = .next
      (if 60000 < |meanOf (recordRun 250000 voltage)| then
        ((s.passTo s.head.until_).offHazard k (meanOf (recordRun 250000 voltage))).pump
       else
        (s.passTo s.head.until_).offSafe (meanOf (recordRun 60000000 current), meanOf (recordRun 250000 voltage))
          (runOver 60000000 (recordRun 60000000 current) || runOver 250000 (recordRun 250000 voltage))) := by
  have formed : (Instr.resistOffPhaseEnd current voltage).wellFormed = true := by simp [Instr.wellFormed, runFits, hi, hv]
  simp only [exec, execResistOffPhaseEnd, Sys2Proof.Machine.formed, formed, if_true, off, config]

/-- Settles O36: each phase of a RESIST configuration, and the end of the stage. -/
theorem resistStageRunsItsConfigurations : Obligations.ResistStageRunsItsConfigurations := by
  intro s current voltage k now hi hv state config hnow i v hi' hv'
  rw [← State.passTo_now] at hnow
  subst hnow hi' hv'
  have formed : (Instr.resistOnReadingEnd current).wellFormed = true := by simp [Instr.wellFormed, runFits, hi]
  refine ⟨fun off safe => ?_, fun settles => ?_, fun off next reads held => ?_, ?_⟩
  · rw [exec_resistOffPhaseEnd hi hv off config, if_neg (by omega), State.offSafe]
    have may : (s.passTo s.head.until_).sourceMayGoOn = true ↔ s.headClaimHeld = true ∧ s.head.foreignClear = true :=
      sourceMayGoOn_iff (.inl state)
    by_cases on : s.headClaimHeld = true ∧ s.head.foreignClear = true
    · rw [if_pos (by exact may.mpr on), if_pos on]
      rfl
    · rw [if_neg (by exact fun k => on (may.mp k)), if_neg on]
      rfl
  · rw [exec, execResistSettleEnd, if_pos settles]
    rfl
  · intro succeeds
    have succ : k.succ? = some next := by rcases succeeds with ⟨rfl, rfl⟩ | ⟨rfl, rfl⟩ <;> rfl
    simp only [exec, execResistOnReadingEnd, Sys2Proof.Machine.formed, formed, if_true, reads, config, held, succ]
    rfl
  · intro off a c j b own reads held last readings on running safe plain idle
    have whole : exec (.resistOnReadingEnd current) s = .next ((s.passTo s.head.until_).resistEnds
        { a := a
          b := c
          c := { iOff := off.1, vOff := off.2, iOn := meanOf (recordRun 60000000 current) }
          overrange := s.head.work.overrange || runOver 60000000 (recordRun 60000000 current) }).pump := by
      simp only [exec, execResistOnReadingEnd, Sys2Proof.Machine.formed, formed, if_true, reads, config, held, last,
        HeadConfig.succ?, State.passTo_head, readings, List.cons_append, List.nil_append, resistReadings]
    exact whole.trans (congrArg Host.Outcome.next (stageDone_pump on running plain idle rfl rfl safe))

/-- Settles O37: the OFF phase's hazard ends the job with its configuration and voltage. -/
theorem offPhaseHazardAborts : Obligations.OffPhaseHazardAborts := by
  intro s current voltage k j b hi hv state config off head active bus running idle v hv' beyond
  subst hv'
  obtain ⟨i, active', phase, status, failing, hazard, verdict, order, chain, headEnds⟩ :=
    hazardFound_ends (s := (s.passTo s.head.until_).setHead
      { s.head with
        state := .onBus
        source := .disconnected
        config := none
        foreignClear := false
        hazardFound := true
        activity := .idle
        work := StageWork.none }) active bus running head rfl rfl rfl (.resist k (meanOf (recordRun 250000 voltage)))
  have ends := exec_resistOffPhaseEnd hi hv off config
  rw [if_pos beyond] at ends
  refine ⟨_, i, ends, ?_⟩
  rw [State.offHazard, State.pump_alike idle (by exact chain)]
  refine ⟨active', phase, status, failing, hazard, verdict, order, ?_⟩
  rw [← State.passTo_now]
  exact headEnds

/-! ## CAPACITY (R69, R77) -/

/-- Settles O38: each configuration's record and drain, and the end of the stage. -/
theorem capacityStageRunsItsConfigurations : Obligations.CapacityStageRunsItsConfigurations := by
  intro s current k now hi state config hnow
  rw [← State.passTo_now] at hnow
  subst hnow
  have formed : (Instr.capacityRecordEnd current).wellFormed = true := by simp [Instr.wellFormed, runFits, hi]
  refine ⟨fun records => ?_, fun next drains succeeds => ?_, ?_⟩
  · simp only [exec, execCapacityRecordEnd, Sys2Proof.Machine.formed, formed, if_true, records]
    rfl
  · have succ : k.succ? = some next := by rcases succeeds with ⟨rfl, rfl⟩ | ⟨rfl, rfl⟩ <;> rfl
    simp only [exec, execCapacityDrainEnd, drains, config, succ, State.capacityStep]
    have may : ((s.passTo s.head.until_).setHead { s.head with shunt := false, config := some next }).sourceMayGoOn = true ↔ s.headClaimHeld = true ∧ s.head.foreignClear = true :=
      sourceMayGoOn_iff (.inr state)
    by_cases on : s.headClaimHeld = true ∧ s.head.foreignClear = true
    · rw [if_pos (by exact may.mpr on), if_pos on]
      rfl
    · rw [if_neg (by exact fun k => on (may.mp k)), if_neg on]
      rfl
  · intro x y z j b c drains last runs on running safe plain idle
    have whole : exec .capacityDrainEnd s = .next ((s.passTo s.head.until_).capacityEnds
        { a := x, b := y, c := z, overrange := s.head.work.overrange }).pump := by
      simp only [exec, execCapacityDrainEnd, drains, config, last, HeadConfig.succ?, State.passTo_head, runs, capacityReadings]
    exact whole.trans (congrArg Host.Outcome.next (stageDone_pump on running plain idle rfl rfl safe))

end Sys2Proof.Machine

/-! SUPPORT. The loop arithmetic (Chapter 5): rounding, the integer square root, and what the readings come to (O39 to O41). -/

namespace Sys2Proof.Machine

/-! ## Rounding half away from zero (R87) -/

theorem roundDiv_isRounded (n : Int) {d : Int} (pos : 0 < d) : IsRounded n d (roundDiv n d) := by
  unfold IsRounded roundDiv
  split
  · rename_i up
    have quot := Int.mul_ediv_add_emod (2 * n + d) (2 * d)
    have low := Int.emod_nonneg (2 * n + d) (show 2 * d ≠ 0 by omega)
    have high := Int.emod_lt_of_pos (2 * n + d) (show 0 < 2 * d by omega)
    have shape : 2 * d * ((2 * n + d) / (2 * d)) = 2 * ((2 * n + d) / (2 * d) * d) := by ring
    rw [shape] at quot
    generalize (2 * n + d) / (2 * d) * d = m at quot ⊢
    constructor
    · rw [abs_le]
      omega
    · intro even
      rw [abs_of_nonneg up]
      have big : n < m := by
        rcases abs_choice (2 * (n - m)) with h | h <;> omega
      exact lt_of_lt_of_le big (le_abs_self m)
  · rename_i down
    have quot := Int.mul_ediv_add_emod (2 * -n + d) (2 * d)
    have low := Int.emod_nonneg (2 * -n + d) (show 2 * d ≠ 0 by omega)
    have high := Int.emod_lt_of_pos (2 * -n + d) (show 0 < 2 * d by omega)
    have shape : 2 * d * ((2 * -n + d) / (2 * d)) = 2 * ((2 * -n + d) / (2 * d) * d) := by ring
    have neg : -((2 * -n + d) / (2 * d)) * d = -((2 * -n + d) / (2 * d) * d) := by ring
    rw [shape] at quot
    rw [neg]
    generalize (2 * -n + d) / (2 * d) * d = m at quot ⊢
    constructor
    · rw [abs_le]
      omega
    · intro even
      rw [abs_of_neg (by omega : n < 0), abs_neg]
      have big : -n < m := by
        rcases abs_choice (2 * (n - -m)) with h | h <;> omega
      exact lt_of_lt_of_le big (le_abs_self m)

/-- Two rounded quotients are at most one apart, and one apart they would lie on either side of a half (R87). -/
theorem isRounded_le {n d q q' : Int} (pos : 0 < d) (h : IsRounded n d q) (h' : IsRounded n d q') : q' ≤ q := by
  obtain ⟨near, tie⟩ := h
  obtain ⟨near', tie'⟩ := h'
  by_contra above
  have next : q + 1 ≤ q' := by omega
  have grows : q * d + d ≤ q' * d := by nlinarith
  rw [abs_le] at near near'
  have half : 2 * (n - q * d) = d := by omega
  have half' : 2 * (n - q' * d) = -d := by omega
  have away := tie (by rw [half, abs_of_pos pos])
  have away' := tie' (by rw [half', abs_neg, abs_of_pos pos])
  rcases le_or_gt 0 q with up | down
  · have base : 0 ≤ q * d := mul_nonneg up pos.le
    rw [abs_of_nonneg base, abs_of_nonneg (by omega)] at away
    omega
  · have same : q' * d = q * d + d := by omega
    have base : q' * d ≤ 0 := by rw [same]; nlinarith
    rw [abs_of_nonpos base, abs_of_nonpos (by omega)] at away'
    omega

theorem roundDiv_iff {n d q : Int} (pos : 0 < d) : roundDiv n d = q ↔ IsRounded n d q := by
  constructor
  · rintro rfl
    exact roundDiv_isRounded n pos
  · intro h
    exact le_antisymm (isRounded_le pos h (roundDiv_isRounded n pos)) (isRounded_le pos (roundDiv_isRounded n pos) h)

theorem roundDiv_nonneg {n d : Int} (up : 0 ≤ n) (pos : 0 < d) : 0 ≤ roundDiv n d := by
  rw [roundDiv, if_pos up]
  exact Int.ediv_nonneg (by omega) (by omega)

/-! ## The integer square root (R89) -/

/-- After `k` of the 32 bits the root found lies below the root sought by less than the bit last tried. -/
theorem isqrt_bits (n k : Nat) (small : n < (2 ^ 32) ^ 2) (within : k ≤ 32) :
    let r := (List.range k).foldl
      (fun r i => if (r + 2 ^ (31 - i)) * (r + 2 ^ (31 - i)) ≤ n then r + 2 ^ (31 - i) else r) 0
    r ^ 2 ≤ n ∧ n < (r + 2 ^ (32 - k)) ^ 2 := by
  induction k with
  | zero => exact ⟨Nat.zero_le n, by simpa using small⟩
  | succ k ih =>
    obtain ⟨below, above⟩ := ih (by omega)
    rw [List.range_succ, List.foldl_append, List.foldl_cons, List.foldl_nil]
    generalize (List.range k).foldl
      (fun r i => if (r + 2 ^ (31 - i)) * (r + 2 ^ (31 - i)) ≤ n then r + 2 ^ (31 - i) else r) 0 = r at below above
    have halves : 2 ^ (32 - k) = 2 ^ (31 - k) + 2 ^ (31 - k) := by
      rw [show 32 - k = (31 - k) + 1 by omega, pow_succ]
      ring
    have step : 32 - (k + 1) = 31 - k := by omega
    rw [halves] at above
    dsimp only
    rw [step]
    split
    · rename_i fits
      exact ⟨by rw [sq]; exact fits, by rw [Nat.add_assoc]; exact above⟩
    · rename_i fails
      exact ⟨below, by rw [sq]; omega⟩

theorem isqrt_spec {n : Nat} (small : n < (2 ^ 32) ^ 2) : isqrt n ^ 2 ≤ n ∧ n < (isqrt n + 1) ^ 2 :=
  isqrt_bits n 32 small le_rfl

/-! ## Foreign reduction (R70, R73, R88, R89) -/

theorem atEnd_saturate {limit x : Int} (pos : 0 < limit) : atEnd limit (saturate limit x) = true ↔ limit ≤ |x| := by
  rw [atEnd, saturate, Bool.or_eq_true, decide_eq_true_eq, decide_eq_true_eq, le_abs]
  omega

theorem runOver_recordRun {limit : Int} (pos : 0 < limit) (xs : List Int) :
    runOver limit (recordRun limit xs) = true ↔ ∃ x ∈ xs, limit ≤ |x| := by
  simp [runOver, recordRun, atEnd_saturate pos]

theorem recordRun_bounds {limit : Int} (pos : 0 < limit) (xs : List Int) :
    ∀ y ∈ recordRun limit xs, -limit ≤ y ∧ y ≤ limit := by
  intro y mem
  obtain ⟨x, _, rfl⟩ := List.mem_map.mp mem
  unfold saturate
  omega

theorem sum_bounds {xs : List Int} {low high : Int} (h : ∀ x ∈ xs, low ≤ x ∧ x ≤ high) :
    xs.length * low ≤ xs.sum ∧ xs.sum ≤ xs.length * high := by
  induction xs with
  | nil => simp
  | cons x xs ih =>
    obtain ⟨lowest, highest⟩ := ih (fun y mem => h y (List.mem_cons_of_mem x mem))
    obtain ⟨lowX, highX⟩ := h x List.mem_cons_self
    simp only [List.sum_cons, List.length_cons, Nat.cast_add, Nat.cast_one, add_mul, one_mul]
    omega

/-- The AC value is the root of the mean square deviation, rounded down (R89). -/
theorem acOf_spec {xs : List Int} (count : xs.length = 80) (bounds : ∀ x ∈ xs, -250000 ≤ x ∧ x ≤ 250000) {dc : Int}
    (mean : meanOf xs = dc) :
    80 * (acOf xs : Int) ^ 2 ≤ (xs.map (fun x => (x - dc) ^ 2)).sum
      ∧ (xs.map (fun x => (x - dc) ^ 2)).sum < 80 * ((acOf xs : Int) + 1) ^ 2 := by
  have rounded : IsRounded xs.sum 80 dc := by
    rw [← roundDiv_iff (by omega), ← mean, meanOf, count]
    rfl
  obtain ⟨near, _⟩ := rounded
  obtain ⟨sumLow, sumHigh⟩ := sum_bounds bounds
  rw [count] at sumLow sumHigh
  rw [abs_le] at near
  have dcLow : -250001 ≤ dc := by omega
  have dcHigh : dc ≤ 250001 := by omega
  have squares : ∀ y ∈ xs.map (fun x => (x - dc) ^ 2), 0 ≤ y ∧ y ≤ 500001 ^ 2 := by
    intro y mem
    obtain ⟨x, memX, rfl⟩ := List.mem_map.mp mem
    obtain ⟨low, high⟩ := bounds x memX
    exact ⟨sq_nonneg _, sq_le_sq' (by omega) (by omega)⟩
  obtain ⟨total, bound⟩ := sum_bounds squares
  rw [List.length_map, count] at total bound
  have root : acOf xs = isqrt ((xs.map (fun x => (x - dc) ^ 2)).sum / 80).toNat := by
    simp only [acOf, meanSquare, mean, count, sq]
    rfl
  generalize (xs.map (fun x => (x - dc) ^ 2)).sum = total_ at total bound root ⊢
  have cast : (((total_ / 80).toNat : Nat) : Int) = total_ / 80 := Int.toNat_of_nonneg (by omega)
  obtain ⟨below, above⟩ := isqrt_spec (n := (total_ / 80).toNat) (by omega)
  rw [← root] at below above
  have below' : ((acOf xs : Int)) ^ 2 ≤ total_ / 80 := by rw [← cast]; exact_mod_cast below
  have above' : total_ / 80 < ((acOf xs : Int) + 1) ^ 2 := by rw [← cast]; exact_mod_cast above
  generalize (acOf xs : Int) ^ 2 = low at below' ⊢
  generalize ((acOf xs : Int) + 1) ^ 2 = high at above' ⊢
  omega

theorem pair_reduced {met : List Int} (count : met.length = 80) :
    PairReduced met (recordRun 250000 met) (meanOf (recordRun 250000 met)) (acOf (recordRun 250000 met))
      (pairTrips (meanOf (recordRun 250000 met)) (acOf (recordRun 250000 met)) (recordRun 250000 met)) := by
  have count' : (recordRun 250000 met).length = 80 := by simpa [recordRun] using count
  obtain ⟨low, high⟩ := acOf_spec count' (recordRun_bounds (by omega) met) rfl
  refine ⟨rfl, ?_, low, high, ?_⟩
  · rw [← roundDiv_iff (by omega), meanOf, count']
    rfl
  · have beyond : runOver Config.voltageMax (recordRun 250000 met) = true ↔ ∃ x ∈ met, 250000 ≤ |x| :=
      runOver_recordRun (by decide) met
    rw [pairTrips, Bool.or_eq_true, Bool.or_eq_true, decide_eq_true_eq, decide_eq_true_eq, beyond, or_assoc]

/-- Settles O39: rounding is the nearest whole number with ties away from zero, and each pair is reduced by it. -/
theorem foreignReductionAndHazardTest : Obligations.ForeignReductionAndHazardTest := by
  refine ⟨fun n d q pos => roundDiv_iff pos, fun tg rg tr r hTg hRg hTr hr => ?_⟩
  subst hr
  simp only [foreignReadings, trippedPairs, reduceForeign]
  refine ⟨pair_reduced hTg, pair_reduced hRg, pair_reduced hTr, ?_⟩
  have beyond (xs : List Int) : runOver Config.voltageMax (recordRun Config.voltageMax xs) = true ↔ ∃ x ∈ xs, 250000 ≤ |x| :=
    runOver_recordRun (by decide) xs
  simp only [Bool.or_eq_true, beyond, List.mem_append, or_and_right, exists_or]

end Sys2Proof.Machine

/-! SUPPORT. What held RESIST and CAPACITY readings come to (O40, O41). -/

namespace Sys2Proof.Machine

/-! ## Conductances and resistances (R90 to R94) -/

theorem conductance_spec (setting net : Int) : IsConductance setting net (conductance setting net).1 (conductance setting net).2 := by
  refine ⟨roundDiv net 500, roundDiv_isRounded net (by omega), fun low => ?_, fun high dry => ?_, fun high flows => ?_⟩
  · have short : lineVoltage setting net < 100 := low
    simp only [conductance, short, if_true, and_self]
  · have long : ¬ lineVoltage setting net < 100 := not_lt.mpr high
    simp only [conductance, long, dry, if_true, if_false, and_self]
  · have long : ¬ lineVoltage setting net < 100 := not_lt.mpr high
    have wet : ¬ net ≤ 0 := not_le.mpr flows
    refine ⟨roundDiv (net * 1000000) (lineVoltage setting net), roundDiv_isRounded _ (by omega), ?_⟩
    simp only [conductance, long, wet, if_false]
    split
    · rename_i past
      exact ⟨(min_eq_left past.le).symm, by simpa using past⟩
    · rename_i within
      exact ⟨(min_eq_right (not_lt.mp within)).symm, by simpa using within⟩

theorem halfWithin_spec (limit sum : Int) : IsHalf limit sum (halfWithin limit sum) :=
  ⟨roundDiv sum 2, roundDiv_isRounded sum (by omega), rfl⟩

theorem resistanceOf_spec (g : Int) : IsResistance g (resistanceOf g) := by
  refine ⟨fun low => ?_, fun high => ?_, fun low high => ?_⟩
  · rw [resistanceOf, if_pos low]
  · rw [resistanceOf, if_neg (by omega), if_pos high]
  · rw [resistanceOf, if_neg (by omega), if_neg (not_le.mpr high)]
    refine ⟨rfl, roundDiv 1000000000000 g, roundDiv_isRounded _ (by omega), ?_⟩
    exact Int.toNat_of_nonneg (le_min (by omega) (roundDiv_nonneg (by omega) (by omega)))

theorem noGreater_refl (x : Resistance) : NoGreater x x := by
  by_cases open_ : x.mark = .openLine
  · exact .inl open_
  · exact .inr ⟨open_, .inr ⟨rfl, by tauto⟩⟩

theorem noGreater_trans {x y z : Resistance} (h : NoGreater x y) (h' : NoGreater y z) : NoGreater x z := by
  rcases h' with last | ⟨notOpen, after⟩
  · exact .inl last
  rcases h with open_ | ⟨first, before⟩
  · exact absurd open_ notOpen
  refine .inr ⟨first, ?_⟩
  rcases before with less | ⟨same, mark⟩ <;> rcases after with less' | ⟨same', mark'⟩
  · exact .inl (by omega)
  · exact .inl (by omega)
  · exact .inl (by omega)
  · exact .inr ⟨same.trans same', by tauto⟩

/-- The lesser of two resistances is one of them and no greater than either (R94). -/
theorem lesserResistance_spec (x y : Resistance) :
    (lesserResistance x y = x ∨ lesserResistance x y = y)
      ∧ NoGreater (lesserResistance x y) x ∧ NoGreater (lesserResistance x y) y := by
  unfold lesserResistance
  split
  · rename_i open_
    exact ⟨.inr rfl, .inl open_, noGreater_refl y⟩
  rename_i first
  split
  · rename_i open_
    exact ⟨.inl rfl, noGreater_refl x, .inl open_⟩
  rename_i second
  split
  · rename_i less
    exact ⟨.inl rfl, noGreater_refl x, .inr ⟨first, .inl less⟩⟩
  split
  · rename_i less
    exact ⟨.inr rfl, .inr ⟨second, .inl less⟩, noGreater_refl y⟩
  have same : x.ohms = y.ohms := by omega
  split
  · rename_i mark
    exact ⟨.inl rfl, noGreater_refl x, .inr ⟨first, .inr ⟨same, .inl mark⟩⟩⟩
  · rename_i mark
    exact ⟨.inr rfl, .inr ⟨second, .inr ⟨same.symm, .inr mark⟩⟩, noGreater_refl y⟩

theorem worstOf_spec (tr tg rg : Resistance) :
    (worstOf tr tg rg = tr ∨ worstOf tr tg rg = tg ∨ worstOf tr tg rg = rg)
      ∧ NoGreater (worstOf tr tg rg) tr ∧ NoGreater (worstOf tr tg rg) tg ∧ NoGreater (worstOf tr tg rg) rg := by
  obtain ⟨inner, innerTg, innerRg⟩ := lesserResistance_spec tg rg
  obtain ⟨outer, outerTr, outerInner⟩ := lesserResistance_spec tr (lesserResistance tg rg)
  refine ⟨?_, outerTr, noGreater_trans outerInner innerTg, noGreater_trans outerInner innerRg⟩
  rcases outer with h | h
  · exact .inl h
  · rcases inner with k | k
    · exact .inr (.inl (h.trans k))
    · exact .inr (.inr (h.trans k))

theorem kohmOf_none {r : Resistance} (mark : r.mark = .none) : kohmOf (some r) = min 65535 (r.ohms / 1000) := by
  simp only [kohmOf, mark]
  split <;> omega

/-- What the worst of three resistances is, and its kilohms (R94). -/
theorem worst_clauses (tr tg rg : Resistance) :
    (worstOf tr tg rg = tr ∨ worstOf tr tg rg = tg ∨ worstOf tr tg rg = rg)
      ∧ NoGreater (worstOf tr tg rg) tr ∧ NoGreater (worstOf tr tg rg) tg ∧ NoGreater (worstOf tr tg rg) rg
      ∧ kohmOf none = 65535
      ∧ ((worstOf tr tg rg).mark = .openLine → kohmOf (some (worstOf tr tg rg)) = 65535)
      ∧ ((worstOf tr tg rg).mark = .atOrBelow → kohmOf (some (worstOf tr tg rg)) = 0)
      ∧ ((worstOf tr tg rg).mark = .none → kohmOf (some (worstOf tr tg rg)) = min 65535 ((worstOf tr tg rg).ohms / 1000)) := by
  obtain ⟨one, noTr, noTg, noRg⟩ := worstOf_spec tr tg rg
  exact ⟨one, noTr, noTg, noRg, rfl, fun mark => by simp only [kohmOf, mark], fun mark => by simp only [kohmOf, mark],
    kohmOf_none⟩

/-- Settles O40: each conductance, pair value and resistance is the one that section 5.3 to 5.5 give. -/
theorem resistancesFollowFromTheReadings : Obligations.ResistancesFollowFromTheReadings := by
  intro setting r x flag _ _ solved
  simp only [solveResist, Prod.mk.injEq] at solved
  obtain ⟨rfl, rfl⟩ := solved
  refine ⟨⟨_, _, _, _, _, _, _, _, _, conductance_spec _ _, conductance_spec _ _, conductance_spec _ _, rfl,
    halfWithin_spec _ _, halfWithin_spec _ _, halfWithin_spec _ _, resistanceOf_spec _, resistanceOf_spec _,
    resistanceOf_spec _⟩, ?_⟩
  exact worst_clauses _ _ _

/-! ## Capacitances (R95 to R97) -/

theorem chargeOf_eq (run : List Int) : chargeOf run = (run.sum - run.length * finalCurrent run) * 100 := by
  unfold chargeOf
  generalize finalCurrent run = f
  induction run with
  | nil => simp
  | cons y run ih =>
    simp only [List.map_cons, List.sum_cons, List.length_cons, ih]
    push_cast
    ring

theorem capacitanceOf_spec {setting : Int} (pos : 0 < setting) {run : List Int} (count : run.length = 256) :
    IsCapacitance setting run (capacitanceOf setting run).1 (capacitanceOf setting run).2 := by
  have final : finalCurrent run = roundDiv (run.drop 240).sum 16 := by rw [finalCurrent, count]
  refine ⟨finalCurrent run, roundDiv (chargeOf run) setting, ?_, ?_, ?_⟩
  · rw [final]
    exact roundDiv_isRounded _ (by omega)
  · rw [chargeOf_eq, count]
    exact roundDiv_isRounded _ pos
  · unfold capacitanceOf
    dsimp only
    generalize roundDiv (chargeOf run) setting = q
    split
    · rename_i below
      exact ⟨by dsimp only; omega, by simp only [Bool.false_eq_true, false_iff]; omega⟩
    split
    · rename_i past
      have past' : 10000000 < q := past
      exact ⟨by change 10000000 = _; omega, by simpa using past⟩
    · rename_i up within
      have within' : ¬ 10000000 < q := within
      exact ⟨by change q = _; omega, by simpa using within⟩

theorem imbalanceOf_spec (tg rg : Nat) :
    imbalanceOf tg rg ≤ 100
      ∧ (tg = 0 → rg = 0 → imbalanceOf tg rg = 100)
      ∧ (0 < max tg rg →
          imbalanceOf tg rg * max tg rg ≤ min tg rg * 100 ∧ min tg rg * 100 < (imbalanceOf tg rg + 1) * max tg rg) := by
  unfold imbalanceOf
  by_cases none_ : tg = 0 ∧ rg = 0
  · rw [if_pos none_]
    obtain ⟨rfl, rfl⟩ := none_
    simp
  · rw [if_neg none_]
    have some_ : 0 < max tg rg := by omega
    refine ⟨?_, fun h h' => absurd ⟨h, h'⟩ none_, fun _ => ⟨Nat.div_mul_le_self _ _, ?_⟩⟩
    · exact Nat.div_le_of_le_mul (by nlinarith [min_le_max (a := tg) (b := rg)])
    · rw [Nat.mul_comm (_ + 1)]
      exact Nat.lt_mul_div_succ _ some_

theorem lengthOf_spec {perKm : Nat} (pos : 0 < perKm) (tr : Nat) :
    (tr < 1000 → lengthOf tr perKm = none)
      ∧ (1000 ≤ tr → ∃ m : Nat, m * perKm ≤ tr * 1000 ∧ tr * 1000 < (m + 1) * perKm
          ∧ lengthOf tr perKm = some (min 65535 m)) := by
  refine ⟨fun short => if_pos short, fun long => ⟨tr * 1000 / perKm, Nat.div_mul_le_self _ _, ?_, if_neg (by omega)⟩⟩
  rw [Nat.mul_comm (_ + 1)]
  exact Nat.lt_mul_div_succ _ pos

theorem halfWithin_toNat {limit : Int} (pos : 0 ≤ limit) (sum : Int) :
    IsHalf limit sum ((halfWithin limit sum).toNat : Int) := by
  have up : 0 ≤ halfWithin limit sum := le_min pos (le_max_left 0 _)
  rw [Int.toNat_of_nonneg up]
  exact halfWithin_spec limit sum

/-- Settles O41: each capacitance, pair value, imbalance and length is the one that sections 5.4 and 5.6 give. -/
theorem capacitancesFollowFromTheReadings : Obligations.CapacitancesFollowFromTheReadings := by
  intro setting perKm r x flag low _ perKmLow _ hA hB hC solved
  simp only [solveCapacity, Prod.mk.injEq] at solved
  obtain ⟨rfl, rfl⟩ := solved
  have pos : 0 < setting := by omega
  obtain ⟨percent, none_, some_⟩ := imbalanceOf_spec
    (deltaSolve Config.capacitanceMax (capacitanceOf setting r.a).1 (capacitanceOf setting r.b).1
      (capacitanceOf setting r.c).1).tg.toNat
    (deltaSolve Config.capacitanceMax (capacitanceOf setting r.a).1 (capacitanceOf setting r.b).1
      (capacitanceOf setting r.c).1).rg.toNat
  obtain ⟨short, long⟩ := lengthOf_spec (perKm := perKm) (by omega)
    (deltaSolve Config.capacitanceMax (capacitanceOf setting r.a).1 (capacitanceOf setting r.b).1
      (capacitanceOf setting r.c).1).tr.toNat
  exact ⟨⟨_, _, _, _, _, _, capacitanceOf_spec pos hA, capacitanceOf_spec pos hB, capacitanceOf_spec pos hC, rfl,
    halfWithin_toNat (by decide) _, halfWithin_toNat (by decide) _, halfWithin_toNat (by decide) _⟩, percent, none_, some_,
    short, long⟩

end Sys2Proof.Machine

/-! SUPPORT. The start of an access (O43). -/

namespace Sys2Proof.Machine

variable {s t : State}

/-! ## The first order that qualifies -/

theorem State.lineInTable_iff (s : State) (line : Nat) :
    s.lineInTable line = true ↔ ∃ e ∈ s.claims.entries, e.line = some line := by
  simp [State.lineInTable]

theorem State.readyOrder_first {before after : List QueuedOrder} {o : Order} (h : OrderReady s before after o) :
    s.readyOrder = some o := by
  obtain ⟨queue, passed, -, free⟩ := h
  have skipped : ∀ x ∈ before, (x.waiting.isNone && !s.lineInTable x.order.line) = false := by
    intro x hx
    rcases passed x hx with waits | carried
    · simp [Option.isNone_iff_eq_none, waits]
    · simp [(s.lineInTable_iff x.order.line).mpr carried]
  have open_ : s.lineInTable o.line = false := by
    rw [Bool.eq_false_iff, Ne, s.lineInTable_iff]
    exact fun ⟨e, he, line⟩ => free e he line
  unfold State.readyOrder
  rw [queue, List.find?_append, List.find?_eq_none.mpr fun x hx => by simp [skipped x hx]]
  simp [open_]

theorem State.readyOrder_none
    (h : ∀ q ∈ s.seq.queue, q.waiting ≠ none ∨ ∃ e ∈ s.claims.entries, e.line = some q.order.line) :
    s.readyOrder = none := by
  unfold State.readyOrder
  rw [Option.map_eq_none_iff, List.find?_eq_none]
  intro q hq
  rcases h q hq with waits | carried
  · simp [Option.isNone_iff_eq_none, waits]
  · simp [(s.lineInTable_iff q.order.line).mpr carried]

/-! ## The slot of a new job -/

theorem State.newSlot_empty {id : SlotId} (h : s.newSlot = some id) : s.slot id = .empty := by
  unfold State.newSlot at h
  split at h
  · rename_i free
    cases h
    exact free
  · split at h
    · rename_i free
      cases h
      exact free.1
    · cases h

theorem State.newSlot_of_free (h : SlotFree s) : ∃ id, s.newSlot = some id := by
  unfold State.newSlot
  by_cases active : s.seq.active = .empty
  · exact ⟨_, if_pos active⟩
  · rw [if_neg active]
    rcases h with empty | ⟨staged, buses, -⟩
    · exact absurd empty active
    · exact ⟨_, if_pos ⟨staged, buses⟩⟩

theorem State.newSlot_active (h : s.newSlot = some .active) : s.seq.active = .empty :=
  State.newSlot_empty h

theorem State.newSlot_staged (h : s.newSlot = some .staged) : s.seq.staged = .empty ∧ s.seq.active ≠ .empty := by
  refine ⟨State.newSlot_empty h, fun empty => ?_⟩
  rw [State.newSlot, if_pos empty] at h
  cases h

theorem State.slotMove_released {a b : Job} (active : s.seq.active = .job a) (staged : s.seq.staged = .job b)
    (stays : b.phase ≠ .releasing) :
    s.slotMove = if a.phase = .releasing ∧ a.headFreed = true then
      s.setSeq { s.seq with active := .job b, staged := .job a } else s := by
  unfold State.slotMove
  rw [active, staged]
  dsimp only
  simp only [stays, ne_eq, not_false_eq_true, and_true]

theorem State.slotMove_stands {a : Job} (active : s.seq.active = .job a) (stays : a.phase ≠ .releasing) :
    s.slotMove = s := by
  unfold State.slotMove
  rw [active]
  cases s.seq.staged <;> simp [stays]

theorem State.slotMove_waits {w : Waiting} (active : s.seq.active = .donePending w) : s.slotMove = s := by
  unfold State.slotMove
  rw [active]

/-- A job that has just entered its slot takes the place R112 gives it, and the head takes up no other job's connect. -/
theorem State.settleSlots_taken {id : SlotId} {k : Job} {q : Sequencer} (free : SlotFree s) (slot : s.newSlot = some id)
    (phase : k.phase = .access) (active : q.active = s.seq.active) (ht : t.seq = slotFilled q id (.job k))
    (head : t.head = s.head) : t.settleSlots = t.setSeq (slotTaken q k) := by
  have stays : k.phase ≠ .releasing := by simp [phase]
  have waits : k.phase ≠ .ready := by simp [phase]
  have itself : t = t.setSeq t.seq := rfl
  unfold State.settleSlots
  cases id with
  | active =>
    have now : t.seq.active = .job k := by rw [ht]; rfl
    rw [State.slotMove_stands now stays, State.offerHead_stands fun i hi ready => by
      rw [now] at hi; cases hi; exact absurd ready waits]
    rw [slotTaken, active.trans (State.newSlot_active slot)]
    exact itself.trans (congrArg t.setSeq ht)
  | staged =>
    obtain ⟨-, taken⟩ := State.newSlot_staged slot
    have now : t.seq.staged = .job k := by rw [ht]; rfl
    have then_ : t.seq.active = s.seq.active := by rw [ht]; exact active
    have headStands : ∀ i, s.seq.active = .job i → i.phase = .ready → t.head.state ≠ .offBus := by
      rw [head]
      rcases free with empty | ⟨-, -, rule⟩
      · exact absurd empty taken
      · exact rule
    cases h : s.seq.active with
    | empty => exact absurd h taken
    | donePending w =>
      rw [State.slotMove_waits (then_.trans h), State.offerHead_stands fun i hi => by rw [then_, h] at hi; cases hi]
      have filled : slotTaken q k = slotFilled q .staged (.job k) := by
        simp only [slotTaken, slotFilled, active.trans h]
      rw [filled]
      exact itself.trans (congrArg t.setSeq ht)
    | job a =>
      rw [State.slotMove_released (then_.trans h) now stays, slotTaken, active.trans h]
      dsimp only
      split
      · rw [State.offerHead_stands fun i hi ready => by cases hi; exact absurd ready waits, ht]
        rfl
      · rw [State.offerHead_stands fun i hi => headStands i (then_.symm.trans hi), ← h, ← active]
        exact itself.trans (congrArg t.setSeq ht)

/-! ## An order and a sweep job come into a slot -/

/-- A station in which the claim of a new job is tested at once, its CLAIM refused by no notice before it (R41). -/
structure State.TestsAtOnce (s : State) : Prop where
  station : s.claims.station = .active
  noneHeld : s.line.heldClaims.any Tx.isClaim = false
  loaded : s.line.flight.isSome = true ∨ s.line.queue = []

theorem claimTested_setSeq (s : State) (q : Sequencer) (line : Nat) (u : Urgency) (pref : Option Nat) :
    claimTested (s.setSeq q) line u pref = (claimTested s line u pref).setSeq q := by
  have same : (s.setSeq q).candidate line u pref = s.candidate line u pref := rfl
  unfold claimTested
  rw [same]
  cases s.candidate line u pref with
  | none => rfl
  | some b =>
    change (if s.line.queue.length < 16 then _ else _) = State.setSeq (if s.line.queue.length < 16 then _ else _) q
    split <;> rfl

theorem claimTested_opening (s : State) (line : Nat) (u : Urgency) (pref : Option Nat) (o : Option Opening) :
    claimTested (s.setClaims { s.claims with opening := o }) line u pref = claimTested s line u pref := by
  have same : (s.setClaims { s.claims with opening := o }).candidate line u pref = s.candidate line u pref := rfl
  unfold claimTested
  rw [same]
  cases s.candidate line u pref with
  | none => rfl
  | some b =>
    change (if s.line.queue.length < 16 then _ else _) = (if s.line.queue.length < 16 then _ else _)
    split <;> rfl

theorem claimTested_head (s : State) (line : Nat) (u : Urgency) (pref : Option Nat) :
    (claimTested s line u pref).head = s.head := by
  unfold claimTested
  (repeat' split) <;> rfl

theorem claimTested_seq (s : State) (line : Nat) (u : Urgency) (pref : Option Nat) :
    (claimTested s line u pref).seq = s.seq := by
  unfold claimTested
  (repeat' split) <;> rfl

theorem State.requestClaim_eq (h : s.TestsAtOnce) (o : Order) :
    s.requestClaim o = claimTested s o.line o.urgency o.pref := by
  rw [State.requestClaim, State.claimTest_tested (by rfl) (by rfl) (by exact h.noneHeld) (.inl (by exact h.station))
    (by exact h.loaded)]
  exact claimTested_opening ..

/-- A job has come into its slot, and its claim has been requested (R112, R113). -/
theorem State.enters_eq {id : SlotId} {o : Order} {sweep : Option SweepInfo} {q : Sequencer} (h : s.TestsAtOnce)
    (free : SlotFree s) (slot : s.newSlot = some id) (active : q.active = s.seq.active) :
    ((((s.setSeq q).setSlot id (.job (newJob o sweep))).requestClaim o).settleSlots)
      = { claimTested s o.line o.urgency o.pref with seq := slotTaken q (newJob o sweep) } := by
  have tests : ((s.setSeq q).setSlot id (.job (newJob o sweep))).TestsAtOnce := by
    rw [State.setSlot_eq]
    exact ⟨h.station, h.noneHeld, h.loaded⟩
  rw [State.requestClaim_eq tests, State.settleSlots_taken (k := newJob o sweep) free slot rfl active, State.setSlot_eq]
  · change (claimTested (s.setSeq _) _ _ _).setSeq _ = _
    rw [claimTested_setSeq]
    rfl
  · rw [claimTested_seq, State.setSlot_eq]
    rfl
  · rw [claimTested_head, State.setSlot_eq]
    rfl

theorem State.takeOrder_eq {id : SlotId} {before after : List QueuedOrder} {o : Order} (h : s.TestsAtOnce)
    (free : SlotFree s) (slot : s.newSlot = some id) (ready : OrderReady s before after o) :
    s.takeOrder id = orderTaken s (before ++ after) o := by
  have left : s.seq.queue.filter (fun q => q.order.tag != o.tag) = before ++ after :=
    filter_mid ready.1 (by simp) fun x hx => by simpa using ready.2.2.1 x hx
  rw [State.takeOrder, State.readyOrder_first ready]
  dsimp only
  rw [State.enterOrder, left, State.enters_eq h free slot (by rfl)]
  rfl

theorem State.takeOrder_none {id : SlotId}
    (h : ∀ q ∈ s.seq.queue, q.waiting ≠ none ∨ ∃ e ∈ s.claims.entries, e.line = some q.order.line) :
    s.takeOrder id = s := by
  rw [State.takeOrder, State.readyOrder_none h]

/-- The sweep as it stands when a job of its own has been made (R177, R184). -/
def jobMade (s : State) (x : Sweep) : State :=
  { s with
    sweep :=
      { x with
        state := if s.sweep.state = .haltedComplete then .haltedComplete else .testing
        due := some (s.time.clock + s.sweep.interval * 1000)
        offer := false
        guardPassed := false } }

theorem State.enterSweep_eq {id : SlotId} {line : Nat} {retest : Bool} {x : Sweep} (h : s.TestsAtOnce)
    (free : SlotFree s) (slot : s.newSlot = some id) (pass : x.pass = s.sweep.pass) (may : MayBeRefused s line) :
    (jobMade s x).enterSweep id line retest = sweepTaken s line retest x := by
  have candidate : ((jobMade s x).setSlot id (.job (sweepTest s line retest))).candidate line .routine none
      = s.candidate line .routine none := by
    rw [State.setSlot_eq]
    rfl
  have enters : (jobMade s x).enterSweep id line retest
      = if (((jobMade s x).setSlot id (.job (sweepTest s line retest))).candidate line .routine none).isSome then
          (((jobMade s x).setSlot id (.job (sweepTest s line retest))).requestClaim
            (sweepTest s line retest).order).settleSlots
        else ((jobMade s x).setSlot id (.job (sweepTest s line retest))).endSweepJob id
          (((jobMade s x).setSlot id (.job (sweepTest s line retest))).notFreeStatus line) := by
    unfold State.enterSweep sweepTest jobMade
    dsimp only
    rw [pass]
    rfl
  rw [enters, candidate]
  unfold sweepTaken
  dsimp only
  split
  · exact (State.enters_eq (s := jobMade s x) (q := s.seq) ⟨h.station, h.noneHeld, h.loaded⟩ free slot rfl)
  · rename_i none_
    have staged : s.seq.staged = .empty := may.resolve_left none_
    have stands : SlotsStand ((jobMade s x).setSlot id (.job (sweepTest s line retest))) id := by
      rw [State.setSlot_eq]
      refine ⟨fun h => ?_, fun h i active ready => ?_⟩
      · subst h
        exact staged
      · subst h
        rcases free with empty | ⟨-, -, rule⟩
        · exact absurd empty (State.newSlot_staged slot).2
        · exact rule i active ready
    have cleared : (jobMade s x).setSlot id .empty = jobMade s x :=
      State.setSlot_slot (s := jobMade s x) (State.newSlot_empty slot)
    rw [State.endSweepJob_stands (by exact State.slot_setSlot ..) (by rfl) stands, State.setSlot_setSlot, cleared,
      State.notFreeStatus_eq, State.setSlot_eq]
    rfl

/-! ## The overdue ticket -/

/-- One step of the search for the overdue ticket whose retest is due earliest (R162). -/
def earlierOverdue (s : State) (best : Option Ticket) (t : Ticket) : Option Ticket :=
  if s.overdue t then
    match best with
    | none => some t
    | some b => if t.retestDue.getD 0 < b.retestDue.getD 0 then some t else some b
  else best

theorem State.overdueTicket_eq (s : State) : s.overdueTicket = s.tickets.table.foldl (earlierOverdue s) none := rfl

theorem State.overdue_iff (s : State) (t : Ticket) :
    s.overdue t = true ↔ ∃ m, t.retestDue = some m ∧ m ≤ s.time.clock / 1000 := by
  rw [State.overdue, Option.any_eq_true]
  exact exists_congr fun m => and_congr_right fun _ => decide_eq_true_iff

theorem earlierOverdue_none {best : Option Ticket} {t : Ticket} (h : ∀ m ∈ t.retestDue, s.time.clock / 1000 < m) :
    earlierOverdue s best t = best := by
  have notYet : ¬ s.overdue t = true := by
    rw [s.overdue_iff]
    exact fun ⟨m, due, reached⟩ => absurd (h m due) (by omega)
  unfold earlierOverdue
  rw [if_neg notYet]

/-- A ticket of the search, or none, whose retest is due after a moment. -/
abbrev DueAfter (m : Nat) (best : Option Ticket) : Prop := ∀ b ∈ best, ∃ n, b.retestDue = some n ∧ m < n

theorem earlierOverdue_later {best : Option Ticket} {t : Ticket} {m : Nat} (later : DueAfter m best)
    (h : ∀ n ∈ t.retestDue, m < n) : DueAfter m (earlierOverdue s best t) := by
  by_cases overdue : s.overdue t = true
  · obtain ⟨n, due, -⟩ := (s.overdue_iff t).mp overdue
    have found : DueAfter m (some t) := fun b hb => by
      cases hb
      exact ⟨n, due, h n due⟩
    unfold earlierOverdue
    rw [if_pos overdue]
    cases best with
    | none => exact found
    | some b =>
      dsimp only
      split
      · exact found
      · exact later
  · unfold earlierOverdue
    rwa [if_neg overdue]

theorem foldl_earlierOverdue_later {m : Nat} (l : List Ticket) (h : ∀ t ∈ l, ∀ n ∈ t.retestDue, m < n)
    {best : Option Ticket} (later : DueAfter m best) : DueAfter m (l.foldl (earlierOverdue s) best) := by
  induction l generalizing best with
  | nil => exact later
  | cons t l ih =>
    exact ih (fun x hx => h x (List.mem_cons_of_mem _ hx)) (earlierOverdue_later later (h t List.mem_cons_self))

theorem foldl_earlierOverdue_stands {m : Nat} {k : Ticket} (due : k.retestDue = some m) (l : List Ticket)
    (h : ∀ t ∈ l, ∀ n ∈ t.retestDue, m ≤ n) : l.foldl (earlierOverdue s) (some k) = some k := by
  induction l with
  | nil => rfl
  | cons t l ih =>
    have stands : earlierOverdue s (some k) t = some k := by
      unfold earlierOverdue
      split
      · rename_i overdue
        obtain ⟨n, later, -⟩ := (s.overdue_iff t).mp overdue
        have order := h t List.mem_cons_self n later
        dsimp only
        rw [if_neg (by rw [later, due]; exact Nat.not_lt.mpr order)]
      · rfl
    rw [List.foldl_cons, stands]
    exact ih fun x hx => h x (List.mem_cons_of_mem _ hx)

theorem earlierOverdue_found {best : Option Ticket} {k : Ticket} {m : Nat} (overdue : s.overdue k = true)
    (due : k.retestDue = some m) (later : DueAfter m best) : earlierOverdue s best k = some k := by
  unfold earlierOverdue
  rw [if_pos overdue]
  cases best with
  | none => rfl
  | some b =>
    obtain ⟨n, bdue, first⟩ := later b rfl
    exact if_pos (by rw [due, bdue]; exact first)

theorem State.overdueTicket_first {before after : List Ticket} {k : Ticket} {m : Nat}
    (h : FirstOverdue s before after k m) : s.overdueTicket = some k := by
  obtain ⟨table, due, reached, earlier, later⟩ := h
  have searched := foldl_earlierOverdue_later (s := s) before earlier (best := none) (fun b hb => by cases hb)
  rw [s.overdueTicket_eq, table, List.foldl_append, List.foldl_cons,
    earlierOverdue_found ((s.overdue_iff k).mpr ⟨m, due, reached⟩) due searched]
  exact foldl_earlierOverdue_stands due after later

theorem State.overdueTicket_none (h : NoneOverdue s) : s.overdueTicket = none := by
  rw [s.overdueTicket_eq]
  have stands : ∀ l : List Ticket, (∀ x ∈ l, ∀ m ∈ x.retestDue, s.time.clock / 1000 < m) →
      l.foldl (earlierOverdue s) none = none := by
    intro l hl
    induction l with
    | nil => rfl
    | cons t l ih =>
      rw [List.foldl_cons, earlierOverdue_none (hl t List.mem_cons_self)]
      exact ih fun x hx => hl x (List.mem_cons_of_mem _ hx)
  exact stands _ h

/-! ## The walk -/

theorem State.consider_over (once : s.sweep.once = false) (passed : PassedOver s s.sweep.pointer) :
    s.consider = .over := by
  unfold State.consider
  rcases passed with excluded | unselected
  · simp [once, excluded]
  · simp only [once, unselected, Bool.not_false, ne_eq, not_false_eq_true, and_self, if_true, ite_self, true_and]

theorem State.consider_skip (once : s.sweep.once = false) (skip : Skipped s s.sweep.pointer) : s.consider = .skip := by
  obtain ⟨selected, skipped⟩ := skip
  rw [not_or, not_not] at selected
  unfold State.consider
  simp only [once, selected.1, selected.2, Bool.not_false, ne_eq, not_true_eq_false, and_false, if_false]
  rcases skipped with hazard | unit
  · rw [if_pos hazard]
  · split
    · rfl
    · exact if_pos unit

theorem State.consider_test (once : s.sweep.once = false) (passed : ¬ PassedOver s s.sweep.pointer)
    (skip : ¬ Skipped s s.sweep.pointer) : s.consider = .test := by
  have tested : ¬ ((s.recordOf s.sweep.pointer).hazard = true ∨ (s.unitAt (s.sweep.pointer / 256)).state ≠ .ok) :=
    fun h => skip ⟨passed, h⟩
  rw [not_or, not_not] at passed tested
  unfold State.consider
  simp only [once, passed.1, passed.2, Bool.not_false, ne_eq, not_true_eq_false, and_false, if_false]
  rw [if_neg tested.1]
  exact if_neg (not_not.mpr tested.2)

theorem State.consider_once (once : s.sweep.once = true) :
    s.consider
      = if (s.recordOf s.sweep.pointer).hazard = true ∨ (s.unitAt (s.sweep.pointer / 256)).state ≠ .ok then .skip
        else .test := by
  unfold State.consider
  simp only [once, Bool.not_true, Bool.false_eq_true, false_and, if_false]
  by_cases hazard : (s.recordOf s.sweep.pointer).hazard = true
  · rw [if_pos hazard, if_pos (.inl hazard)]
  · rw [if_neg hazard]
    simp only [hazard, Bool.false_eq_true, false_or]
    rfl

theorem State.wrapPass_eq (s : State) : s.wrapPass = sweepWrapped s := by
  unfold State.wrapPass sweepWrapped
  dsimp only
  rw [State.setSweep_post]
  rfl

/-- How many of the lines the walk has stepped over it has counted as skips (R179). -/
def skipsOver (s : State) (k : Nat) : Nat :=
  ((List.range k).filter (fun i => decide (Skipped s (s.sweep.pointer + i)))).length

theorem skipsOver_succ (s : State) (k : Nat) :
    skipsOver s (k + 1) = skipsOver s k + if Skipped s (s.sweep.pointer + k) then 1 else 0 := by
  unfold skipsOver
  rw [List.range_succ, List.filter_append, List.length_append, List.filter_singleton]
  by_cases h : Skipped s (s.sweep.pointer + k)
  · rw [if_pos h, decide_eq_true h]
    rfl
  · rw [if_neg h, decide_eq_false h]
    rfl

/-- The pointer has stepped over lines, counting its skips (R179). -/
def walkedOn (s : State) (k : Nat) : State :=
  s.setSweep { s.sweep with pointer := s.sweep.pointer + k, skip := s.sweep.skip + skipsOver s k }

theorem walkedOn_zero (s : State) : walkedOn s 0 = s := rfl

theorem walk_goesOn {n : Nat} {c : WalkChoice} (choice : s.consider = c) (goes : c ≠ .test)
    (running : (s.stepOver c).sweep.state ≠ .haltedComplete) :
    State.walk (n + 1) s = State.walk n (s.stepOver c) := by
  rw [State.walk, choice]
  split
  · exact absurd rfl goes
  · exact if_neg running

theorem State.stepPointer_inside (inside : s.sweep.pointer < s.straps.lastLine) :
    s.stepPointer = s.setSweep { s.sweep with pointer := s.sweep.pointer + 1 } := by
  rw [State.stepPointer, if_neg (Nat.not_le.mpr inside)]

theorem walkedOn_succ {k : Nat} (once : s.sweep.once = false) (inside : s.sweep.pointer + k < s.straps.lastLine)
    (steps : PassedOver s (s.sweep.pointer + k) ∨ Skipped s (s.sweep.pointer + k)) (n : Nat)
    (running : s.sweep.state ≠ .haltedComplete) :
    State.walk (n + 1) (walkedOn s k) = State.walk n (walkedOn s (k + 1)) := by
  rcases steps with passed | skipped
  · have choice : (walkedOn s k).consider = .over := State.consider_over (s := walkedOn s k) once passed
    have moved : (walkedOn s k).stepOver .over = walkedOn s (k + 1) := by
      rw [State.stepOver, State.stepPointer_inside (s := walkedOn s k) inside, walkedOn, walkedOn, skipsOver_succ,
        if_neg fun h => h.1 passed]
      · rfl
      · simp
    rw [walk_goesOn choice (by simp) (by rw [moved]; exact running), moved]
  · have choice : (walkedOn s k).consider = .skip := State.consider_skip (s := walkedOn s k) once skipped
    have moved : (walkedOn s k).stepOver .skip = walkedOn s (k + 1) := by
      rw [State.stepOver, State.stepPointer_inside (s := (walkedOn s k).countSkip) inside, State.countSkip, walkedOn,
        walkedOn, skipsOver_succ, if_pos skipped]
      rfl
    rw [walk_goesOn choice (by simp) (by rw [moved]; exact running), moved]

theorem walk_walkedOn (once : s.sweep.once = false) (running : s.sweep.state ≠ .haltedComplete) (k n : Nat)
    (inside : s.sweep.pointer + k ≤ s.straps.lastLine)
    (steps : ∀ i < k, PassedOver s (s.sweep.pointer + i) ∨ Skipped s (s.sweep.pointer + i)) :
    State.walk (k + n) s = State.walk n (walkedOn s k) := by
  induction k generalizing n with
  | zero => rw [Nat.zero_add, walkedOn_zero]
  | succ k ih =>
    rw [show k + 1 + n = k + (n + 1) by omega, ih (n + 1) (by omega) fun i hi => steps i (by omega),
      walkedOn_succ once (by omega) (steps k (by omega)) n running]

theorem skipsOver_none {k : Nat} (h : ∀ i < k, PassedOver s (s.sweep.pointer + i)) : skipsOver s k = 0 := by
  induction k with
  | zero => rfl
  | succ k ih =>
    rw [skipsOver_succ, ih fun i hi => h i (by omega), if_neg fun skipped => skipped.1 (h k (by omega))]

theorem sweepWrapped_walkedOn {k : Nat} (none_ : skipsOver s k = 0) : sweepWrapped (walkedOn s k) = sweepWrapped s := by
  unfold sweepWrapped walkedOn
  rw [none_, State.setSweep_post]
  rfl

/-- The walk has stepped over excluded lines up to the last one, and over that one (R179, R180). -/
theorem walk_wraps {k : Nat} (n : Nat) (once : s.sweep.once = false) (running : s.sweep.state = .seeking)
    (last : s.sweep.pointer + k = s.straps.lastLine) (excluded : ∀ i < k + 1, PassedOver s (s.sweep.pointer + i)) :
    State.walk (k + (n + 1)) s
      = if (sweepWrapped s).haltIfComplete.sweep.state = .haltedComplete then
          ((sweepWrapped s).haltIfComplete, none)
        else State.walk n (sweepWrapped s).haltIfComplete := by
  have choice : (walkedOn s k).consider = .over :=
    State.consider_over (s := walkedOn s k) once (excluded k (by omega))
  have wrapped : (walkedOn s k).stepOver .over = (sweepWrapped s).haltIfComplete := by
    rw [State.stepOver, State.stepPointer, if_pos (by exact Nat.le_of_eq last.symm), State.wrapPass_eq,
      sweepWrapped_walkedOn (skipsOver_none fun i hi => excluded i (by omega))]
    simp
  rw [walk_walkedOn once (by simp [running]) k (n + 1) (by omega) fun i hi => .inl (excluded i (by omega)), State.walk,
    choice]
  dsimp only
  rw [wrapped]

/-! ## What a take makes (R178, R184, R187) -/

theorem State.takeSweep_retest {k : Ticket} (h : s.retestAtTake = some k) :
    s.takeSweep = (jobMade s s.sweep, some (k.line, true)) := by
  rw [State.takeSweep, h]
  rfl

theorem State.takeSweep_tests {line : Nat} (h : s.retestAtTake = none) (running : s.sweep.state ≠ .haltedComplete)
    (walked : State.walk (if s.sweep.once then 1 else s.straps.lineCount) s = (t, some line)) :
    s.takeSweep = (t.makeSweepJob true, some (line, false)) := by
  rw [State.takeSweep, h]
  dsimp only
  rw [if_neg running, walked]

theorem State.takeSweep_tires (h : s.retestAtTake = none) (running : s.sweep.state ≠ .haltedComplete)
    (walked : State.walk (if s.sweep.once then 1 else s.straps.lineCount) s = (t, none)) :
    s.takeSweep = (t.takeNothing, none) := by
  rw [State.takeSweep, h]
  dsimp only
  rw [if_neg running, walked]

theorem State.takeSweep_halted (h : s.retestAtTake = none) (halted : s.sweep.state = .haltedComplete) :
    s.takeSweep = (s.takeNothing, none) := by
  rw [State.takeSweep, h]
  exact if_pos halted

theorem State.retestAtTake_first {before after : List Ticket} {k : Ticket} {m : Nat}
    (h : FirstOverdue s before after k m)
    (asked : s.sweep.state = .haltedComplete
      ∨ s.sweep.state = .seeking ∧ s.sweep.once = false ∧ s.sweep.pointerOwed = false) :
    s.retestAtTake = some k := by
  rw [State.retestAtTake, if_pos, State.overdueTicket_first h]
  rcases asked with halted | ⟨-, once, owed⟩
  · exact .inl halted
  · exact .inr (by simp [once, owed])

theorem State.retestAtTake_none (running : s.sweep.state ≠ .haltedComplete ∨ NoneOverdue s)
    (h : s.sweep.once = true ∨ NoneOverdue s ∨ s.sweep.pointerOwed = true) : s.retestAtTake = none := by
  rw [State.retestAtTake]
  split
  · rename_i asked
    rcases asked with halted | ⟨once, owed⟩
    · exact State.overdueTicket_none (running.resolve_left (not_not.mpr halted))
    · simp only [Bool.not_eq_true'] at once owed
      rcases h with h | h | h
      · rw [h] at once; cases once
      · exact State.overdueTicket_none h
      · rw [h] at owed; cases owed
  · rfl

theorem sweepWrapped_clock (s : State) : (sweepWrapped s).time.clock = s.time.clock := by
  rw [sweepWrapped]
  simp

theorem sweepWrapped_goesOn (onComplete : s.sweep.onComplete = false) :
    (sweepWrapped s).haltIfComplete = sweepWrapped s := by
  have stays : (sweepWrapped s).sweep.onComplete = false := onComplete
  rw [State.haltIfComplete, if_neg (by simp [stays])]

theorem sweepWrapped_halts (onComplete : s.sweep.onComplete = true) (once : s.sweep.once = false)
    (stop : s.sweep.stopPending = false) :
    (sweepWrapped s).haltIfComplete
      = sweepMoved (sweepWrapped s)
          { (sweepWrapped s).sweep with
            state := .haltedComplete
            due := some (s.time.clock + s.sweep.interval * 1000)
            offer := false
            guardPassed := false } .completeHalt := by
  rw [State.haltIfComplete, if_pos (by exact ⟨onComplete, by simp [show (sweepWrapped s).sweep.once = false from once,
    show (sweepWrapped s).sweep.stopPending = false from stop]⟩),
    sweepWrapped_clock]
  rfl

theorem nothingTaken_moved (h : NothingTaken s t) : s.SweepMoved t := by
  rcases h with ⟨-, -, -, -, ⟨-, -, rfl⟩ | ⟨-, -, -, rfl⟩⟩ | ⟨-, -, -, q, ⟨-, rfl⟩ | ⟨-, rfl⟩, rfl⟩ | ⟨-, -, rfl⟩
  · exact (((State.SweepMoved.refl s).post _).setSweep _).setSweep _
  · exact ((((State.SweepMoved.refl s).post _).setSweep _).setSweep _).post _
  · exact (((State.SweepMoved.refl s).setSweep _).setSweep _).post _
  · exact (((((State.SweepMoved.refl s).setSweep _).post _).setSweep _).setSweep _).post _
  · exact (State.SweepMoved.refl s).setSweep _

theorem State.takeNothing_waits (running : s.sweep.state ≠ .haltedComplete) (once : s.sweep.once = false) :
    s.takeNothing
      = s.setSweep
          { s.sweep with
            state := .interval
            due := some (s.time.clock + s.sweep.interval * 1000)
            offer := false
            guardPassed := false
            pointerOwed := false } := by
  rw [State.takeNothing, if_neg running, if_neg (Bool.eq_false_iff.mp once)]

theorem Straps.lineCount_eq {p : Straps} (units : 1 ≤ p.units) : p.lineCount = p.lastLine - p.firstLine + 1 := by
  unfold Straps.lineCount Straps.lastLine Straps.firstLine
  simp only [Config.unitLines]
  omega

theorem State.takeNothing_halted (halted : s.sweep.state = .haltedComplete) :
    s.takeNothing
      = s.setSweep
          { s.sweep with
            due := some (s.time.clock + s.sweep.interval * 1000)
            offer := false
            guardPassed := false
            pointerOwed := false } := by
  rw [State.takeNothing, if_pos halted]

theorem sweepMoved_eq (s : State) (x : Sweep) (cause : SweepCause) :
    sweepMoved s x cause = (s.post (.sweepState cause x.state x.pointer x.pass x.skip)).setSweep x :=
  State.setSweep_post ..

/-- The walk over excluded lines ends at the wrap that completes the pass (R180). -/
theorem walk_halts (once : s.sweep.once = false) (running : s.sweep.state = .seeking)
    (onComplete : s.sweep.onComplete = true) (stop : s.sweep.stopPending = false)
    (first : s.straps.firstLine ≤ s.sweep.pointer) (units : 1 ≤ s.straps.units)
    (inside : s.sweep.pointer ≤ s.straps.lastLine)
    (excluded : ∀ line, s.sweep.pointer ≤ line → line ≤ s.straps.lastLine → (s.recordOf line).repetition = 0) :
    State.walk s.straps.lineCount s = ((sweepWrapped s).haltIfComplete, none) := by
  obtain ⟨k, hk⟩ := Nat.exists_eq_add_of_le inside
  obtain ⟨n, count⟩ : ∃ n, s.straps.lineCount = k + (n + 1) := by
    rw [Straps.lineCount_eq units]
    exact ⟨s.straps.lastLine - s.straps.firstLine - k, by omega⟩
  rw [count, walk_wraps _ once running hk.symm fun i hi => .inl (excluded _ (by omega) (by omega)), if_pos]
  rw [sweepWrapped_halts onComplete once stop]
  simp [sweepMoved]

/-- The walk round a range of excluded lines comes back to the pointer (R179, R180). -/
theorem walk_round (once : s.sweep.once = false) (running : s.sweep.state = .seeking)
    (onComplete : s.sweep.onComplete = false) (first : s.straps.firstLine ≤ s.sweep.pointer)
    (units : 1 ≤ s.straps.units) (inside : s.sweep.pointer ≤ s.straps.lastLine)
    (excluded : ∀ line, s.straps.firstLine ≤ line → line ≤ s.straps.lastLine → (s.recordOf line).repetition = 0) :
    State.walk s.straps.lineCount s
      = ((sweepWrapped s).setSweep { (sweepWrapped s).sweep with pointer := s.sweep.pointer }, none) := by
  obtain ⟨k, hk⟩ := Nat.exists_eq_add_of_le inside
  obtain ⟨n, hn⟩ := Nat.exists_eq_add_of_le first
  have count : s.straps.lineCount = k + (n + 1) := by
    rw [Straps.lineCount_eq units]
    omega
  have wrappedFirst : (sweepWrapped s).sweep.pointer = s.straps.firstLine := rfl
  have same : (sweepWrapped s).straps = s.straps := by
    rw [sweepWrapped]
    simp
  have records : ∀ line, (sweepWrapped s).recordOf line = s.recordOf line := by
    intro line
    unfold sweepWrapped
    exact congrArg (fun x => lookRecord x line) (by simp)
  have passed : ∀ i < n, PassedOver (sweepWrapped s) ((sweepWrapped s).sweep.pointer + i) := fun i hi => by
    refine .inl ?_
    rw [wrappedFirst, records]
    exact excluded _ (by omega) (by omega)
  have stays : (sweepWrapped s).sweep.state ≠ .haltedComplete := by
    change s.sweep.state ≠ _
    simp [running]
  rw [count, walk_wraps _ once running hk.symm fun i hi => .inl (excluded _ (by omega) (by omega)),
    sweepWrapped_goesOn onComplete, if_neg stays]
  refine (walk_walkedOn (by exact once) stays n 0 (by rw [wrappedFirst, same]; omega)
    fun i hi => .inl (passed i hi)).trans ?_
  rw [State.walk, walkedOn, skipsOver_none passed, wrappedFirst, hn]
  rfl

/-- The line the once option tests is not to be tested, and is stepped over with a skip (R179, R187). -/
theorem walk_once (once : s.sweep.once = true) (running : s.sweep.state = .seeking)
    (skip : (s.recordOf s.sweep.pointer).hazard = true ∨ (s.unitAt (s.sweep.pointer / 256)).state ≠ .ok) :
    State.walk 1 s = (s.countSkip.stepPointer, none) ∧ s.countSkip.stepPointer.sweep.state = .seeking
      ∧ s.countSkip.stepPointer
        = if s.straps.lastLine ≤ s.sweep.pointer then
            sweepWrapped { s with sweep := { s.sweep with skip := s.sweep.skip + 1 } }
          else { s with sweep := { s.sweep with pointer := s.sweep.pointer + 1, skip := s.sweep.skip + 1 } } := by
  have stepped : s.countSkip.stepPointer
      = if s.straps.lastLine ≤ s.sweep.pointer then
          sweepWrapped { s with sweep := { s.sweep with skip := s.sweep.skip + 1 } }
        else { s with sweep := { s.sweep with pointer := s.sweep.pointer + 1, skip := s.sweep.skip + 1 } } := by
    have goesOn : (sweepWrapped s.countSkip).haltIfComplete = sweepWrapped s.countSkip := by
      rw [State.haltIfComplete, if_neg (by simp [show (sweepWrapped s.countSkip).sweep.once = true from once])]
    rw [State.stepPointer, State.wrapPass_eq, goesOn]
    rfl
  have stays : s.countSkip.stepPointer.sweep.state = .seeking := by
    rw [stepped]
    split <;> exact running
  refine ⟨?_, stays, stepped⟩
  have choice : s.consider = .skip := by rw [State.consider_once once, if_pos skip]
  rw [walk_goesOn choice (by simp) (by rw [State.stepOver, stays]; simp), State.stepOver, State.walk]

theorem State.takeSweep_nothing (first : s.straps.firstLine ≤ s.sweep.pointer) (units : 1 ≤ s.straps.units)
    (h : NothingTaken s t) : s.takeSweep = (t, none) := by
  rcases h with ⟨seeking, once, no, inside, h⟩ | ⟨seeking, once, skip, q, stepped, rfl⟩ | ⟨halted, no, rfl⟩
  · have running : s.sweep.state ≠ .haltedComplete := by simp [seeking]
    have none_ : s.retestAtTake = none := State.retestAtTake_none (.inl running) (.inr no)
    rcases h with ⟨onComplete, excluded, rfl⟩ | ⟨onComplete, stop, excluded, rfl⟩
    · have round := walk_round once seeking onComplete first units inside excluded
      rw [State.takeSweep_tires none_ running (by rw [once]; exact round),
        State.takeNothing_waits (by exact running) (by exact once)]
      dsimp only [State.setSweep]
      rw [sweepWrapped_clock]
      rfl
    · have halts := walk_halts once seeking onComplete stop first units inside excluded
      rw [State.takeSweep_tires none_ running (by rw [once]; exact halts), sweepWrapped_halts onComplete once stop,
        State.takeNothing_halted (by simp [sweepMoved]), sweepMoved_eq, sweepMoved_eq]
      dsimp only [State.setSweep]
      rw [State.post_time, sweepWrapped_clock]
      rfl
  · obtain ⟨walked, stays, q_eq⟩ := walk_once once seeking skip
    have q_is : q = s.countSkip.stepPointer := by
      rw [q_eq]
      rcases stepped with ⟨inside, rfl⟩ | ⟨last, rfl⟩
      · rw [if_neg (Nat.not_le.mpr inside)]
      · rw [if_pos last]
    have onceStays : q.sweep.once = true := by
      rcases stepped with ⟨-, rfl⟩ | ⟨-, rfl⟩ <;> exact once
    rw [State.takeSweep_tires (State.retestAtTake_none (.inl (by simp [seeking])) (.inl once)) (by simp [seeking])
      (by rw [once]; exact walked), ← q_is, State.takeNothing, if_neg (by rw [q_is, stays]; simp), if_pos onceStays]
    rfl
  · rw [State.takeSweep_halted (State.retestAtTake_none (.inr no) (.inr (.inl no))) halted, State.takeNothing,
      if_pos halted]
    rfl

/-! ## The start of an access -/

theorem makeSweepJob_pointer (s : State) :
    s.makeSweepJob true = jobMade s { s.sweep with pointerOwed := false } := rfl

theorem makeSweepJob_walkedOn (s : State) (k : Nat) :
    (walkedOn s k).makeSweepJob true
      = jobMade s
          { s.sweep with
            pointer := s.sweep.pointer + k
            skip := s.sweep.skip + skipsOver s k
            pointerOwed := false } := rfl

theorem State.takeOffer_job {id : SlotId} {line : Nat} {retest : Bool} (h : s.takeSweep = (t, some (line, retest))) :
    s.takeOffer id = t.enterSweep id line retest := by
  rw [State.takeOffer, h]

theorem State.takeOffer_nothing {id : SlotId} (h : s.takeSweep = (t, none)) : s.takeOffer id = t.takeOrder id := by
  rw [State.takeOffer, h]

theorem State.startAccess_order {id : SlotId} {before after : List QueuedOrder} {o : Order}
    (ready : OrderReady s before after o)
    (noOffer : s.sweep.offer = false ∨ s.sweep.guardPassed = false ∨ s.sweepInSlot = true) :
    s.startAccess id = s.takeOrder id := by
  rw [State.startAccess, if_neg, if_pos (by rw [State.readyOrder_first ready]; rfl)]
  rcases noOffer with h | h | h <;> simp [h]

theorem State.startAccess_offer {id : SlotId} (h : OfferTaken s) : s.startAccess id = s.takeOffer id := by
  obtain ⟨offer, notIn, guardPassed | ⟨waiting, deskless⟩⟩ := h
  · rw [State.startAccess, if_pos (by simp [offer, guardPassed, notIn])]
  · have idle : s.deskIdle = true := by
      rw [State.deskIdle, deskless, Bool.and_eq_true, List.all_eq_true]
      exact ⟨fun q hq => Option.isSome_iff_ne_none.mpr (waiting q hq), rfl⟩
    rw [State.startAccess, State.readyOrder_none fun q hq => .inl (waiting q hq)]
    simp [offer, idle, notIn]

theorem exec_accessStart {id : SlotId} (station : s.claims.station = .active) (free : s.accessBusy = false)
    (slot : s.newSlot = some id) : exec .accessStart s = .next (s.startAccess id) := by
  simp only [exec, execAccessStart]
  rw [if_pos ⟨station, by simp [free]⟩, slot]

/-- A take that makes no job leaves the slot to the first order (R177, R178, R180). -/
theorem nothingTaken_leaves {id : SlotId} (h : NothingTaken s t) (tests : s.TestsAtOnce) (free : SlotFree s)
    (slot : s.newSlot = some id) :
    ((∀ q ∈ s.seq.queue, q.waiting ≠ none ∨ ∃ e ∈ s.claims.entries, e.line = some q.order.line) → t.takeOrder id = t)
      ∧ ∀ (before after : List QueuedOrder) (o : Order), OrderReady s before after o →
        t.takeOrder id = orderTaken t (before ++ after) o := by
  have moved : s.SweepMoved t := nothingTaken_moved h
  refine ⟨fun none_ => State.takeOrder_none ?_, fun before after o ready => State.takeOrder_eq ?_ ?_ ?_ ?_⟩
  · rw [moved]
    exact none_
  · rw [moved]
    exact ⟨tests.station, tests.noneHeld, tests.loaded⟩
  · rw [moved]
    exact free
  · rw [moved]
    exact slot
  · rw [moved]
    exact ready

/-- Settles O43: the choice of an order or of the sweep's offer, the walk, and the claim of the job that enters. -/
theorem accessStartTakesTheFirstOrder : Obligations.AccessStartTakesTheFirstOrder := by
  unfold Obligations.AccessStartTakesTheFirstOrder
  intro s
  refine ⟨fun h => ?_, fun station notBusy noneHeld loaded free => ?_⟩
  · simp only [exec, execAccessStart]
    rw [if_neg]
    rintro ⟨station, notBusy⟩
    rcases h with h | h
    · exact h station
    · simp [h] at notBusy
  obtain ⟨id, slot⟩ := State.newSlot_of_free free
  have tests : s.TestsAtOnce := ⟨station, noneHeld, loaded⟩
  rw [exec_accessStart station notBusy slot]
  refine ⟨fun before after o ready noOffer => ?_, fun offered first units => ?_⟩
  · rw [State.startAccess_order ready noOffer, State.takeOrder_eq tests free slot ready]
  rw [State.startAccess_offer offered]
  refine ⟨fun before after k m overdue asked may => ?_, fun p k seeking once no hp inside steps test₁ test₂ may => ?_,
    fun seeking once hazard unit may => ?_, fun t h => ?_⟩
  · rw [State.takeOffer_job (State.takeSweep_retest (State.retestAtTake_first overdue asked)),
      State.enterSweep_eq tests free slot (by rfl) may]
  · subst hp
    have walked : State.walk s.straps.lineCount s = (walkedOn s k, some (s.sweep.pointer + k)) := by
      obtain ⟨n, count⟩ : ∃ n, s.straps.lineCount = k + (n + 1) := by
        rw [Straps.lineCount_eq units]
        exact ⟨s.straps.lastLine - s.straps.firstLine - k, by omega⟩
      rw [count, walk_walkedOn once (by simp [seeking]) k (n + 1) inside steps, State.walk,
        State.consider_test (by exact once) (by exact test₁) (by exact test₂)]
      rfl
    rw [State.takeOffer_job (State.takeSweep_tests (State.retestAtTake_none (.inl (by simp [seeking])) (.inr no))
      (by simp [seeking]) (by rw [once]; exact walked)), makeSweepJob_walkedOn,
      State.enterSweep_eq tests free slot (by rfl) may]
    rfl
  · have walked : State.walk 1 s = (s, some s.sweep.pointer) := by
      rw [State.walk, State.consider_once once, if_neg (by simp [hazard, unit])]
    rw [State.takeOffer_job (State.takeSweep_tests (State.retestAtTake_none (.inl (by simp [seeking])) (.inl once))
      (by simp [seeking]) (by rw [once]; exact walked)), makeSweepJob_pointer,
      State.enterSweep_eq tests free slot (by rfl) may]
  · rw [State.takeOffer_nothing (State.takeSweep_nothing first units h)]
    obtain ⟨stays, takes⟩ := nothingTaken_leaves h tests free slot
    exact ⟨fun none_ => by rw [stays none_], fun before after o ready => by rw [takes before after o ready]⟩

end Sys2Proof.Machine

/-! SUPPORT. The limits of an order (O44). -/

namespace Sys2Proof.Machine

variable {s t : State} {j : Job} {b : Nat} {c : OwnClaim}

/-! ## Events at a moment of the station clock -/

theorem State.passClockTo_eq (h : s.time.InRange) (m : Nat) : ∃ x, s.passClockTo m = s.setTime x := by
  by_cases ahead : s.time.clock < m
  · exact ⟨_, rfl⟩
  · exact ⟨s.time, State.passClockTo_behind h (Nat.le_of_not_lt ahead)⟩

theorem State.atClock_reaches (h : s.time.InRange) {m : Nat} (reached : m ≤ 4294967295000) (event : State → State) :
    s.atClock m event = event (s.passClockTo m) := by
  rw [State.atClock, if_pos]
  by_cases ahead : s.time.clock < m
  · rw [State.passClockTo_ahead h ahead (by simpa [Config.clockMax] using reached)]
  · rw [State.passClockTo_behind h (Nat.le_of_not_lt ahead)]
    exact Nat.le_of_not_lt ahead

/-! ## The one queued order of a tag ends -/

section QueuedOrder
variable {before after : List QueuedOrder} {o : Order}

theorem find_queuedOnly (others : ∀ x ∈ before ++ after, x.order.tag ≠ o.tag) :
    (before ++ { order := o, waiting := none } :: after).find? (fun x => x.order.tag == o.tag && x.waiting.isNone)
      = some { order := o, waiting := none } := by
  rw [List.find?_append, List.find?_eq_none.mpr, Option.none_or, List.find?_cons_of_pos (by simp)]
  intro x hx
  simp [others x (List.mem_append_left _ hx)]

theorem State.queuedOrder_only (queue : s.seq.queue = before ++ { order := o, waiting := none } :: after)
    (others : ∀ x ∈ before ++ after, x.order.tag ≠ o.tag) : s.queuedOrder o.tag = some o := by
  rw [State.queuedOrder, queue, find_queuedOnly others]
  rfl

theorem State.queuedOrder_none {tag : Nat} (none_ : ∀ q ∈ s.seq.queue, q.order.tag ≠ tag) : s.queuedOrder tag = none := by
  rw [State.queuedOrder, List.find?_eq_none.mpr, Option.map_none]
  intro q hq
  simp [none_ q hq]

theorem map_only {f : QueuedOrder → QueuedOrder} {q : QueuedOrder} (others : ∀ x ∈ before ++ after, f x = x) :
    (before ++ q :: after).map f = before ++ f q :: after := by
  rw [List.map_append, List.map_cons, List.map_congr_left (g := id) fun x hx => others x (List.mem_append_left _ hx),
    List.map_congr_left (l := after) (g := id) fun x hx => others x (List.mem_append_right _ hx), List.map_id, List.map_id]

/-- A queued order that has not ended ends: its record enters the completion queue, or waits in its place (R133). -/
theorem State.endQueued_only (queue : s.seq.queue = before ++ { order := o, waiting := none } :: after)
    (others : ∀ x ∈ before ++ after, x.order.tag ≠ o.tag) (status : EndStatus) (failing : Option Nat) :
    s.endQueued o.tag status failing
      = s.setSeq
          (if s.seq.completions.length < 16 then
            { s.seq with
              queue := before ++ after
              completions := s.seq.completions ++ [queuedRecord s o status failing]
              ends := s.seq.ends + 1 }
          else
            { s.seq with
              queue :=
                before
                  ++ { order := o
                       waiting := some { record := queuedRecord s o status failing, ended := s.seq.ends } } :: after
              ends := s.seq.ends + 1 }) := by
  have left : s.seq.queue.filter (fun x => x.order.tag != o.tag) = before ++ after :=
    filter_mid queue (by simp) fun x hx => by simpa using others x hx
  unfold State.endQueued
  rw [queue, find_queuedOnly others]
  dsimp only [State.countEnd, State.setSeq_seq, Config.completionCap]
  by_cases room : s.seq.completions.length < 16
  · rw [if_pos room, if_pos room, left]
    rfl
  · rw [if_neg room, if_neg room, queue, map_only fun x hx => if_neg (others x hx), if_pos rfl]
    rfl

end QueuedOrder

/-! ## The access wait limit (R115) -/

theorem exec_accessWaitLimit {o : Order} (h : s.time.InRange) (fits : o.tag < 65536) (limited : s.limitedOrder o.tag = some o)
    (reached : o.submitted + s.settings.accessWait * 1000 ≤ 4294967295000) :
    exec (.accessWaitLimit o.tag) s
      = .next ((s.passClockTo (o.submitted + s.settings.accessWait * 1000)).waitRunsOut o.tag) := by
  have formed : (Instr.accessWaitLimit o.tag).wellFormed = true := by simpa [Instr.wellFormed, fits2] using fits
  simp only [exec, execAccessWaitLimit, Sys2Proof.Machine.formed, formed, if_true]
  rw [limited]
  dsimp only
  rw [State.atClock_reaches h (by exact reached)]
  rfl

theorem State.limitedOrder_queued {before after : List QueuedOrder} {o : Order}
    (queue : s.seq.queue = before ++ { order := o, waiting := none } :: after)
    (others : ∀ x ∈ before ++ after, x.order.tag ≠ o.tag) : s.limitedOrder o.tag = some o := by
  rw [State.limitedOrder, State.queuedOrder_only queue others]

theorem State.deskAccess_active (active : s.seq.active = .job j) (access : j.phase = .access) (desk : j.sweep = none) :
    s.deskAccess = some (.active, j.order) := by
  have found : s.accessSlot = some .active := by
    simp [State.accessSlot, State.findSlot, Slot.job?, active, access]
  rw [State.deskAccess, found]
  dsimp only
  rw [State.slot_active active]
  simp [Slot.job?, desk]

theorem accessWaitLimit_queued {before after : List QueuedOrder} {o : Order} (h : s.time.InRange)
    (queue : s.seq.queue = before ++ { order := o, waiting := none } :: after)
    (others : ∀ x ∈ before ++ after, x.order.tag ≠ o.tag) (room : s.seq.completions.length < 16) (fits : o.tag < 65536)
    (reached : o.submitted + s.settings.accessWait * 1000 ≤ 4294967295000)
    (ht : t = s.passClockTo (o.submitted + s.settings.accessWait * 1000)) :
    exec (.accessWaitLimit o.tag) s = .next
      { t with
        seq :=
          { s.seq with
            queue := before ++ after
            completions :=
              s.seq.completions
                ++ [queuedRecord t o
                    (if ∃ e ∈ s.claims.entries, e.line = some o.line then .lineBusy else .noBus) (some 1)]
            ends := s.seq.ends + 1 } } := by
  obtain ⟨x, passed⟩ := State.passClockTo_eq h (o.submitted + s.settings.accessWait * 1000)
  rw [exec_accessWaitLimit h fits (State.limitedOrder_queued queue others) reached, ← ht, State.waitRunsOut,
    State.queuedOrder_only (before := before) (after := after) (by rw [ht, passed]; exact queue) others]
  dsimp only
  rw [State.endQueued_only (before := before) (after := after) (by rw [ht, passed]; exact queue) others,
    if_pos (by rw [ht, passed]; exact room), State.waitStatus, State.notFreeStatus_eq, ht, passed]
  rfl

theorem accessWaitLimit_access {w : State} (h : s.time.InRange) (active : s.seq.active = .job j) (access : j.phase = .access)
    (desk : j.sweep = none) (staged : s.seq.staged = .empty) (notQueued : ∀ q ∈ s.seq.queue, q.order.tag ≠ j.order.tag)
    (station : s.claims.station = .active) (fits : j.order.tag < 65536)
    (reached : j.order.submitted + s.settings.accessWait * 1000 ≤ 4294967295000)
    (ht : t = s.passClockTo (j.order.submitted + s.settings.accessWait * 1000)) (ends : ClaimEndsUnheld t w) :
    exec (.accessWaitLimit j.order.tag) s = .next
      { w with
        seq :=
          orderEnded w j (if ∃ e ∈ s.claims.entries, e.line = some j.order.line then .lineBusy else .noBus)
            (some 1) } := by
  obtain ⟨x, passed⟩ := State.passClockTo_eq h (j.order.submitted + s.settings.accessWait * 1000)
  have same : t = s.setTime x := ht.trans passed
  have limited : s.limitedOrder j.order.tag = some j.order := by
    rw [State.limitedOrder, State.queuedOrder_none notQueued, State.deskAccess_active active access desk]
    simp
  have opened := State.endOpening_ends ends
  obtain ⟨form, wStation, -⟩ := claimEnds_form ends
  have wSeq : w.seq = s.seq := by
    rw [form, same]
    rfl
  have wActive : w.slot .active = .job j := by
    change w.seq.active = .job j
    rw [wSeq]
    exact active
  have stands : SlotsStand w .active := ⟨fun _ => by rw [wSeq]; exact staged, fun h => by cases h⟩
  rw [exec_accessWaitLimit h fits limited reached, ← ht, State.waitRunsOut,
    State.queuedOrder_none (by rw [same]; exact notQueued),
    State.deskAccess_active (j := j) (by rw [same]; exact active) access desk]
  dsimp only
  rw [if_pos rfl, State.endAccess_desk opened wActive desk (by rw [wStation, same]; simp [station]) stands,
    State.waitStatus, State.notFreeStatus_eq, same]
  rfl

/-! ## The end of a HOLD step (R121) and of a suspension (R127) -/

theorem exec_holdStepEnd (active : s.seq.active = .job j) (running : j.phase = .running)
    (hold : (j.order.stepAt j.step).kind = .hold) :
    exec .holdStepEnd s = .next ((s.passTo j.holdUntil).finishStep).pump := by
  simp only [exec, execHoldStepEnd]
  rw [active]
  exact if_pos ⟨running, hold⟩

theorem State.finishStep_suspends (active : s.seq.active = .job j) (marked : (j.order.stepAt (j.step + 1)).marked = true) :
    s.finishStep = suspendedNow s { j with step := j.step + 1 } := by
  rw [State.finishStep, active]
  dsimp only
  rw [if_pos marked, State.updateJob_job (j := j) (by exact active), State.suspend,
    State.updateJob_job (j := { j with step := j.step + 1 }) (by rfl)]
  rfl

theorem State.finishStep_holds (active : s.seq.active = .job j) (plain : (j.order.stepAt (j.step + 1)).marked = false)
    (hold : (j.order.stepAt (j.step + 1)).kind = .hold) :
    s.finishStep
      = withActive s
          { j with
            step := j.step + 1
            holdUntil := s.time.now + ms ((j.order.stepAt (j.step + 1)).seconds * 1000) } := by
  rw [State.finishStep, active]
  dsimp only
  rw [if_neg (Bool.eq_false_iff.mp plain), State.updateJob_job (j := j) (by exact active), State.runStep]
  dsimp only [State.setSlot, State.setSeq]
  rw [hold]
  rfl

/-- Settles O44, by the place of the order whose limit passes. -/
theorem orderLimitsRunOut : Obligations.OrderLimitsRunOut := by
  intro s h
  refine ⟨fun before after o t queue others room fits reached ht =>
      accessWaitLimit_queued h queue others room fits reached ht,
    fun j t w active access desk staged notQueued station fits reached ht ends =>
      accessWaitLimit_access h active access desk staged notQueued station fits reached ht ends,
    fun j t active running hold idle ht => ?_, fun j b c on running hold onBus safe plain idle => ?_,
    fun j b c active suspended idle bus head state entry held reached => ?_⟩
  · rw [exec_holdStepEnd active running hold, ← ht]
    have now : t.seq.active = .job j := by rw [ht]; exact active
    refine ⟨fun marked => ?_, fun unmarked kind => ?_⟩
    · rw [State.finishStep_suspends now marked, State.pump_alike idle (by rw [ht]; rfl), ht]
      rfl
    · rw [State.finishStep_holds now unmarked kind, State.pump_alike idle (by rw [ht]; rfl), ht]
      rfl
  · have at_ : AtHead (s.passTo j.holdUntil) j b c := atHead_of_onItsBus on running rfl onBus safe rfl rfl
    have ends := at_.finishStep plain
    rw [withActive_self (by exact on.active)] at ends
    rw [exec_holdStepEnd on.active running hold, ends, State.pump_alike idle (by exact stepFollows_chain _ _ _ _)]
  · obtain ⟨x, passed⟩ := State.passClockTo_eq h (j.suspendedAt + s.settings.suspend * 1000)
    simp only [exec, execSuspendLimit]
    rw [active]
    dsimp only
    rw [if_pos suspended, State.suspendEnd, State.atClock_reaches h reached, passed, State.suspendRunsOut,
      State.abandon_atHead (s := s.setTime x) (j := j) active bus entry held head state,
      State.pump_alike idle (by rfl)]
    rfl

end Sys2Proof.Machine

/-! SUPPORT. The checks of SUBMIT ORDER and the order queue (O45, O46). -/

namespace Sys2Proof.Machine

variable {s t : State} {o : OrderRecord} {steps : List Step}

/-! ## Commands at the desk port -/

theorem State.desk_takes (takes : s.TakesCommands) (owner : State → State) : s.desk owner = owner (s.setPort none) := by
  unfold State.desk
  exact if_neg (not_or.mpr takes)

theorem State.reply_eq (s : State) (r : Response) : s.reply r = s.setPort (plainResponse r) := rfl

theorem exec_submitOrder (formed : o.wellFormed = true) (takes : s.TakesCommands) :
    exec (.submitOrder o) s = .next ((s.setPort none).submit o) := by
  have formed' : (Instr.submitOrder o).wellFormed = true := formed
  simp only [exec, execSubmitOrder, Sys2Proof.Machine.formed, formed', if_true]
  rw [State.desk_takes takes]

/-! ## The steps of an order record -/

theorem mapM_eq_some_iff {α β : Type} {f : α → Option β} {l : List α} {l' : List β} :
    l.mapM f = some l' ↔ List.Forall₂ (fun a b => f a = some b) l l' := by
  induction l generalizing l' with
  | nil => cases l' <;> simp
  | cons a l ih =>
    rw [List.mapM_cons]
    cases h : f a with
    | none => cases l' <;> simp [h]
    | some b =>
      cases l' with
      | nil => cases hm : l.mapM f <;> simp
      | cons b' l' =>
        cases hm : l.mapM f with
        | none => simp [← ih, hm]
        | some m => simp [← ih, hm, h]

/-- The kind codes of section 12.1. -/
def stepCode : StepKind → Nat
  | .connect => 1
  | .foreign => 2
  | .resist => 3
  | .capacity => 4
  | .verdict => 5
  | .hold => 6
  | .release => 7

theorem stepKindOf_iff {n : Nat} {k : StepKind} : stepKindOf n = some k ↔ n = stepCode k := by
  unfold stepKindOf
  split <;> cases k <;> simp_all [stepCode]

theorem stepCode_range (k : StepKind) : 1 ≤ stepCode k ∧ stepCode k ≤ 7 := by
  cases k <;> simp [stepCode]

theorem stepCode_inj {k l : StepKind} : stepCode k = stepCode l ↔ k = l := by
  rw [← stepKindOf_iff, stepKindOf_iff.mpr rfl, Option.some.injEq, eq_comm]

theorem measures_iff {k : StepKind} : k.measures = true ↔ stepCode k = 2 ∨ stepCode k = 3 ∨ stepCode k = 4 := by
  cases k <;> decide

theorem exists_stepCode {n : Nat} (h : 1 ≤ n ∧ n ≤ 7) : ∃ k, n = stepCode k := by
  obtain ⟨low, high⟩ := h
  have named : (stepKindOf n).isSome = true := by
    interval_cases n <;> rfl
  obtain ⟨k, hk⟩ := Option.isSome_iff_exists.mp named
  exact ⟨k, stepKindOf_iff.mp hk⟩

theorem stepOf_spec {e : StepEntry} {x : Step} (h : stepOf e = some x) :
    e.kind = stepCode x.kind ∧ x.marked = (e.mark != 0) := by
  unfold stepOf at h
  obtain ⟨k, hk, rfl⟩ := Option.map_eq_some_iff.mp h
  exact ⟨stepKindOf_iff.mp hk, rfl⟩

theorem stepOf_isSome {e : StepEntry} (h : 1 ≤ e.kind ∧ e.kind ≤ 7) : (stepOf e).isSome = true := by
  obtain ⟨k, hk⟩ := exists_stepCode h
  rw [stepOf, stepKindOf_iff.mpr hk]
  rfl

theorem mapM_isSome {α β : Type} {f : α → Option β} {l : List α} (h : ∀ a ∈ l, (f a).isSome = true) :
    ∃ l', l.mapM f = some l' := by
  induction l with
  | nil => exact ⟨[], rfl⟩
  | cons a l ih =>
    obtain ⟨b, hb⟩ := Option.isSome_iff_exists.mp (h a List.mem_cons_self)
    obtain ⟨l', hl⟩ := ih fun x hx => h x (List.mem_cons_of_mem _ hx)
    exact ⟨b :: l', by rw [List.mapM_cons, hb, hl]; rfl⟩

/-- The steps of a record stand for its entries, place by place. -/
theorem stepsOf_place (h : stepsOf o = some steps) (i : Nat) :
    (∀ x, steps[i]? = some x → ∃ e, (examined o)[i]? = some e ∧ stepOf e = some x)
      ∧ (∀ e, (examined o)[i]? = some e → ∃ x, steps[i]? = some x ∧ stepOf e = some x) := by
  have places := mapM_eq_some_iff.mp h
  generalize examined o = es at places
  clear h
  induction places generalizing i with
  | nil => simp
  | cons first _ ih =>
    cases i with
    | zero => simpa using first
    | succ i => simpa using ih i

theorem stepsOf_length (h : stepsOf o = some steps) : steps.length = (examined o).length :=
  (mapM_eq_some_iff.mp h).length_eq.symm

theorem kindAt_eq {e : StepEntry} {i : Nat} (h : (examined o)[i]? = some e) :
    kindAt o i = e.kind ∧ (o.entries.map StepEntry.mark).getD i 0 = e.mark := by
  have entry : o.entries[i]? = some e := by
    rw [examined, List.getElem?_take] at h
    split at h
    · exact h
    · cases h
  simp [kindAt, List.getD_eq_getElem?_getD, entry]

theorem kindAt_steps (h : stepsOf o = some steps) {i : Nat} {x : Step} (hx : steps[i]? = some x) :
    kindAt o i = stepCode x.kind ∧ (x.marked = true ↔ (o.entries.map StepEntry.mark).getD i 0 ≠ 0) := by
  obtain ⟨e, he, hs⟩ := (stepsOf_place h i).1 x hx
  obtain ⟨kind, mark⟩ := kindAt_eq he
  obtain ⟨code, marked⟩ := stepOf_spec hs
  rw [kind, mark, code, marked]
  simp

theorem releaseLast_iff {l : List Step} :
    releaseLast l = true ↔ ∀ (i : Nat) (x : Step), l[i]? = some x → x.kind = .release → i + 1 = l.length := by
  induction l with
  | nil => simp [releaseLast]
  | cons y l ih =>
    rw [releaseLast, Bool.and_eq_true, ih, Bool.or_eq_true, bne_iff_ne, List.isEmpty_iff]
    constructor
    · rintro ⟨first, rest⟩ i x hx kind
      cases i with
      | zero =>
        cases hx
        rw [first.resolve_left (not_not.mpr kind)]
        rfl
      | succ i =>
        rw [List.length_cons, rest i x hx kind]
    · intro h
      refine ⟨?_, fun i x hx kind => by simpa using h (i + 1) x hx kind⟩
      by_cases kind : y.kind = .release
      · exact .inr (List.eq_nil_of_length_eq_zero (by simpa using h 0 y rfl kind))
      · exact .inl kind

theorem verdictsMeasured_iff {l : List Step} {m : Bool} :
    verdictsMeasured m l = true
      ↔ ∀ (i : Nat) (x : Step), l[i]? = some x → x.kind = .verdict →
        m = true ∨ ∃ k < i, ∃ y, l[k]? = some y ∧ y.kind.measures = true := by
  induction l generalizing m with
  | nil => simp [verdictsMeasured]
  | cons z l ih =>
    rw [verdictsMeasured, Bool.and_eq_true, ih, Bool.or_eq_true, bne_iff_ne]
    constructor
    · rintro ⟨first, rest⟩ i x hx kind
      cases i with
      | zero =>
        cases hx
        exact .inl (first.resolve_left (not_not.mpr kind))
      | succ i =>
        rcases rest i x hx kind with measured | ⟨k, hk, y, hy, measured⟩
        · rcases Bool.or_eq_true_iff.mp measured with h | h
          · exact .inl h
          · exact .inr ⟨0, by omega, z, rfl, h⟩
        · exact .inr ⟨k + 1, by omega, y, hy, measured⟩
    · intro h
      refine ⟨?_, fun i x hx kind => ?_⟩
      · by_cases kind : z.kind = .verdict
        · rcases h 0 z rfl kind with h | ⟨k, hk, -⟩
          · exact .inr h
          · omega
        · exact .inl kind
      · rcases h (i + 1) x hx kind with h | ⟨k, hk, y, hy, measured⟩
        · exact .inl (by simp [h])
        · cases k with
          | zero =>
            cases hy
            exact .inl (by simp [measured])
          | succ k => exact .inr ⟨k, by omega, y, hy, measured⟩

/-- The rules of a list, step by step (R109). -/
theorem stepsOk_iff :
    stepsOk steps = true
      ↔ (∃ x, steps[0]? = some x ∧ x.kind = .connect ∧ x.marked = false)
        ∧ ∀ (i : Nat) (x : Step), steps[i]? = some x →
          (0 < i → x.kind ≠ .connect) ∧ (x.kind = .release → i + 1 = steps.length)
            ∧ (x.kind = .verdict → ∃ k < i, ∃ y, steps[k]? = some y ∧ y.kind.measures = true) := by
  cases steps with
  | nil => simp [stepsOk]
  | cons z l =>
    rw [stepsOk, Bool.and_eq_true, Bool.and_eq_true, Bool.and_eq_true, Bool.and_eq_true, releaseLast_iff,
      verdictsMeasured_iff, List.all_eq_true]
    constructor
    · rintro ⟨⟨⟨⟨connect, plain⟩, rest⟩, last⟩, measured⟩
      refine ⟨⟨z, rfl, by simpa using connect, by simpa using plain⟩, fun i x hx => ⟨fun later => ?_, last i x hx, fun kind => ?_⟩⟩
      · obtain ⟨k, rfl⟩ := Nat.exists_eq_add_of_le' later
        simpa using rest x (List.mem_of_getElem? (i := k) (by simpa using hx))
      · exact (measured i x hx kind).resolve_left (by simp)
    · rintro ⟨⟨x, hx, connect, plain⟩, h⟩
      cases hx
      refine ⟨⟨⟨⟨by simpa using connect, by simpa using plain⟩, fun y hy => ?_⟩, fun i y hy => (h i y hy).2.1⟩,
        fun i y hy kind => .inr ((h i y hy).2.2 kind)⟩
      obtain ⟨k, hk⟩ := List.getElem?_of_mem hy
      simpa using (h (k + 1) y (by simpa using hk)).1 (by omega)

theorem examined_length (full : o.entries.length = 12) (count : o.count ≤ 12) : (examined o).length = o.count := by
  rw [examined, List.length_take, full]
  omega

theorem stepAt_place (h : stepsOf o = some steps) (full : o.entries.length = 12) (count : o.count ≤ 12) {i : Nat} :
    i < o.count ↔ ∃ x, steps[i]? = some x := by
  rw [← examined_length full count, ← stepsOf_length h, ← Option.isSome_iff_exists]
  simp

/-- The rules of a list, by the codes of its entries (R109). -/
theorem stepsOk_codes (h : stepsOf o = some steps) (full : o.entries.length = 12) (count : 1 ≤ o.count ∧ o.count ≤ 12) :
    stepsOk steps = true
      ↔ (kindAt o 0 = 1 ∧ (o.entries.map StepEntry.mark).getD 0 0 = 0)
        ∧ ∀ i < o.count,
          (0 < i → kindAt o i ≠ 1) ∧ (kindAt o i = 7 → i + 1 = o.count)
            ∧ (kindAt o i = 5 → ∃ m < i, kindAt o m = 2 ∨ kindAt o m = 3 ∨ kindAt o m = 4) := by
  have place {i : Nat} := stepAt_place h full count.2 (i := i)
  have length : steps.length = o.count := (stepsOf_length h).trans (examined_length full count.2)
  have code {i : Nat} {x : Step} (hx : steps[i]? = some x) (k : StepKind) : kindAt o i = stepCode k ↔ x.kind = k := by
    rw [(kindAt_steps h hx).1, stepCode_inj]
  have measures {i : Nat} {x : Step} (hx : steps[i]? = some x) :
      x.kind.measures = true ↔ kindAt o i = 2 ∨ kindAt o i = 3 ∨ kindAt o i = 4 := by
    rw [(kindAt_steps h hx).1, measures_iff]
  rw [stepsOk_iff, length]
  refine and_congr ?_ (forall_congr' fun i => ?_)
  · obtain ⟨x, hx⟩ := place.mp (show 0 < o.count by omega)
    rw [hx]
    have marked := (kindAt_steps h hx).2
    constructor
    · rintro ⟨y, hy, connect, plain⟩
      cases hy
      exact ⟨(code hx .connect).mpr connect, not_not.mp (marked.not.mp (by simp [plain]))⟩
    · rintro ⟨connect, plain⟩
      exact ⟨x, rfl, (code hx .connect).mp connect, Bool.eq_false_iff.mpr (marked.not.mpr (not_not.mpr plain))⟩
  · constructor
    · intro rules lt
      obtain ⟨x, hx⟩ := place.mp lt
      obtain ⟨connect, release, verdict⟩ := rules x hx
      refine ⟨fun later is => connect later ((code hx .connect).mp is), fun is => release ((code hx .release).mp is),
        fun is => ?_⟩
      obtain ⟨m, before, y, hy, measured⟩ := verdict ((code hx .verdict).mp is)
      exact ⟨m, before, (measures hy).mp measured⟩
    · intro rules x hx
      obtain ⟨connect, release, verdict⟩ := rules (place.mpr ⟨x, hx⟩)
      refine ⟨fun later is => connect later ((code hx .connect).mpr is), fun is => release ((code hx .release).mpr is),
        fun is => ?_⟩
      obtain ⟨m, before, measured⟩ := verdict ((code hx .verdict).mpr is)
      obtain ⟨y, hy⟩ := place.mp (before.trans (place.mpr ⟨x, hx⟩))
      exact ⟨m, before, y, hy, (measures hy).mpr measured⟩

theorem stepsOf_known (full : o.entries.length = 12) (count : o.count ≤ 12) :
    (∃ steps, stepsOf o = some steps) ↔ ∀ i < o.count, 1 ≤ kindAt o i ∧ kindAt o i ≤ 7 := by
  constructor
  · rintro ⟨steps, h⟩ i lt
    obtain ⟨x, hx⟩ := (stepAt_place h full count).mp lt
    rw [(kindAt_steps h hx).1]
    exact stepCode_range x.kind
  · intro known
    refine mapM_isSome fun e he => stepOf_isSome ?_
    obtain ⟨i, hi⟩ := List.getElem?_of_mem he
    have lt : i < o.count := by
      rw [← examined_length full count]
      exact (List.getElem?_eq_some_iff.mp hi).1
    rw [← (kindAt_eq hi).1]
    exact known i lt

theorem goodSteps_eq (full : o.entries.length = 12) (rules : StepListKeepsRules o) :
    ∃ steps, stepsOf o = some steps ∧ goodSteps o = some steps := by
  obtain ⟨count, known, first, later⟩ := rules
  obtain ⟨steps, h⟩ := (stepsOf_known full count.2).mpr known
  refine ⟨steps, h, ?_⟩
  rw [goodSteps, if_pos count, h]
  exact if_pos ((stepsOk_codes h full count).mpr ⟨first, later⟩)

theorem goodSteps_none (full : o.entries.length = 12) (breaks : ¬ StepListKeepsRules o) : goodSteps o = none := by
  rw [goodSteps]
  split
  · rename_i count
    cases h : stepsOf o with
    | none => rfl
    | some steps =>
      refine if_neg fun ok => breaks ?_
      obtain ⟨first, later⟩ := (stepsOk_codes h full count).mp ok
      exact ⟨count, (stepsOf_known full count.2).mp ⟨steps, h⟩, first, later⟩
  · rfl

/-! ## The checks of SUBMIT ORDER (R109) -/

theorem orderUrgency_iff (o : OrderRecord) :
    (o.urgency = 1 → orderUrgency o = some .demand) ∧ (o.urgency = 2 → orderUrgency o = some .priority)
      ∧ ((orderUrgency o).isSome = true ↔ o.urgency = 1 ∨ o.urgency = 2) := by
  refine ⟨fun h => by rw [orderUrgency, h]; rfl, fun h => by rw [orderUrgency, h]; rfl, ?_⟩
  unfold orderUrgency
  split
  · simp [*]
  · simp [*]
  · rename_i demand priority
    exact ⟨fun h => (by cases h), fun h => (h.elim demand priority).elim⟩

theorem fieldsOk_iff {buses : Nat} : fieldsOk o buses = true ↔ OrderFieldsInRange o buses := by
  unfold fieldsOk
  rw [Bool.and_eq_true, Bool.and_eq_true, Bool.and_eq_true, Bool.and_eq_true, (orderUrgency_iff o).2.2, List.all_eq_true]
  simp only [bne_iff_ne, decide_eq_true_eq, Bool.or_eq_true, beq_iff_eq, Bool.and_eq_true, and_assoc, examined]
  refine and_congr_right fun _ => and_congr_right fun _ => and_congr_right fun _ => and_congr_right fun _ =>
    forall₂_congr fun e _ => ?_
  exact (imp_iff_not_or).symm

theorem tagHeld_iff (s : State) (tag : Nat) : s.tagHeld tag = true ↔ TagIsHeld s tag := by
  simp [State.tagHeld, or_assoc]

theorem checkOrder_station (station : s.claims.station ≠ .active) : s.checkOrder o = .error .state := by
  rw [State.checkOrder, if_pos station]

theorem checkOrder_fields (station : s.claims.station = .active) (fields : ¬ OrderFieldsInRange o s.straps.buses) :
    s.checkOrder o = .error .badArgument := by
  rw [State.checkOrder, if_neg (not_not.mpr station), Bool.eq_false_iff.mpr (fieldsOk_iff.not.mpr fields)]

/-- The checks that follow those of an order's fields and of its list (R109). -/
theorem checkOrder_steps {u : Urgency} (station : s.claims.station = .active)
    (fields : OrderFieldsInRange o s.straps.buses) (urgency : orderUrgency o = some u) :
    (goodSteps o = none → s.checkOrder o = .error .badOrder)
      ∧ ∀ steps, goodSteps o = some steps →
        s.checkOrder o
          = if (s.unitAt (o.line / 256)).state = .absent then .error .badLine
            else if TagIsHeld s o.tag then .error .tagInUse
            else if 8 ≤ s.seq.queue.length then .error .full
            else .ok (u, steps) := by
  refine ⟨fun none_ => ?_, fun steps good => ?_⟩
  · rw [State.checkOrder, if_neg (not_not.mpr station), fieldsOk_iff.mpr fields, urgency, none_]
  · rw [State.checkOrder, if_neg (not_not.mpr station), fieldsOk_iff.mpr fields, urgency, good]
    dsimp only
    simp only [tagHeld_iff]
    rfl

theorem twelve_entries (formed : o.wellFormed = true) : o.entries.length = 12 := by
  simp only [OrderRecord.wellFormed, Bool.and_eq_true, decide_eq_true_eq] at formed
  exact formed.1.2

theorem urgency_ofFields {buses : Nat} (fields : OrderFieldsInRange o buses) :
    orderUrgency o = some (if o.urgency = 2 then .priority else .demand) := by
  rcases fields.2.2.1 with demand | priority
  · rw [(orderUrgency_iff o).1 demand, if_neg (by simp [demand])]
  · rw [(orderUrgency_iff o).2.1 priority, if_pos priority]

theorem State.submit_refused {r : Response} (h : s.checkOrder o = .error r) : s.submit o = s.setPort (plainResponse r) := by
  rw [State.submit, h]
  rfl

theorem State.submit_accepted {u : Urgency} (h : s.checkOrder o = .ok (u, steps)) :
    s.submit o
      = (s.setSeq
          { s.seq with queue := insertOrder s.seq.queue (acceptedOrder o u steps s.time.clock) }).setPort
          (plainResponse .accepted) := by
  rw [State.submit, h]
  rfl

/-- The orders of the queue before and after the place an accepted order enters at (R111). -/
theorem insertOrder_splits (q : List QueuedOrder) (x : Order) :
    ∃ before after, insertOrder q x = before ++ { order := x, waiting := none } :: after := by
  unfold insertOrder
  split
  · exact ⟨_, _, rfl⟩
  · exact ⟨_, [], rfl⟩

theorem insertOrder_placed {before after : List QueuedOrder} (x : Order) (ahead : ∀ y ∈ before, y.order.urgency = .priority)
    (behind : ∀ y ∈ after, y.order.urgency = .demand) :
    insertOrder (before ++ after) x
      = if x.urgency = .priority then before ++ { order := x, waiting := none } :: after
        else before ++ after ++ [{ order := x, waiting := none }] := by
  have ranks : ∀ y ∈ before, (y.order.urgency == Urgency.priority) = true := fun y hy => by simp [ahead y hy]
  have takes : after.takeWhile (fun y => y.order.urgency == .priority) = [] := by
    cases after with
    | nil => rfl
    | cons y l => rw [List.takeWhile_cons, if_neg (by simp [behind y List.mem_cons_self])]
  have drops : after.dropWhile (fun y => y.order.urgency == .priority) = after := by
    cases after with
    | nil => rfl
    | cons y l => rw [List.dropWhile_cons, if_neg (by simp [behind y List.mem_cons_self])]
  unfold insertOrder
  rw [List.takeWhile_append_of_pos ranks, List.dropWhile_append_of_pos ranks, takes, drops, List.append_nil]

/-- Settles O45, by the first check that fails. -/
theorem submitOrderIsCheckedInOrder : Obligations.SubmitOrderIsCheckedInOrder := by
  intro s o formed takes
  have full := twelve_entries formed
  rw [exec_submitOrder formed takes]
  refine ⟨fun station => ?_, fun station => ⟨fun fields => ?_, fun fields => ⟨fun breaks => ?_, fun rules => ?_⟩⟩⟩
  · rw [State.submit_refused (checkOrder_station (by exact station))]
    rfl
  · rw [State.submit_refused (checkOrder_fields (by exact station) (by exact fields))]
    rfl
  · rw [State.submit_refused ((checkOrder_steps (by exact station) (by exact fields) (urgency_ofFields fields)).1
      (goodSteps_none full breaks))]
    rfl
  obtain ⟨steps, -, good⟩ := goodSteps_eq full rules
  have checked := (checkOrder_steps (s := s.setPort none) station fields (urgency_ofFields fields)).2 steps good
  refine ⟨fun absent => ?_, fun present => ⟨fun held => ?_, fun free => ⟨fun full => ?_, fun room => ?_⟩⟩⟩
  · rw [State.submit_refused (checked.trans (if_pos (by exact absent)))]
    rfl
  · rw [State.submit_refused (checked.trans ((if_neg (by exact present)).trans (if_pos (by exact held))))]
    rfl
  · rw [State.submit_refused (checked.trans ((if_neg (by exact present)).trans ((if_neg (by exact free)).trans
      (if_pos (by exact full)))))]
    rfl
  · refine ⟨_, rfl, ?_⟩
    rw [State.submit_accepted (checked.trans ((if_neg (by exact present)).trans ((if_neg (by exact free)).trans
      (if_neg (by exact Nat.not_le.mpr room)))))]
    refine ⟨rfl, .inl ?_⟩
    obtain ⟨before, after, placed⟩ := insertOrder_splits s.seq.queue
      (acceptedOrder o (if o.urgency = 2 then .priority else .demand) steps s.time.clock)
    exact ⟨_, placed ▸ List.mem_append_right _ List.mem_cons_self, rfl⟩

/-! ## What an accepted order becomes (R108, R110, R111) -/

theorem withRelease_eq (steps : List Step) :
    withRelease steps
      = if steps.getLast?.map (·.kind) = some .release then steps
        else steps ++ [{ kind := .release, marked := false, seconds := 0 }] := by
  unfold withRelease
  cases steps.getLast? with
  | none => rfl
  | some x => simp

theorem mapM_congr {α β : Type} {f g : α → Option β} {l : List α} (h : ∀ a ∈ l, f a = g a) : l.mapM f = l.mapM g := by
  induction l with
  | nil => rfl
  | cons a l ih =>
    rw [List.mapM_cons, List.mapM_cons, h a List.mem_cons_self, ih fun x hx => h x (List.mem_cons_of_mem _ hx)]

/-- Within the seven kinds the steps are those of the table of section 12.1. -/
theorem stepsOf_table (known : ∀ e ∈ examined o, 1 ≤ e.kind ∧ e.kind ≤ 7) :
    stepsOf o =
      (o.entries.take o.count).mapM (fun e =>
        ([StepKind.connect, .foreign, .resist, .capacity, .verdict, .hold, .release][e.kind - 1]?).map
          (fun k => { kind := k, marked := e.mark != 0, seconds := if e.kind = 6 then e.seconds else 0 })) := by
  refine mapM_congr fun e he => ?_
  obtain ⟨k, code⟩ := exists_stepCode (known e he)
  rw [stepOf, code, stepKindOf_iff.mpr rfl]
  cases k <;> rfl

/-- Settles O46. -/
theorem acceptedOrderEntersTheQueue : Obligations.AcceptedOrderEntersTheQueue := by
  intro s o before after steps q formed station fields rules present free room queue ahead behind hsteps hq
  have full := twelve_entries formed
  obtain ⟨steps', named, good⟩ := goodSteps_eq full rules
  have known : ∀ e ∈ examined o, 1 ≤ e.kind ∧ e.kind ≤ 7 := by
    intro e he
    obtain ⟨i, hi⟩ := List.getElem?_of_mem he
    rw [← (kindAt_eq hi).1]
    exact rules.2.1 i (by rw [← examined_length full rules.1.2]; exact (List.getElem?_eq_some_iff.mp hi).1)
  have same : steps' = steps := by
    rw [← stepsOf_table known, named] at hsteps
    exact (Option.some.inj hsteps).symm
  subst same
  have takes : s.TakesCommands := ⟨by simp [station], by simp [station]⟩
  have checked := (checkOrder_steps (s := s.setPort none) station fields (urgency_ofFields fields)).2 steps' good
  rw [exec_submitOrder formed takes, State.submit_accepted (checked.trans ((if_neg (by exact present)).trans
    ((if_neg (by exact free)).trans (if_neg (by exact Nat.not_le.mpr room))))), State.setPort_seq, queue,
    insertOrder_placed _ ahead behind, hq, acceptedOrder, withRelease_eq]
  by_cases priority : o.urgency = 2
  · simp only [if_pos priority]
    rfl
  · simp only [if_neg priority]
    rfl

end Sys2Proof.Machine

/-! SUPPORT. CANCEL ORDER and RESUME ORDER (O47). -/

namespace Sys2Proof.Machine

variable {s t w : State} {j : Job} {b : Nat} {c : OwnClaim} {tag : Nat} {id : SlotId}

theorem exec_cancelOrder (takes : s.TakesCommands) (fits : tag < 65536) :
    exec (.cancelOrder tag) s = .next ((s.setPort none).cancel tag) := by
  have formed : (Instr.cancelOrder tag).wellFormed = true := by simpa [Instr.wellFormed, fits2] using fits
  simp only [exec, execCancelOrder, Sys2Proof.Machine.formed, formed, if_true]
  rw [State.desk_takes takes]

theorem exec_resumeOrder (takes : s.TakesCommands) (fits : tag < 65536) :
    exec (.resumeOrder tag) s = .next ((s.setPort none).resume tag) := by
  have formed : (Instr.resumeOrder tag).wellFormed = true := by simpa [Instr.wellFormed, fits2] using fits
  simp only [exec, execResumeOrder, Sys2Proof.Machine.formed, formed, if_true]
  rw [State.desk_takes takes]

/-! ## Where the order of a tag stands -/

theorem State.cancel_queued {before after : List QueuedOrder} {o : Order}
    (queue : s.seq.queue = before ++ { order := o, waiting := none } :: after)
    (others : ∀ x ∈ before ++ after, x.order.tag ≠ o.tag) :
    s.cancel o.tag = (s.endQueued o.tag .cancelled none).reply .accepted := by
  have found : s.seq.queue.find? (fun q => q.order.tag == o.tag) = some { order := o, waiting := none } := by
    rw [queue, List.find?_append, List.find?_eq_none.mpr, Option.none_or, List.find?_cons_of_pos (by simp)]
    intro x hx
    simp [others x (List.mem_append_left _ hx)]
  rw [State.cancel, found]
  rfl

theorem State.cancel_waiting (held : ∃ q ∈ s.seq.queue, q.order.tag = tag ∧ q.waiting ≠ none)
    (ended : ∀ q ∈ s.seq.queue, q.order.tag = tag → q.waiting ≠ none) : s.cancel tag = s.reply .state := by
  cases found : s.seq.queue.find? (fun q => q.order.tag == tag) with
  | none =>
    obtain ⟨q, mem, same, -⟩ := held
    exact absurd (by simpa using same) (List.find?_eq_none.mp found q mem)
  | some q =>
    have same : q.order.tag = tag := by simpa using List.find?_some found
    rw [State.cancel, found]
    exact if_pos (Option.isSome_iff_ne_none.mpr (ended q (List.mem_of_find?_eq_some found) same))

theorem State.cancel_slot (notQueued : ∀ q ∈ s.seq.queue, q.order.tag ≠ tag) (slot : s.slotOfTag tag = some id) :
    s.cancel tag = s.cancelInSlot id := by
  rw [State.cancel, List.find?_eq_none.mpr fun q hq => by simpa using notQueued q hq, slot]

theorem State.slotOfTag_slot (holds : (s.slot id).tag? = some tag)
    (other : id = .staged → s.seq.active.tag? ≠ some tag) : s.slotOfTag tag = some id := by
  unfold State.slotOfTag
  cases id with
  | active => rw [if_pos (by exact holds)]
  | staged => rw [if_neg (other rfl), if_pos (by exact holds)]

theorem tag?_job (desk : j.sweep = none) : (Slot.job j).tag? = some j.order.tag := by
  simp [Slot.tag?, desk]

theorem State.cancel_job (notQueued : ∀ q ∈ s.seq.queue, q.order.tag ≠ j.order.tag) (slot : s.slot id = .job j)
    (other : id = .staged → s.seq.active.tag? ≠ some j.order.tag) (desk : j.sweep = none) :
    s.cancel j.order.tag = s.cancelInSlot id :=
  State.cancel_slot notQueued (State.slotOfTag_slot (by rw [slot, tag?_job desk]) other)

/-! ## Jobs that are cancelled in their slots -/

theorem State.cancelInSlot_releasing (slot : s.slot id = .job j) (phase : j.phase = .releasing) :
    s.cancelInSlot id = s.reply .state := by
  unfold State.cancelInSlot
  rw [slot]
  dsimp only
  rw [phase]

theorem State.cancelInSlot_access (slot : s.slot id = .job j) (phase : j.phase = .access) :
    s.cancelInSlot id = (s.endAccess id .cancelled none).reply .accepted := by
  unfold State.cancelInSlot
  rw [slot]
  dsimp only
  rw [phase]

theorem State.cancelInSlot_abandons (slot : s.slot id = .job j) (notReleasing : j.phase ≠ .releasing)
    (notAccess : j.phase ≠ .access) :
    s.cancelInSlot id = ((s.abandon id .cancelled false).pump).reply .accepted := by
  unfold State.cancelInSlot
  rw [slot]
  dsimp only
  cases phase : j.phase with
  | releasing => exact absurd phase notReleasing
  | access => exact absurd phase notAccess
  | connecting => rfl
  | ready => rfl
  | running => rfl
  | suspended => rfl

theorem State.cancelInSlot_ended {x : Waiting} (slot : s.slot id = .donePending x) :
    s.cancelInSlot id = s.reply .state := by
  unfold State.cancelInSlot
  rw [slot]

theorem claimStopped_setPort {y : DeskLine} (h : ClaimStopped s y) (p : Option Transaction) :
    ClaimStopped (s.setPort p) y := h

/-- What ends of a claim does not turn on the desk port. -/
theorem claimEndsUnheld_setPort (h : ClaimEndsUnheld s w) (p : Option Transaction) :
    ClaimEndsUnheld (s.setPort p) (w.setPort p) := by
  obtain ⟨none_, rfl⟩ | ⟨o, opening, how⟩ := h
  · exact .inl ⟨none_, rfl⟩
  refine .inr ⟨o, opening, ?_⟩
  obtain ⟨waits, rfl⟩ | ⟨b, c, placed, entry, how⟩ := how
  · exact .inl ⟨waits, rfl⟩
  refine .inr ⟨b, c, placed, entry, ?_⟩
  obtain ⟨sending, y, stopped, rfl⟩ | ⟨sending, f, since, flight, claim, kept, phase, others, rfl⟩ | ⟨announced, rfl⟩ := how
  · exact .inl ⟨sending, y, claimStopped_setPort stopped p, rfl⟩
  · exact .inr (.inl ⟨sending, f, since, flight, claim, kept, phase, others, rfl⟩)
  · refine .inr (.inr ⟨announced, ?_⟩)
    have alike : State.LineAlike { s with claims := claimEnded s.claims b c }
        { s.setPort p with claims := claimEnded s.claims b c } := ⟨rfl, rfl, rfl⟩
    rw [State.offerRelease, State.offerRelease, State.offer_line]
    exact (alike.offer_eq _).symm

theorem State.cancelInSlot_claimEnds (slot : s.slot id = .job j) (phase : j.phase = .access) (desk : j.sweep = none)
    (station : s.claims.station ≠ .resetting) (stands : SlotsStand s id) (ends : ClaimEndsUnheld s w) :
    s.cancelInSlot id = (w.setSeq (orderEndedIn id w j .cancelled none)).setPort (plainResponse .accepted) := by
  have opened := State.endOpening_ends ends
  obtain ⟨form, wStation, -⟩ := claimEnds_form ends
  have wSeq : w.seq = s.seq := by rw [form]
  have wHead : w.head = s.head := by rw [form]
  have wSlot : w.slot id = .job j := by
    rw [← slot]
    cases id with
    | active => exact congrArg Sequencer.active wSeq
    | staged => exact congrArg Sequencer.staged wSeq
  rw [State.cancelInSlot_access slot phase, State.endAccess_desk opened wSlot desk (by rw [wStation]; exact station)
    (by rw [SlotsStand, wSeq, wHead]; exact stands)]
  rfl

/-! ## Jobs that are abandoned at the chain (R8, R123) -/

/-- A job abandoned at the chain in its slot, its claim RELEASING (R54, R80). -/
def releasedInSlot (s : State) (id : SlotId) (j : Job) (b : Nat) (c : OwnClaim) (status : EndStatus) : State :=
  { s with
    seq :=
      slotFilled s.seq id (.job { j with status := some status, failing := none, phase := .releasing, inserted := false })
    claims := claimReleased s.claims b c }

theorem State.ownsHead_away (slot : s.slot id = .job j) (bus : j.bus = some b)
    (away : id = .staged ∨ s.head.bus ≠ some b ∨ s.head.state = .offBus) : s.ownsHead id = false := by
  cases id with
  | staged => exact s.ownsHead_staged
  | active =>
    rw [State.ownsHead_active slot, bus]
    rcases away with h | h | h
    · cases h
    · simp [h]
    · simp [h]

theorem State.abandon_atChain (slot : s.slot id = .job j) (awake : j.phase ≠ .suspended) (bus : j.bus = some b)
    (away : id = .staged ∨ s.head.bus ≠ some b ∨ s.head.state = .offBus) (entry : s.entryAt b = .own c)
    (held : c.state = .held) (status : EndStatus) :
    s.abandon id status false = (releasedInSlot s id j b c status).releaseAtChain id := by
  have told : (s.setSlot id (.job { j with status := some status, failing := none })).slot id
      = .job { j with status := some status, failing := none } := State.slot_setSlot ..
  have same : (s.setSlot id (.job { j with status := some status, failing := none })).entryAt b = .own c := by
    rw [State.setSlot_eq]
    exact entry
  have gone : (s.setSlot id (.job { j with status := some status, failing := none })).ownsHead id = false :=
    State.ownsHead_away told bus (by rw [State.setSlot_eq]; exact away)
  rw [State.abandon, State.updateJob_job slot, if_neg (by decide),
    State.beginRelease_away told bus same gone (by exact awake), if_pos held]
  cases id <;> rfl

theorem State.opOf_pair {p : Pair} {o : ChainOp} (h : s.opOf p = some o) : o.pair = p := by
  simpa using List.find?_some h

theorem State.releaseAtChain_connects {p : Pair} {o : ChainOp} (slot : s.slot id = .job j) (bus : j.bus = some p.bus)
    (line : j.order.line = p.line) (operated : j.nothingOperated = false) (op : s.opOf p = some o)
    (connect : o.kind = .connect) : s.releaseAtChain id = s.abandonConnect p := by
  have connecting : s.connecting? p = true := by rw [State.connecting?, op, Option.any_some, connect]; rfl
  unfold State.releaseAtChain
  rw [slot]
  dsimp only
  rw [bus]
  dsimp only
  rw [line, operated, if_neg (by decide), show ({ bus := p.bus, line := p.line } : Pair) = p from rfl, if_pos connecting]

theorem State.requestWaits_iff (s : State) (p : Pair) :
    s.requestWaits p = true ↔ .operate p ∈ s.chain.jobGroup ∨ .readLine p ∈ s.chain.jobGroup := by
  simp [State.requestWaits]

theorem State.abandonConnect_asks {p : Pair} {o : ChainOp} (op : s.opOf p = some o)
    (h : s.requestWaits p = true ∨ ∃ m, o.stage = .settling m) :
    s.abandonConnect p
      = (s.setChain
          { s.chain with
            jobGroup := s.chain.jobGroup.filter (fun r => r != .operate p && r != .readLine p) }).startRelease p
          .release 1 := by
  unfold State.abandonConnect
  rw [op]
  dsimp only
  rcases h with waits | ⟨m, settles⟩
  · rw [waits, Bool.true_or, if_pos rfl]
  · rw [settles, if_pos (by simp)]

theorem State.abandonConnect_runs {p : Pair} {o : ChainOp} (op : s.opOf p = some o) (sent : ¬ s.requestWaits p = true)
    (acting : ¬ ∃ m, o.stage = .settling m) : s.abandonConnect p = s.putOp { o with abandoned := true } := by
  unfold State.abandonConnect
  rw [op]
  dsimp only
  rw [Bool.eq_false_iff.mpr sent, Bool.false_or, if_neg]
  intro settles
  cases stage : o.stage with
  | settling m => exact acting ⟨m, stage⟩
  | _ => simp [stage] at settles

/-- The job's release has been asked for, or its connect goes on, abandoned (R8, R123). -/
theorem releaseAtChain_abandons {p : Pair} (slot : s.slot id = .job j) (bus : j.bus = some p.bus)
    (line : j.order.line = p.line) (operated : j.nothingOperated = false) :
    ((∀ o ∈ s.chain.ops, o.pair ≠ p) → (s.chain.exchange.isSome = true ∨ s.ChainIdle) →
      (s.releaseAtChain id).pump = s.setChain (releaseAsked s.chain p s.time.now))
    ∧ ∀ o, s.opOf p = some o → o.kind = .connect →
      ((s.requestWaits p = true ∨ ∃ m, o.stage = .settling m) → (s.chain.exchange.isSome = true ∨ s.ChainIdle) →
        (s.releaseAtChain id).pump
          = s.setChain
              (releaseAsked
                { s.chain with jobGroup := s.chain.jobGroup.filter (fun r => r != .operate p && r != .readLine p) } p
                s.time.now))
      ∧ (¬ s.requestWaits p = true → (¬ ∃ m, o.stage = .settling m) → s.NothingToGrant →
        (s.releaseAtChain id).pump
          = s.setChain
              { s.chain with ops := s.chain.ops.filter (fun x => x.pair != p) ++ [{ o with abandoned := true }] }) := by
  refine ⟨fun apart chain => ?_, fun o op connect => ⟨fun asks chain => ?_, fun sent acting idle => ?_⟩⟩
  · rw [State.releaseAtChain_starts slot bus line operated (State.connecting?_apart apart),
      State.startRelease_asked_or chain]
  · rw [State.releaseAtChain_connects slot bus line operated op connect, State.abandonConnect_asks op asks,
      State.startRelease_asked_or]
    · rfl
    · rcases chain with busy | ⟨exchange, noJob, noPoll, noDiscovery⟩
      · exact .inl busy
      · exact .inr ⟨exchange, by simp [noJob], noPoll, noDiscovery⟩
  · rw [State.releaseAtChain_connects slot bus line operated op connect, State.abandonConnect_runs op sent acting,
      State.pump_nothing (by exact idle), State.putOp, ← State.opOf_pair op]

/-! ## The suspended order goes on (R127) -/

theorem State.suspendedTag_iff (s : State) (tag : Nat) :
    s.suspendedTag tag = true
      ↔ ∃ j, s.seq.active = .job j ∧ j.phase = .suspended ∧ j.sweep = none ∧ j.order.tag = tag := by
  unfold State.suspendedTag
  cases s.seq.active <;> simp [Slot.job?, and_assoc]

theorem State.resumeStep_eq (active : s.seq.active = .job j) :
    s.resumeStep = State.runStep 13 (withActive s { suspensionEnded j s.time.clock with phase := .running }) := by
  rw [State.resumeStep, State.updateJob_job (j := j) (by exact active)]
  rfl

theorem State.resume_goesOn (active : s.seq.active = .job j) (phase : j.phase = .suspended) (desk : j.sweep = none) :
    s.resume j.order.tag = s.resumeStep.pump.reply .accepted := by
  rw [State.resume, if_pos ((s.suspendedTag_iff _).mpr ⟨j, active, phase, desk, rfl⟩)]

theorem State.resume_hold (active : s.seq.active = .job j) (phase : j.phase = .suspended)
    (hold : (j.order.stepAt j.step).kind = .hold) :
    s.resumeStep
      = withActive s
          { j with
            phase := .running
            suspended := j.suspended + (s.time.clock - j.suspendedAt)
            holdUntil := s.time.now + ms ((j.order.stepAt j.step).seconds * 1000) } := by
  have ended : suspensionEnded j s.time.clock = { j with suspended := j.suspended + (s.time.clock - j.suspendedAt) } :=
    if_pos phase
  rw [State.resumeStep_eq active, ended, State.runStep]
  dsimp only [withActive]
  rw [hold]
  rfl

/-- CANCEL ORDER of the active job with the head on its bus or connecting to it (R79, R80, R128, R130). -/
theorem State.cancelInSlot_atHead (active : s.seq.active = .job j)
    (phase : j.phase = .ready ∨ j.phase = .running ∨ j.phase = .suspended) (idle : s.NothingToGrant) (bus : j.bus = some b)
    (head : s.head.bus = some b) (on : s.head.state ≠ .offBus) (entry : s.entryAt b = .own c) (held : c.state = .held) :
    s.cancelInSlot .active = (abandonedAtHead s j b c .cancelled none).setPort (plainResponse .accepted) := by
  rw [State.cancelInSlot_abandons (State.slot_active active) (by rcases phase with h | h | h <;> simp [h])
    (by rcases phase with h | h | h <;> simp [h]), State.abandon_atHead active bus entry held head on,
    State.pump_alike idle (by rfl), if_neg (by decide)]
  rfl

theorem State.resume_begins (on : OnItsBus s j b c) (phase : j.phase = .suspended) (onBus : s.head.state = .onBus)
    (safe : s.head.hazardFound = false) (plain : PlainFrom j j.step) (idle : s.NothingToGrant) :
    s.resumeStep.pump = stepBegun s { suspensionEnded j s.time.clock with phase := .running } b c := by
  have ended : suspensionEnded j s.time.clock = { j with suspended := j.suspended + (s.time.clock - j.suspendedAt) } :=
    if_pos phase
  have at_ : AtHead s { suspensionEnded j s.time.clock with phase := .running } b c := by
    rw [ended]
    exact ⟨rfl, on.bus, on.head, onBus, safe, on.entry, on.held, on.undisturbed⟩
  rw [State.resumeStep_eq on.active, at_.runStep_begins (by rw [ended]; exact plain),
    State.pump_alike idle (stepBegun_chain _ _ _ _)]

/-- Settles O47, by where the order of the tag stands. -/
theorem cancelAndResumeAnswerByWhereTheOrderStands : Obligations.CancelAndResumeAnswerByWhereTheOrderStands := by
  intro s tag takes fits
  rw [exec_cancelOrder takes fits, exec_resumeOrder takes fits]
  refine ⟨fun before after o same queue others => ?_, fun j b notQueued active desk same => ?_,
    fun id j notQueued slot other desk same => ?_, ⟨fun held ended => ?_, fun x notQueued places same => ?_⟩,
    fun held others => ?_, fun unknown => ⟨?_, ?_⟩⟩
  · subst same
    rw [State.cancel_queued (s := s.setPort none) queue others,
      State.endQueued_only (s := s.setPort none) queue others]
    exact ⟨fun room => by rw [if_pos (by exact room)]; rfl,
      fun full => by rw [if_neg (by exact Nat.not_lt.mpr full)]; rfl⟩
  · subst same
    rw [State.cancel_job (s := s.setPort none) (id := .active) notQueued active (fun h => by cases h) desk]
    refine ⟨fun c phase idle bus head on entry held => ?_, fun phase hold idle => ?_,
      fun c phase on onBus safe plain idle => ?_⟩
    · rw [State.cancelInSlot_atHead (s := s.setPort none) active phase idle bus head on entry held]
      rfl
    · rw [State.resume_goesOn (s := s.setPort none) active phase desk,
        State.resume_hold (s := s.setPort none) active phase hold, State.pump_alike idle (by rfl)]
      rfl
    · have on' : OnItsBus (s.setPort none) j b c := ⟨on.active, on.bus, on.head, on.entry, on.held, on.undisturbed⟩
      rw [State.resume_goesOn (s := s.setPort none) active phase desk,
        State.resume_begins on' phase onBus safe plain idle]
      rfl
  · subst same
    have slot' : (s.setPort none).slot id = .job j := by cases id <;> exact slot
    rw [State.cancel_job (s := s.setPort none) notQueued slot' other desk]
    refine ⟨fun phase => ?_, fun w access stands ends => ?_,
      fun b c p t phase away bus operated entry held hp ht => ?_⟩
    · rw [State.cancelInSlot_releasing slot' phase]
      rfl
    · rw [State.cancelInSlot_claimEnds slot' access desk (by exact takes.2) stands (claimEndsUnheld_setPort ends none)]
      rfl
    · have awake : j.phase ≠ .suspended ∧ j.phase ≠ .releasing ∧ j.phase ≠ .access := by
        rcases phase with h | h <;> simp [h]
      obtain ⟨notSuspended, notReleasing, notAccess⟩ := awake
      rw [State.cancelInSlot_abandons slot' notReleasing notAccess,
        State.abandon_atChain slot' notSuspended bus away entry held]
      have filled : (releasedInSlot (s.setPort none) id j b c .cancelled).slot id
          = .job { j with status := some .cancelled, failing := none, phase := .releasing, inserted := false } := by
        cases id <;> rfl
      obtain ⟨apart, connects⟩ := releaseAtChain_abandons (p := p) filled (by rw [hp]; exact bus) (by rw [hp]) operated
      refine ⟨fun none_ chain => ?_, fun o waits settles op connect hwaits hsettles => ?_⟩
      · rw [apart none_ chain, ht]
        rfl
      · obtain ⟨asks, runs⟩ := connects o op connect
        have waiting : waits ↔ (releasedInSlot (s.setPort none) id j b c .cancelled).requestWaits p = true := by
          rw [State.requestWaits_iff, hwaits]
          rfl
        rw [waiting, hsettles]
        refine ⟨fun h chain => ?_, fun sent acting idle => ?_⟩
        · rw [asks h chain, ht]
          rfl
        · rw [runs sent acting idle, ht]
          rfl
  · rw [State.cancel_waiting (by exact held) (by exact ended)]
    rfl
  · subst same
    rcases places with active | ⟨other, staged⟩
    · rw [State.cancel_slot (s := s.setPort none) notQueued
        (State.slotOfTag_slot (id := .active) (by exact (congrArg Slot.tag? active).trans rfl) fun h => by cases h),
        State.cancelInSlot_ended (s := s.setPort none) (id := .active) active]
      rfl
    · rw [State.cancel_slot (s := s.setPort none) notQueued
        (State.slotOfTag_slot (id := .staged) (by exact (congrArg Slot.tag? staged).trans rfl) fun _ => other),
        State.cancelInSlot_ended (s := s.setPort none) (id := .staged) staged]
      rfl
  · have notSuspended : ¬ (s.setPort none).suspendedTag tag = true := by
      rw [State.suspendedTag_iff]
      exact fun ⟨j, active, phase, desk, same⟩ => others j active desk same phase
    rw [State.resume, if_neg notSuspended, if_pos ((tagHeld_iff (s.setPort none) _).mpr held)]
    rfl
  · have notQueued : ∀ q ∈ s.seq.queue, q.order.tag ≠ tag := fun q mem same => unknown (.inl ⟨q, mem, same⟩)
    have nowhere : (s.setPort none).slotOfTag tag = none := by
      rw [State.slotOfTag, if_neg (by exact fun h => unknown (.inr (.inl h))),
        if_neg (by exact fun h => unknown (.inr (.inr h)))]
    rw [State.cancel, List.find?_eq_none.mpr fun q hq => by simpa using notQueued q hq, nowhere]
    rfl
  · have notSuspended : ¬ (s.setPort none).suspendedTag tag = true := by
      rw [State.suspendedTag_iff]
      rintro ⟨j, active, -, desk, rfl⟩
      exact unknown (.inr (.inl (by rw [show s.seq.active = .job j from active, tag?_job desk])))
    rw [State.resume, if_neg notSuspended, if_neg fun h => unknown ((tagHeld_iff (s.setPort none) _).mp h)]
    rfl

end Sys2Proof.Machine

/-! SUPPORT. Reads and what the end of a response removes (O48). -/

namespace Sys2Proof.Machine

variable {s : State}

/-! ## The layouts of sections 12.5 and 12.6 -/

@[simp] theorem optBytes_length (k absent : Nat) (x : Option Nat) : (optBytes k absent x).length = k :=
  bytesOf_length k _

@[simp] theorem zeros_length (n : Nat) : (zeros n).length = n := by simp [zeros]

@[simp] theorem signedBytes_length (x : Int) : (signedBytes x).length = 4 := by simp [signedBytes]

@[simp] theorem presentBytes_length (k : Nat) (x : Option Nat) : (presentBytes k x).length = k + 1 := by
  cases x <;> simp [presentBytes]

@[simp] theorem foreignBytes_length (x : Option ForeignValues) : (foreignBytes x).length = 25 := by
  cases x <;> simp [foreignBytes]

@[simp] theorem resistBytes_length (x : Option ResistResults) : (resistBytes x).length = 16 := by
  cases x <;> simp [resistBytes, resistanceBytes]

@[simp] theorem capacityBytes_length (x : Option CapacityResults) : (capacityBytes x).length = 17 := by
  cases x <;> simp [capacityBytes]

@[simp] theorem hazardBytes_length (x : Option HazardDetail) : (hazardBytes x).length = 7 := by
  cases x with
  | none => simp [hazardBytes]
  | some d => cases d <;> simp [hazardBytes]

@[simp] theorem detailBytes_length (d : ErrorDetail) : (detailBytes d).length = 3 := by
  cases d with
  | noticeCheck k => cases k <;> rfl
  | _ => simp [detailBytes]

theorem contentBytes_length {c : ReportContent} (heard : ∀ bytes, c = .heard bytes → bytes.length = 8) :
    (contentBytes c).length = 8 := by
  cases c with
  | heard bytes => exact heard bytes rfl
  | _ => simp [contentBytes]

theorem reportBytes_length {r : Report} (heard : ∀ bytes, r.content = .heard bytes → bytes.length = 8) :
    (reportBytes r).length = 15 := by
  simp [reportBytes, contentBytes_length heard]

theorem reportBytes_head (r : Report) : (reportBytes r).take 7 = byte r.content.code :: bytesOf 6 r.time := by
  rw [reportBytes, List.cons_append, List.take_succ_cons, List.take_left' (bytesOf_length 6 _)]

@[simp] theorem completionBytes_length (c : Completion) : (completionBytes c).length = 88 := by
  simp [completionBytes]

theorem flagByte_eq (b : Bool) : flagByte b = if b = true then 1 else 0 := by
  cases b <;> rfl

theorem optBytes_one (absent : Nat) (x : Option Nat) : optBytes 1 absent x = [byte (x.getD absent)] :=
  (byte_eq_bytesOf _).symm

/-- The seven bytes an order's completion record begins with (section 12.5). -/
def recordHead (c : Completion) : List Byte :=
  bytesOf 2 c.tag
    ++ [byte c.status.code, byte c.step, byte (c.failing.getD 0), byte (c.bus.getD 255), byte (verdictCode c.verdict)]

/-- The values measured, bytes 7 to 64 of a completion record (section 12.5). -/
def recordValues (c : Completion) : List Byte :=
  foreignBytes (c.results.bind (·.foreign)) ++ resistBytes (c.results.bind (·.resist))
    ++ capacityBytes (c.results.bind (·.capacity))

/-- The flags, the ident and the times, bytes 65 to 80 of a completion record (section 12.5). -/
def recordTimes (c : Completion) : List Byte :=
  [if c.results.any (·.overrange) = true then 1 else 0, if c.disturbed = true then 1 else 0]
    ++ bytesOf 2 (c.ident.getD 0) ++ bytesOf 4 c.accessWait ++ bytesOf 4 c.connected ++ bytesOf 4 c.suspended

theorem completionBytes_eq (c : Completion) :
    completionBytes c = recordHead c ++ (recordValues c ++ (recordTimes c ++ hazardBytes c.hazard)) := by
  rw [completionBytes, optBytes_one, optBytes_one, flagByte_eq, flagByte_eq]
  simp [recordHead, recordValues, recordTimes, optBytes]

theorem recordHead_length (c : Completion) : (recordHead c).length = 7 := by simp [recordHead]

theorem recordValues_length (c : Completion) : (recordValues c).length = 58 := by simp [recordValues]

theorem recordTimes_length (c : Completion) : (recordTimes c).length = 16 := by simp [recordTimes]

theorem completionBytes_head (c : Completion) : (completionBytes c).take 7 = recordHead c := by
  rw [completionBytes_eq, List.take_left' (recordHead_length c)]

theorem completionBytes_times (c : Completion) : ((completionBytes c).drop 65).take 16 = recordTimes c := by
  rw [completionBytes_eq, ← List.append_assoc, List.drop_left' (by simp [recordHead_length, recordValues_length]),
    List.take_left' (recordTimes_length c)]

/-! ## The oldest record that waits (R133) -/

/-- One step of the search for the record that has waited longest (R133). -/
def olderWaiting (best : Option Waiting) (w : Waiting) : Option Waiting :=
  match best with
  | none => some w
  | some b => if w.ended < b.ended then some w else some b

theorem Sequencer.oldestWaiting_eq {q : Sequencer} (active : q.active = .empty) (staged : q.staged = .empty) :
    q.oldestWaiting = (q.queue.filterMap (·.waiting)).foldl olderWaiting none := by
  rw [Sequencer.oldestWaiting, active, staged]
  rfl

theorem foldl_olderWaiting_later {w : Waiting} (l : List Waiting) (later : ∀ y ∈ l, w.ended < y.ended)
    {best : Option Waiting} (h : ∀ y ∈ best, w.ended < y.ended) : ∀ y ∈ l.foldl olderWaiting best, w.ended < y.ended := by
  induction l generalizing best with
  | nil => exact h
  | cons x l ih =>
    refine ih (fun y hy => later y (List.mem_cons_of_mem _ hy)) ?_
    have first := later x List.mem_cons_self
    cases best with
    | none => exact fun y hy => by cases hy; exact first
    | some b =>
      unfold olderWaiting
      dsimp only
      split
      · exact fun y hy => by cases hy; exact first
      · exact h

theorem foldl_olderWaiting_stands {w : Waiting} (l : List Waiting) (later : ∀ y ∈ l, w.ended < y.ended) :
    l.foldl olderWaiting (some w) = some w := by
  induction l with
  | nil => rfl
  | cons x l ih =>
    have stands : olderWaiting (some w) x = some w :=
      if_neg (Nat.not_lt.mpr (Nat.le_of_lt (later x List.mem_cons_self)))
    rw [List.foldl_cons, stands]
    exact ih fun y hy => later y (List.mem_cons_of_mem _ hy)

theorem foldl_olderWaiting_oldest {w : Waiting} {before after : List Waiting} (ahead : ∀ y ∈ before, w.ended < y.ended)
    (behind : ∀ y ∈ after, w.ended < y.ended) : (before ++ w :: after).foldl olderWaiting none = some w := by
  have later := foldl_olderWaiting_later before ahead (best := none) (fun y hy => by cases hy)
  have found : olderWaiting (before.foldl olderWaiting none) w = some w := by
    cases h : before.foldl olderWaiting none with
    | none => rfl
    | some b => exact if_pos (later b h)
  rw [List.foldl_append, List.foldl_cons, found, foldl_olderWaiting_stands after behind]

theorem State.fileWaiting_none (active : s.seq.active = .empty) (staged : s.seq.staged = .empty)
    (none_ : ∀ q ∈ s.seq.queue, q.waiting = none) : s.fileWaiting = s := by
  have nobody : s.seq.oldestWaiting = none := by
    rw [Sequencer.oldestWaiting_eq active staged, List.filterMap_eq_nil_iff.mpr none_]
    rfl
  rw [State.fileWaiting, nobody]

theorem State.fileWaiting_oldest {before after : List QueuedOrder} {o : Order} {w : Waiting}
    (active : s.seq.active = .empty) (staged : s.seq.staged = .empty)
    (queue : s.seq.queue = before ++ { order := o, waiting := some w } :: after)
    (oldest : ∀ x ∈ before ++ after, ∀ y, x.waiting = some y → w.ended < y.ended) (room : s.seq.completions.length < 16) :
    s.fileWaiting
      = s.setSeq { s.seq with completions := s.seq.completions ++ [w.record], queue := before ++ after } := by
  have later {l : List QueuedOrder} (h : ∀ x ∈ l, x ∈ before ++ after) : ∀ y ∈ l.filterMap (·.waiting), w.ended < y.ended := by
    intro y hy
    obtain ⟨x, mem, waits⟩ := List.mem_filterMap.mp hy
    exact oldest x (h x mem) y waits
  have found : s.seq.oldestWaiting = some w := by
    rw [Sequencer.oldestWaiting_eq active staged, queue, List.filterMap_append, List.filterMap_cons_some (f := QueuedOrder.waiting) rfl]
    exact foldl_olderWaiting_oldest (later fun x => List.mem_append_left _) (later fun x => List.mem_append_right _)
  have left : s.seq.queue.filter (fun q => !q.waiting.any (fun x => x.ended == w.ended)) = before ++ after := by
    refine filter_mid queue (by simp) fun x mem => ?_
    cases waits : x.waiting with
    | none => rfl
    | some y => simpa using Nat.ne_of_gt (oldest x mem y waits)
  rw [State.fileWaiting, found]
  dsimp only
  rw [if_pos (by exact room), left, active, staged, State.settleSlots_stand]
  · rfl
  · simp [Slot.without]
  · simp [Slot.without]

/-! ## Reads -/

theorem State.readOldest_first {c : Completion} {rest : List Completion} (queue : s.seq.completions = c :: rest) :
    s.readOldest
      = s.setPort (some { response := [1, 0, 88] ++ completionBytes c, reading := .completion, discarded := false }) := by
  rw [State.readOldest, queue]
  dsimp only
  rw [State.answerWith, responseBytes, completionBytes_length]
  rfl

theorem State.readOldest_empty (queue : s.seq.completions = []) : s.readOldest = s.setPort (plainResponse .empty) := by
  rw [State.readOldest, queue]
  rfl

theorem State.readOldestReport_first {r : Report} {rest : List Report} (queue : s.reports.queue = r :: rest)
    (heard : ∀ bytes, r.content = .heard bytes → bytes.length = 8) :
    s.readOldestReport
      = s.setPort
          (some
            { response := [1, 0, 16, if s.reports.overrun then 1 else 0] ++ reportBytes r
              reading := .report false
              discarded := false }) := by
  rw [State.readOldestReport, queue]
  dsimp only
  rw [State.answerWith, responseBytes, List.length_cons, reportBytes_length heard, flagByte_eq]
  rfl

theorem State.readOldestReport_empty (queue : s.reports.queue = []) :
    s.readOldestReport
      = s.setPort
          (some
            { response := [12, 0, 1, if s.reports.overrun then 1 else 0]
              reading := .reportEmpty
              discarded := false }) := by
  rw [State.readOldestReport, queue]
  dsimp only
  rw [State.answerWith, responseBytes, List.length_singleton, flagByte_eq]
  rfl

theorem exec_responseCompleted {t : Transaction} (port : s.port = some t) :
    exec .responseCompleted s = .next ((s.setPort none).finishReading t) := by
  simp only [exec, execResponseCompleted]
  rw [port]

theorem State.finishReading_completion {t : Transaction} {c : Completion} {rest : List Completion}
    (reading : t.reading = .completion) (queue : s.seq.completions = c :: rest) :
    s.finishReading t = (s.setSeq { s.seq with completions := rest }).fileWaiting := by
  rw [State.finishReading, reading]
  dsimp only
  rw [queue]

theorem responseCompleted_clauses {t : Transaction} (port : s.port = some t) :
    (t.reading = .nothing → exec .responseCompleted s = .next { s with port := none })
    ∧ (∀ c rest, t.reading = .completion → s.seq.completions = c :: rest → s.seq.active = .empty →
        s.seq.staged = .empty →
      ((∀ q ∈ s.seq.queue, q.waiting = none) →
        exec .responseCompleted s = .next { s with port := none, seq := { s.seq with completions := rest } })
      ∧ (∀ (before after : List QueuedOrder) (o : Order) (w : Waiting),
          s.seq.queue = before ++ { order := o, waiting := some w } :: after →
          (∀ x ∈ before ++ after, ∀ y, x.waiting = some y → w.ended < y.ended) → rest.length < 16 →
        exec .responseCompleted s = .next
          { s with
            port := none
            seq := { s.seq with completions := rest ++ [w.record], queue := before ++ after } }))
    ∧ (∀ gone, t.reading = .report gone →
      exec .responseCompleted s = .next
        { s with
          port := none
          reports :=
            { s.reports with
              queue := if gone then s.reports.queue else s.reports.queue.tail
              overrun := t.discarded } }) := by
  rw [exec_responseCompleted port]
  refine ⟨fun reading => ?_, fun c rest reading queue active staged => ?_, fun gone reading => ?_⟩
  · rw [State.finishReading, reading]
    rfl
  · rw [State.finishReading_completion reading (by exact queue)]
    refine ⟨fun none_ => ?_, fun before after o w waiting oldest room => ?_⟩
    · rw [State.fileWaiting_none (by exact active) (by exact staged) (by exact none_)]
      rfl
    · rw [State.fileWaiting_oldest (by exact active) (by exact staged) (by exact waiting) oldest (by exact room)]
      rfl
  · rw [State.finishReading, reading]
    dsimp only
    rw [List.drop_one]
    rfl

/-- Settles O48. -/
theorem finishedReadsRemoveTheOldest : Obligations.FinishedReadsRemoveTheOldest := by
  refine ⟨fun c => ⟨completionBytes_length c, ?_, completionBytes_times c⟩,
    fun r heard => ⟨reportBytes_length heard, reportBytes_head r⟩,
    fun s => ⟨fun takes => ?_, fun t port => responseCompleted_clauses port, rfl⟩⟩
  · rw [completionBytes_head, recordHead]
    cases c.verdict <;> rfl
  · simp only [exec, execReadCompletion, execReadReport]
    rw [State.desk_takes takes, State.desk_takes takes]
    refine ⟨fun c rest queue => ?_, fun queue => ?_, fun r rest queue heard => ?_, fun queue => ?_⟩
    · rw [State.readOldest_first (by exact queue)]
      rfl
    · rw [State.readOldest_empty (by exact queue)]
      rfl
    · rw [State.readOldestReport_first (by exact queue) heard]
      rfl
    · rw [State.readOldestReport_empty (by exact queue)]
      rfl

end Sys2Proof.Machine

/-! SUPPORT. Applied verdicts and the tickets they open and move (O50). -/

namespace Sys2Proof.Machine

variable {s : State}

/-! ## The table of line records -/

section Put
variable {t : List (Nat × LineRecord)} {n k : Nat} {x : LineRecord}

theorem putRecord_front (front : ∀ e ∈ t, n < e.1) (r : LineRecord) :
    putRecord t n r = if r = LineRecord.powerOn then t else (n, r) :: t := by
  cases t with
  | nil => rfl
  | cons e t =>
    obtain ⟨k, x⟩ := e
    rw [putRecord, if_pos (by exact front _ List.mem_cons_self)]

theorem putRecord_same (r : LineRecord) :
    putRecord ((n, x) :: t) n r = if r = LineRecord.powerOn then t else (n, r) :: t := by
  rw [putRecord, if_neg (Nat.lt_irrefl n), if_pos rfl]

theorem putRecord_past (past : k < n) (r : LineRecord) : putRecord ((k, x) :: t) n r = (k, x) :: putRecord t n r := by
  rw [putRecord, if_neg (by omega), if_neg (by omega)]

/-- A record put twice for one line is the second (R138). -/
theorem putRecord_putRecord (h : recordsWf t = true) (n : Nat) (r r' : LineRecord) :
    putRecord (putRecord t n r) n r' = putRecord t n r' := by
  have inFront {t : List (Nat × LineRecord)} (front : ∀ e ∈ t, n < e.1) :
      putRecord (if r = LineRecord.powerOn then t else (n, r) :: t) n r'
        = if r' = LineRecord.powerOn then t else (n, r') :: t := by
    by_cases powerOn : r = LineRecord.powerOn
    · rw [if_pos powerOn, putRecord_front front]
    · rw [if_neg powerOn, putRecord_same]
  induction t with
  | nil => exact inFront (t := []) (by simp)
  | cons e t ih =>
    obtain ⟨k, x⟩ := e
    rw [recordsWf, Bool.and_eq_true, Bool.and_eq_true, List.all_eq_true] at h
    obtain ⟨⟨-, rising⟩, rest⟩ := h
    have behind : ∀ e ∈ t, k < e.1 := fun e he => by simpa using rising e he
    rcases Nat.lt_trichotomy n k with below | rfl | above
    · have front : ∀ e ∈ (k, x) :: t, n < e.1 := by
        intro e he
        rcases List.mem_cons.mp he with rfl | he
        · exact below
        · exact below.trans (behind e he)
      rw [putRecord_front front, putRecord_front front, inFront front]
    · rw [putRecord_same, putRecord_same, inFront behind]
    · rw [putRecord_past above, putRecord_past above, putRecord_past above, ih rest]

end Put

theorem State.recordOf_setRecord (h : recordsWf s.records.table = true) (line : Nat) (r : LineRecord) :
    (s.setRecord line r).recordOf line = r := by
  rw [State.recordOf, State.setRecord]
  exact (lookRecord_putRecord _ _ _ _ h).trans (if_pos rfl)

theorem State.setRecord_setRecord (h : recordsWf s.records.table = true) (line : Nat) (r r' : LineRecord) :
    (s.setRecord line r).setRecord line r' = s.setRecord line r' := by
  simp only [State.setRecord, State.setRecords_records, putRecord_putRecord h]
  rfl

/-! ## The table of tickets -/

section Table
variable {before after : List Ticket} {k : Ticket}

theorem State.ticket?_only (table : s.tickets.table = before ++ k :: after) (others : ∀ x ∈ before, x.ident ≠ k.ident) :
    s.ticket? k.ident = some k := by
  rw [State.ticket?, table, List.find?_append, List.find?_eq_none.mpr fun x hx => by simpa using others x hx,
    Option.none_or, List.find?_cons_of_pos (by simp)]

theorem State.ticket?_none {ident : Nat} (none_ : ∀ x ∈ s.tickets.table, x.ident ≠ ident) : s.ticket? ident = none := by
  rw [State.ticket?, List.find?_eq_none]
  exact fun x hx => by simpa using none_ x hx

theorem State.updateTicket_only (table : s.tickets.table = before ++ k :: after)
    (others : ∀ x ∈ before ++ after, x.ident ≠ k.ident) (f : Ticket → Ticket) :
    s.updateTicket k.ident f = s.setTickets { s.tickets with table := before ++ f k :: after } := by
  have kept {l : List Ticket} (h : ∀ x ∈ l, x ∈ before ++ after) :
      l.map (fun t => if t.ident = k.ident then f t else t) = l :=
    (List.map_congr_left fun x hx => if_neg (others x (h x hx))).trans (List.map_id l)
  rw [State.updateTicket, table, List.map_append, List.map_cons, if_pos rfl,
    kept fun x => List.mem_append_left _, kept fun x => List.mem_append_right _]

end Table

/-! ## An applied verdict (R140, R157 to R168) -/

/-- The delivered verdict has been put in its line's record, and the Ticket Table has it in hand. -/
theorem State.applyVerdict_judged {d : Delivery} {r' : LineRecord} {now level : Nat} (clear : s.records.clear = none)
    (hnow : now = s.time.clock / 1000)
    (hr : r' = (s.recordOf d.line).judged d now (now / 60) s.settings.decay) (hl : level = r'.level) :
    s.applyVerdict d = (s.setRecord d.line r').ticketVerdict d.line d.verdict now level := by
  subst hl hr hnow
  rw [State.applyVerdict, if_neg (by simp [clear])]
  rfl

section Ticketless
variable {line now level : Nat} {v : Verdict}

theorem State.ticketVerdict_rests (none_ : (s.recordOf line).ticket = none) (noMark : (s.recordOf line).pending = false)
    (mild : v ≠ .hazard) (low : level < s.settings.openLevel) : s.ticketVerdict line v now level = s := by
  unfold State.ticketVerdict
  dsimp only
  rw [none_]
  dsimp only
  rw [if_neg (by simp [noMark]), if_neg (by simp [mild, low])]

theorem State.ticketVerdict_gives (none_ : (s.recordOf line).ticket = none) (mark : (s.recordOf line).pending = true)
    (clear : v = .clear) (low : level ≤ s.settings.clearLevel) :
    s.ticketVerdict line v now level = s.setRecord line { s.recordOf line with pending := false } := by
  unfold State.ticketVerdict
  dsimp only
  rw [none_]
  dsimp only
  rw [if_pos mark, if_pos ⟨clear, low⟩]

theorem State.ticketVerdict_opens (none_ : (s.recordOf line).ticket = none)
    (opens : (s.recordOf line).pending = true ∧ ¬ (v = .clear ∧ level ≤ s.settings.clearLevel)
      ∨ (s.recordOf line).pending = false ∧ (v = .hazard ∨ s.settings.openLevel ≤ level)) :
    s.ticketVerdict line v now level = s.openTicket line v now (openingCause v) := by
  unfold State.ticketVerdict
  dsimp only
  rw [none_]
  dsimp only
  rcases opens with ⟨mark, high⟩ | ⟨noMark, high⟩
  · rw [if_pos mark, if_neg high]
  · rw [if_neg (by simp [noMark]), if_pos high]

end Ticketless

theorem roomFor_live {ts : List Ticket} (full : 128 ≤ ts.length) (live : ∀ x ∈ ts, x.state ≠ .closed) : roomFor ts = none := by
  rw [roomFor, if_neg (Nat.not_lt.mpr full), if_neg]
  simpa using live

theorem roomFor_some {ts room : List Ticket}
    (h : ts.length < 128 ∧ room = ts
      ∨ 128 ≤ ts.length
        ∧ ∃ before x after, ts = before ++ x :: after ∧ room = before ++ after ∧ x.state = .closed
          ∧ ∀ y ∈ before, y.state ≠ .closed) : roomFor ts = some room := by
  rcases h with ⟨short, rfl⟩ | ⟨full, before, x, after, table, rfl, closed, live⟩
  · exact if_pos short
  · have some_ : ts.any (fun t => t.state == .closed) = true := by
      rw [table]
      simp [closed]
    rw [roomFor, if_neg (Nat.not_lt.mpr full), if_pos some_, table,
      List.eraseP_append_right _ (fun y hy => by simpa using live y hy), List.eraseP_cons_of_pos (by simp [closed])]

theorem freeSerial_next {ts : List Ticket} {n serial : Nat} (next : serial = if n < 4095 then n + 1 else 1)
    (free : ∀ x ∈ ts, x.ident % 4096 ≠ serial) : freeSerial ts 4095 n = serial := by
  have stepped : stepSerial n = serial := by
    rw [next, stepSerial]
    split <;> split <;> omega
  have notHeld : serialHeld ts serial = false := by
    rw [serialHeld, List.any_eq_false]
    exact fun x hx => by simpa using free x hx
  rw [freeSerial, stepped, notHeld]
  rfl

theorem State.openTicket_full {line : Nat} {v : Verdict} {now : Nat} {cause : TicketCause}
    (full : 128 ≤ s.tickets.table.length) (live : ∀ x ∈ s.tickets.table, x.state ≠ .closed) :
    s.openTicket line v now cause
      = (s.setRecord line { s.recordOf line with pending := true }).capture (.ticketTableFull line) := by
  rw [State.openTicket, roomFor_live full live]

theorem State.openTicket_opens {line : Nat} {v : Verdict} {now serial : Nat} {cause : TicketCause} {room : List Ticket}
    (makes : roomFor s.tickets.table = some room)
    (next : serial = if s.tickets.serial < 4095 then s.tickets.serial + 1 else 1)
    (free : ∀ x ∈ room, x.ident % 4096 ≠ serial) :
    s.openTicket line v now cause
      = ((s.setTickets
            { s.tickets with
              table := room ++ [newTicket (s.straps.station * 4096 + serial) line v now s.settings.retest]
              serial := serial }).setRecord line
            { s.recordOf line with
              ticket := some (s.straps.station * 4096 + serial), pending := false }).announceTicket none
          (newTicket (s.straps.station * 4096 + serial) line v now s.settings.retest) cause := by
  rw [State.openTicket, makes]
  dsimp only
  rw [freeSerial_next next free]
  rfl

/-- A verdict for a line whose record names a ticket updates that ticket and may move it (R157, R159, R160). -/
theorem State.ticketVerdict_updates {line now level : Nat} {v : Verdict} {before after : List Ticket} {k : Ticket}
    (named : (s.recordOf line).ticket = some k.ident) (table : s.tickets.table = before ++ k :: after)
    (others : ∀ x ∈ before ++ after, x.ident ≠ k.ident) :
    s.ticketVerdict line v now level
      = (s.setTickets
          { s.tickets with table := before ++ k.tested v now s.settings.retest :: after }).ticketMove
          (k.tested v now s.settings.retest) v now level := by
  unfold State.ticketVerdict
  dsimp only
  rw [named]
  dsimp only
  rw [State.ticket?_only table fun x hx => others x (List.mem_append_left _ hx)]
  dsimp only
  rw [State.updateTicket_only table others]

theorem State.moveTicket_only {before after : List Ticket} {k : Ticket} {f : Ticket → Ticket} {cause : TicketCause}
    (table : s.tickets.table = before ++ k :: after) (others : ∀ x ∈ before ++ after, x.ident ≠ k.ident) :
    s.moveTicket k f cause
      = (s.setTickets { s.tickets with table := before ++ f k :: after }).announceTicket (some k.state) (f k) cause := by
  rw [State.moveTicket, State.updateTicket_only table others]

section Moves
variable {k : Ticket} {v : Verdict} {now level : Nat}

theorem State.ticketMove_stays (live : k.state = .opened ∨ k.state = .held) (fault : v ≠ .clear) :
    s.ticketMove k v now level = s := by
  unfold State.ticketMove
  rcases live with state | state <;> rw [state] <;> exact if_neg fun h => fault h.1

theorem State.ticketMove_clears (live : k.state = .opened ∨ k.state = .held) (clear : v = .clear)
    (low : level ≤ s.settings.clearLevel) :
    s.ticketMove k v now level
      = s.moveTicket k
          (fun t => { t with state := .cleared, changedAt := now, deadline := some (now + s.settings.clearHold * 60) })
          .clear := by
  unfold State.ticketMove
  rcases live with state | state <;> rw [state] <;> exact if_pos ⟨clear, low⟩

theorem State.ticketMove_reopens (state : k.state = .cleared) (high : v = .hazard ∨ s.settings.openLevel ≤ level) :
    s.ticketMove k v now level
      = s.moveTicket k (fun t => { t with state := .opened, changedAt := now, deadline := none }) (openingCause v) := by
  unfold State.ticketMove
  rw [state]
  exact if_pos high

end Moves

theorem judged_eq {r : LineRecord} {d : Delivery} {now level period : Nat}
    (hl : level = min 255 ((decayBucket r.level r.stamp (now / 60) period).1 + d.verdict.weight)) :
    recordAfter r d now level (decayBucket r.level r.stamp (now / 60) period).2 = r.judged d now (now / 60) period := by
  subst hl
  rfl

/-- The opening of a ticket for a line without one (R158, R167, R168). -/
theorem applyVerdict_opens {d : Delivery} {r' : LineRecord} {now : Nat} (wf : recordsWf s.records.table = true)
    (applied : s.applyVerdict d = (s.setRecord d.line r').openTicket d.line d.verdict now (openingCause d.verdict)) :
    (128 ≤ s.tickets.table.length → (∀ x ∈ s.tickets.table, x.state ≠ .closed) →
      s.applyVerdict d =
        { s with
          records :=
            { s.records with
              table := putRecord s.records.table d.line { r' with pending := true } } }.capture
          (.ticketTableFull d.line))
    ∧ ∀ (room : List Ticket) (serial : Nat), roomFor s.tickets.table = some room →
        serial = (if s.tickets.serial < 4095 then s.tickets.serial + 1 else 1) →
        (∀ x ∈ room, x.ident % 4096 ≠ serial) →
      s.applyVerdict d =
        ({ s with
            tickets :=
              { s.tickets with
                table := room ++ [newTicket (s.straps.station * 4096 + serial) d.line d.verdict now s.settings.retest]
                serial := serial }
            records :=
              { s.records with
                table :=
                  putRecord s.records.table d.line
                    { r' with ticket := some (s.straps.station * 4096 + serial), pending := false } } }).announceTicket
          none (newTicket (s.straps.station * 4096 + serial) d.line d.verdict now s.settings.retest)
          (openingCause d.verdict) := by
  refine ⟨fun full live => ?_, fun room serial makes next free => ?_⟩
  · rw [applied, State.openTicket_full (by exact full) (by exact live), State.recordOf_setRecord wf,
      State.setRecord_setRecord wf]
    rfl
  · rw [applied, State.openTicket_opens (by exact makes) (by exact next) free, State.recordOf_setRecord wf]
    have twice := State.setRecord_setRecord (s := s.setTickets
      { s.tickets with
        table := room ++ [newTicket (s.straps.station * 4096 + serial) d.line d.verdict now s.settings.retest]
        serial := serial }) wf d.line r'
      { r' with ticket := some (s.straps.station * 4096 + serial), pending := false }
    exact congrArg (fun x => State.announceTicket x none _ _) twice

/-- Settles O50, by whether the line's record names a ticket and by the state of that ticket. -/
theorem appliedVerdictOpensAndMovesTickets : Obligations.AppliedVerdictOpensAndMovesTickets := by
  intro s d r r' now level wf hr hnow hlevel hr'
  subst hr
  have judged : r' = (s.recordOf d.line).judged d now (now / 60) s.settings.decay := hr'.trans (judged_eq hlevel)
  have named : r'.ticket = (s.recordOf d.line).ticket := by rw [judged]; rfl
  have marked : r'.pending = (s.recordOf d.line).pending := by rw [judged]; rfl
  have reached : level = r'.level := by rw [hr']; rfl
  have put : (s.setRecord d.line r').recordOf d.line = r' := State.recordOf_setRecord wf ..
  refine ⟨fun clears => if_pos clears, fun clear none_ noMark mild low => ?_, fun clear none_ mark isClear low => ?_,
    fun clear none_ opens => ?_, fun before after t t' clear has table others ht' base hbase => ?_⟩
  · rw [State.applyVerdict_judged clear hnow judged reached,
      State.ticketVerdict_rests (by rw [put, named, none_]) (by rw [put, marked, noMark]) mild (by exact low)]
    rfl
  · rw [State.applyVerdict_judged clear hnow judged reached,
      State.ticketVerdict_gives (by rw [put, named, none_]) (by rw [put, marked, mark]) isClear (by exact low), put,
      State.setRecord_setRecord wf]
    rfl
  · have applied : s.applyVerdict d
        = (s.setRecord d.line r').openTicket d.line d.verdict now (openingCause d.verdict) := by
      rw [State.applyVerdict_judged clear hnow judged reached,
        State.ticketVerdict_opens (by rw [put, named, none_]) (by rw [put, marked]; exact opens)]
    obtain ⟨fills, makes⟩ := applyVerdict_opens wf applied
    refine ⟨fills, fun room serial ident t has next free hident ht => ?_⟩
    subst hident
    rw [makes room serial (roomFor_some has) next free, ht]
    rfl
  · have applied : s.applyVerdict d
        = (base.setTickets { s.tickets with table := before ++ t' :: after }).ticketMove t' d.verdict now level := by
      rw [State.applyVerdict_judged clear hnow judged reached,
        State.ticketVerdict_updates (k := t) (before := before) (after := after) (by rw [put, named, has])
          (by exact table) others, hbase, ht']
      rfl
    have state : t'.state = t.state := by rw [ht']
    have ident : t'.ident = t.ident := by rw [ht']
    have line : t'.line = t.line := by rw [ht']
    have latest : t'.latest = d.verdict := by rw [ht']
    have others' : ∀ x ∈ before ++ after, x.ident ≠ t'.ident := by rwa [ident]
    rw [applied]
    refine ⟨fun live fault => ?_, fun live isClear low => ?_, fun cleared high => ?_⟩
    · rw [State.ticketMove_stays (by rwa [state]) fault]
      rfl
    · rw [State.ticketMove_clears (by rwa [state]) isClear (by rw [hbase]; exact low),
        State.moveTicket_only (before := before) (after := after) rfl others', State.announceTicket, ident, line, latest,
        isClear, state, hbase]
      rfl
    · rw [State.ticketMove_reopens (by rwa [state]) (by rw [hbase]; exact high),
        State.moveTicket_only (before := before) (after := after) rfl others', State.announceTicket, ident, line, latest,
        state, cleared]
      rfl

end Sys2Proof.Machine

/-! SUPPORT. What the desk reads of line records and tickets, and what it does to tickets (O51, O53). -/

namespace Sys2Proof.Machine

variable {s : State}

/-! ## Line records (section 12.7) -/

theorem isHome_iff (s : State) (line : Nat) :
    s.isHome line = true ↔ s.straps.base ≤ line / 256 ∧ line / 256 < s.straps.base + s.straps.units := by
  unfold State.isHome Straps.firstLine
  rw [Bool.and_eq_true, decide_eq_true_eq, decide_eq_true_eq]
  simp only [Config.unitLines]
  omega

/-- The decay of R142 is one level and one stamp. -/
theorem decaysTo_unique {r : LineRecord} {minute period level stamp level' stamp' : Nat} (positive : 0 < period)
    (h : DecaysTo r minute period level stamp) (h' : DecaysTo r minute period level' stamp') :
    level = level' ∧ stamp = stamp' := by
  by_cases behind : minute < r.stamp
  · obtain ⟨hl, hs⟩ := h.1 behind
    obtain ⟨hl', hs'⟩ := h'.1 behind
    exact ⟨hl.trans hl'.symm, hs.trans hs'.symm⟩
  · have reached : r.stamp ≤ minute := Nat.le_of_not_lt behind
    have low : (minute - r.stamp) / period * period ≤ minute - r.stamp := Nat.div_mul_le_self _ _
    have high : minute - r.stamp < ((minute - r.stamp) / period + 1) * period := Nat.lt_mul_of_div_lt (by omega) positive
    obtain ⟨hl, some_, none_⟩ := h.2 _ reached low high
    obtain ⟨hl', some_', none_'⟩ := h'.2 _ reached low high
    have same : level = level' := hl.trans hl'.symm
    subst same
    refine ⟨rfl, ?_⟩
    rcases Nat.eq_zero_or_pos level with zero | left
    · exact (none_ zero).trans (none_' zero).symm
    · exact (some_ left).trans (some_' left).symm

theorem worstBytes_some (w : Resistance) :
    byte (worstForm (some w)) = if w.mark = .openLine then 3 else if w.mark = .atOrBelow then 2 else 1 := by
  obtain ⟨ohms, mark⟩ := w
  cases mark <;> rfl

theorem noWorst_bytes (rest : List Byte) :
    byte (worstForm none) :: (bytesOf 4 0 ++ rest) = 0 :: 0 :: 0 :: 0 :: 0 :: rest := rfl

theorem noLength_bytes (rest : List Byte) : flagByte false :: (bytesOf 2 0 ++ rest) = 0 :: 0 :: 0 :: rest := rfl

theorem flagByte_true : flagByte true = 1#8 := rfl

theorem verdictByte_none : byte (verdictCode none) = 0#8 := rfl

theorem verdictByte_some (v : Verdict) : byte (verdictCode (some v)) = byte v.code := rfl

/-- The record is laid out as section 12.7 has it, its bucket decayed on a copy (R148). -/
theorem lineRecordBytes_eq (line : Nat) (r : LineRecord) (minute period : Nat) :
    lineRecordBytes line r minute period
      = recordLayout line r (decayBucket r.level r.stamp minute period).1 (decayBucket r.level r.stamp minute period).2 := by
  unfold lineRecordBytes recordLayout
  dsimp only
  generalize decayBucket r.level r.stamp minute period = bucket
  obtain ⟨tested, verdict, time, tester, worst, length, level, stamp, ticket, pending, hazard, repetition, offset⟩ := r
  rw [optBytes_one, flagByte_eq, flagByte_eq, flagByte_eq]
  dsimp only
  cases worst with
  | none =>
    cases verdict <;> cases length <;>
      simp [optBytes, presentBytes, noWorst_bytes, noLength_bytes, flagByte_true, verdictByte_none, verdictByte_some]
  | some w =>
    cases verdict <;> cases length <;>
      simp [optBytes, presentBytes, worstBytes_some, noLength_bytes, flagByte_true, verdictByte_none, verdictByte_some]

theorem lineRecordBytes_length (line : Nat) (r : LineRecord) (minute period : Nat) :
    (lineRecordBytes line r minute period).length = 28 := by
  simp [lineRecordBytes]

theorem ticketBytes_length (place count : Nat) (t : Ticket) : (ticketBytes place count t).length = 25 := by
  simp [ticketBytes]

theorem cacheBytes_length (cache : List ForeignTicket) : (cacheBytes cache).length = 1 + 10 * cache.length := by
  have size : ∀ e, (foreignTicketBytes e).length = 10 := fun e => by simp [foreignTicketBytes]
  rw [cacheBytes, List.length_cons, length_flatMap_of size]
  omega

/-- An accepted answer with a body of fewer than 256 bytes (R209). -/
theorem State.answer_short {body : List Byte} {n : Nat} (size : body.length = n) (short : n < 256) (s : State) :
    s.answer .accepted body
      = s.setPort (some { response := [1, 0, byte n] ++ body, reading := .nothing, discarded := false }) := by
  have high : byte (n / 256) = 0 := by
    rw [Nat.div_eq_of_lt short]
    rfl
  rw [State.answer, State.answerWith, responseBytes, size, bytesOf_two, high]
  rfl

/-! ## Reads -/

theorem exec_readLineRecord {line : Nat} (takes : s.TakesCommands) (fits : line < 65536) :
    exec (.readLineRecord line) s = .next ((s.setPort none).readLine line) := by
  have formed : (Instr.readLineRecord line).wellFormed = true := by simpa [Instr.wellFormed, fits2] using fits
  simp only [exec, execReadLineRecord, Sys2Proof.Machine.formed, formed, if_true]
  rw [State.desk_takes takes]

theorem readLine_clauses (s : State) (line : Nat) :
    (s.records.clear.isSome = true → s.readLine line = s.reply .busy)
    ∧ (s.records.clear = none → (line / 256 < s.straps.base ∨ s.straps.base + s.straps.units ≤ line / 256) →
      s.readLine line = s.reply .notHome)
    ∧ ∀ level stamp, s.records.clear = none → s.straps.base ≤ line / 256 → line / 256 < s.straps.base + s.straps.units →
        0 < s.settings.decay → DecaysTo (s.recordOf line) (s.time.clock / 1000 / 60) s.settings.decay level stamp →
      s.readLine line
        = s.setPort
            (some
              { response := [1, 0, 28] ++ recordLayout line (s.recordOf line) level stamp
                reading := .nothing
                discarded := false }) := by
  refine ⟨fun clears => if_pos clears, fun clear away => ?_, fun level stamp clear low high positive decays => ?_⟩
  · have notHome : (!s.isHome line) = true := by
      rw [Bool.not_eq_true', Bool.eq_false_iff, Ne, isHome_iff]
      omega
    rw [State.readLine, if_neg (by simp [clear]), if_pos notHome]
  · have home : s.isHome line = true := (isHome_iff s line).mpr ⟨low, high⟩
    obtain ⟨hl, hs⟩ := decaysTo_unique positive decays (decayBucket_decaysTo _ _ _)
    rw [State.readLine, if_neg (by simp [clear]), if_neg (by simp [home]),
      State.answer_short (lineRecordBytes_length ..) (by decide), lineRecordBytes_eq, hl, hs]
    rfl

theorem nameTicket_clauses (s : State) (ident : Nat) :
    (s.records.clear.isSome = true → s.nameTicket ident = .error .busy)
    ∧ (s.records.clear = none → ident % 4096 = 0 → s.nameTicket ident = .error .badArgument)
    ∧ (s.records.clear = none → ident % 4096 ≠ 0 → ident / 4096 ≠ s.straps.station →
      s.nameTicket ident = .error .notHome)
    ∧ (s.records.clear = none → ident % 4096 ≠ 0 → ident / 4096 = s.straps.station →
      ((∀ t ∈ s.tickets.table, t.ident ≠ ident) → s.nameTicket ident = .error .unknownTag)
      ∧ ∀ (before after : List Ticket) (t : Ticket), s.tickets.table = before ++ t :: after → t.ident = ident →
        (∀ x ∈ before, x.ident ≠ ident) → s.nameTicket ident = .ok t) := by
  unfold State.nameTicket
  refine ⟨fun clears => if_pos clears, fun clear zero => ?_, fun clear some_ other => ?_, fun clear some_ own =>
    ⟨fun none_ => ?_, fun before after t table same others => ?_⟩⟩
  · rw [if_neg (by simp [clear]), if_pos zero]
  · rw [if_neg (by simp [clear]), if_neg some_, if_pos other]
  · rw [if_neg (by simp [clear]), if_neg some_, if_neg (not_not.mpr own), State.ticket?_none none_]
  · subst same
    rw [if_neg (by simp [clear]), if_neg some_, if_neg (not_not.mpr own), State.ticket?_only table others]

theorem State.placeOf_only {before after : List Ticket} {t : Ticket} (table : s.tickets.table = before ++ t :: after)
    (others : ∀ x ∈ before, x.ident ≠ t.ident) : s.placeOf t.ident = before.length := by
  rw [State.placeOf, table, List.findIdx_append, if_neg, List.findIdx_cons]
  · simp
  · rw [List.findIdx_lt_length]
    rintro ⟨x, mem, same⟩
    exact others x mem (by simpa using same)

theorem State.showTicket_eq (s : State) (place : Nat) (t : Ticket) :
    s.showTicket place t
      = s.setPort
          (some
            { response := [1, 0, 25] ++ ticketBytes place s.tickets.table.length t
              reading := .nothing
              discarded := false }) := by
  rw [State.showTicket, State.answer_short (ticketBytes_length ..) (by decide)]
  rfl

theorem exec_readTicketByIdent {ident : Nat} (takes : s.TakesCommands) (fits : ident < 65536) :
    exec (.readTicketByIdent ident) s = .next ((s.setPort none).readByIdent ident) := by
  have formed : (Instr.readTicketByIdent ident).wellFormed = true := by simpa [Instr.wellFormed, fits2] using fits
  simp only [exec, execReadTicketByIdent, Sys2Proof.Machine.formed, formed, if_true]
  rw [State.desk_takes takes]

theorem State.readByIdent_refused {ident : Nat} {r : Response} (h : s.nameTicket ident = .error r) :
    s.readByIdent ident = s.reply r := by
  rw [State.readByIdent, h]

theorem State.readByIdent_shows {ident : Nat} {t : Ticket} (h : s.nameTicket ident = .ok t) :
    s.readByIdent ident = s.showTicket (s.placeOf ident) t := by
  rw [State.readByIdent, h]

theorem exec_readTicketByPlace {place : Nat} (takes : s.TakesCommands) (fits : place < 256) :
    exec (.readTicketByPlace place) s = .next ((s.setPort none).readByPlace place) := by
  have formed : (Instr.readTicketByPlace place).wellFormed = true := by simpa [Instr.wellFormed, fits1] using fits
  simp only [exec, execReadTicketByPlace, Sys2Proof.Machine.formed, formed, if_true]
  rw [State.desk_takes takes]

theorem readByPlace_clauses (s : State) (place : Nat) :
    (s.records.clear.isSome = true → s.readByPlace place = s.reply .busy)
    ∧ (s.records.clear = none → 127 < place → s.readByPlace place = s.reply .badArgument)
    ∧ (s.records.clear = none → place ≤ 127 → s.tickets.table.length ≤ place → s.readByPlace place = s.reply .empty)
    ∧ (s.records.clear = none → ∀ (before after : List Ticket) (t : Ticket), place ≤ 127 →
        s.tickets.table = before ++ t :: after → before.length = place → s.readByPlace place = s.showTicket place t) := by
  unfold State.readByPlace
  refine ⟨fun clears => if_pos clears, fun clear past => ?_, fun clear within beyond => ?_,
    fun clear before after t within table length => ?_⟩
  · rw [if_neg (by simp [clear]), if_pos past]
  · rw [if_neg (by simp [clear]), if_neg (Nat.not_lt.mpr within), List.getElem?_eq_none beyond]
  · have found : s.tickets.table[place]? = some t := by rw [table, ← length]; simp
    rw [if_neg (by simp [clear]), if_neg (Nat.not_lt.mpr within), found]

theorem readCache_answers (s : State) :
    s.answer .accepted (cacheBytes s.tickets.cache)
      = s.setPort
          (some
            { response :=
                [1, byte ((1 + 10 * s.tickets.cache.length) / 256), byte (1 + 10 * s.tickets.cache.length),
                  byte s.tickets.cache.length]
                  ++ s.tickets.cache.flatMap foreignTicketBytes
              reading := .nothing
              discarded := false }) := by
  rw [State.answer, State.answerWith, responseBytes, cacheBytes_length, bytesOf_two]
  rfl

/-- Settles O51. -/
theorem storesAreReadWithoutChange : Obligations.StoresAreReadWithoutChange := by
  intro s takes
  refine ⟨fun line fits => ?_, fun ident fits => ?_, fun place fits => ?_, fun clears => ?_, fun clear _ => ?_⟩
  · rw [exec_readLineRecord takes fits]
    obtain ⟨busy, notHome, reads⟩ := readLine_clauses (s.setPort none) line
    refine ⟨fun clears => ?_, fun clear away => ?_, fun level stamp clear low high positive decays => ?_⟩
    · rw [busy (by exact clears)]
      rfl
    · rw [notHome (by exact clear) (by exact away)]
      rfl
    · rw [reads level stamp (by exact clear) (by exact low) (by exact high) (by exact positive) (by exact decays)]
      rfl
  · rw [exec_readTicketByIdent takes fits]
    obtain ⟨busy, badArgument, notHome, named⟩ := nameTicket_clauses (s.setPort none) ident
    refine ⟨fun clears => ?_, fun clear => ⟨fun zero => ?_, fun some_ other => ?_, fun some_ own none_ => ?_,
      fun before after t some_ own table same others => ?_⟩⟩
    · rw [State.readByIdent_refused (busy clears)]
      rfl
    · rw [State.readByIdent_refused (badArgument clear zero)]
      rfl
    · rw [State.readByIdent_refused (notHome clear some_ other)]
      rfl
    · rw [State.readByIdent_refused ((named clear some_ own).1 none_)]
      rfl
    · rw [State.readByIdent_shows ((named clear some_ own).2 before after t table same others), ← same,
        State.placeOf_only (s := s.setPort none) table (by rwa [same]), State.showTicket_eq]
      rfl
  · rw [exec_readTicketByPlace takes fits]
    obtain ⟨busy, badArgument, empty, shows⟩ := readByPlace_clauses (s.setPort none) place
    refine ⟨fun clears => ?_, fun clear => ⟨fun past => ?_, fun within beyond => ?_,
      fun before after t within table length => ?_⟩⟩
    · rw [busy clears]
      rfl
    · rw [badArgument clear past]
      rfl
    · rw [empty clear within beyond]
      rfl
    · rw [shows clear before after t within table length, State.showTicket_eq]
      rfl
  · simp only [exec, execReadForeignTickets]
    rw [State.desk_takes takes, State.readCache, if_pos (by exact clears)]
    rfl
  · simp only [exec, execReadForeignTickets]
    rw [State.desk_takes takes, State.readCache, if_neg (by simp [clear]), readCache_answers]
    rfl

/-! ## ASSIGN TICKET, CLOSE TICKET and the clear-hold deadline (R161, R163, R164) -/

section Changes
variable {before after : List Ticket} {t : Ticket}

theorem State.moveTicket_moved (table : s.tickets.table = before ++ t :: after)
    (others : ∀ x ∈ before ++ after, x.ident ≠ t.ident) {f : Ticket → Ticket} {t' : Ticket} (moved : f t = t')
    (ident : t'.ident = t.ident) (line : t'.line = t.line) (cause : TicketCause) :
    s.moveTicket t f cause = ticketMoved s before after t t' cause := by
  rw [State.moveTicket_only table others, moved, State.announceTicket, ident, line]
  rfl

theorem State.shutTicket_moved (table : s.tickets.table = before ++ t :: after)
    (others : ∀ x ∈ before ++ after, x.ident ≠ t.ident) (cause : TicketCause) :
    s.shutTicket t cause
      = ticketMoved
          { s with
            records :=
              { s.records with
                table := putRecord s.records.table t.line { s.recordOf t.line with ticket := none } } }
          before after t (closedTicket t (s.time.clock / 1000) cause) cause :=
  State.moveTicket_moved (s := s.setRecord t.line { s.recordOf t.line with ticket := none }) table others rfl rfl rfl _

theorem exec_assignTicket {ident : Nat} (takes : s.TakesCommands) (fits : ident < 65536) :
    exec (.assignTicket ident) s = .next ((s.setPort none).assign ident) := by
  have formed : (Instr.assignTicket ident).wellFormed = true := by simpa [Instr.wellFormed, fits2] using fits
  simp only [exec, execAssignTicket, Sys2Proof.Machine.formed, formed, if_true]
  rw [State.desk_takes takes]

theorem exec_closeTicket {ident : Nat} (takes : s.TakesCommands) (fits : ident < 65536) :
    exec (.closeTicket ident) s = .next ((s.setPort none).closeByDesk ident) := by
  have formed : (Instr.closeTicket ident).wellFormed = true := by simpa [Instr.wellFormed, fits2] using fits
  simp only [exec, execCloseTicket, Sys2Proof.Machine.formed, formed, if_true]
  rw [State.desk_takes takes]

theorem State.assign_named {ident : Nat} (h : s.nameTicket ident = .ok t) :
    s.assign ident
      = if t.state = .opened then
          (s.moveTicket t (fun t => { t with state := .held, changedAt := s.clockSec }) .assign).reply .accepted
        else s.reply .state := by
  rw [State.assign, h]

theorem State.closeByDesk_named {ident : Nat} (h : s.nameTicket ident = .ok t) :
    s.closeByDesk ident = if t.state = .closed then s.reply .state else (s.shutTicket t .desk).reply .accepted := by
  rw [State.closeByDesk, h]

/-- A command that changes a ticket is refused as the naming of the ticket is (R163). -/
theorem exec_ticketRefused {ident : Nat} {c : Instr} {r : Response} (takes : s.TakesCommands) (fits : ident < 65536)
    (hc : c = .assignTicket ident ∨ c = .closeTicket ident) (h : (s.setPort none).nameTicket ident = .error r) :
    exec c s = .next { s with port := plainResponse r } := by
  rcases hc with rfl | rfl
  · rw [exec_assignTicket takes fits, State.assign, h]
    rfl
  · rw [exec_closeTicket takes fits, State.closeByDesk, h]
    rfl

theorem exec_clearHoldDeadline {deadline : Nat} (fits : t.ident < 65536) (found : s.ticket? t.ident = some t)
    (cleared : t.state = .cleared) (due : t.deadline = some deadline) :
    exec (.clearHoldDeadline t.ident) s = .next (s.atClock (deadline * 1000) (fun s => s.shutTicket t .auto)) := by
  have formed : (Instr.clearHoldDeadline t.ident).wellFormed = true := by simpa [Instr.wellFormed, fits2] using fits
  have held : s.clearHoldOf t.ident = some (t, deadline * 1000) := by
    rw [State.clearHoldOf, found]
    dsimp only
    rw [if_pos cleared, due]
    rfl
  simp only [exec, execClearHoldDeadline, Sys2Proof.Machine.formed, formed, if_true]
  rw [held]

end Changes

/-- Settles O53. -/
theorem ticketsAreAssignedAndClosed : Obligations.TicketsAreAssignedAndClosed := by
  refine ⟨fun s before after t table others fits =>
      ⟨fun takes clear some_ own => ?_, fun deadline u h cleared due reached hu => ?_⟩,
    fun s i c hc takes fits => ?_⟩
  · have named : (s.setPort none).nameTicket t.ident = .ok t :=
      ((nameTicket_clauses (s.setPort none) t.ident).2.2.2 clear some_ own).2 before after t table rfl
        fun x mem => others x (List.mem_append_left _ mem)
    rw [exec_assignTicket takes fits, exec_closeTicket takes fits, State.assign_named named,
      State.closeByDesk_named named]
    refine ⟨fun opened => ?_, fun other => ?_, fun live => ?_, fun closed => ?_⟩
    · rw [if_pos opened, State.moveTicket_moved (s := s.setPort none) table others rfl rfl rfl]
      rfl
    · rw [if_neg other]
      rfl
    · rw [if_neg live, State.shutTicket_moved (s := s.setPort none) table others]
      rfl
    · rw [if_pos closed]
      rfl
  · obtain ⟨x, passed⟩ := State.passClockTo_eq h (deadline * 1000)
    rw [exec_clearHoldDeadline fits (State.ticket?_only table fun x mem => others x (List.mem_append_left _ mem)) cleared due,
      State.atClock_reaches h reached, hu, passed, State.shutTicket_moved (s := s.setTime x) table others]
    rfl
  · obtain ⟨busy, badArgument, notHome, named⟩ := nameTicket_clauses (s.setPort none) i
    exact ⟨fun clears => exec_ticketRefused takes fits hc (busy clears),
      fun clear zero => exec_ticketRefused takes fits hc (badArgument clear zero),
      fun clear some_ other => exec_ticketRefused takes fits hc (notHome clear some_ other),
      fun clear some_ own none_ => exec_ticketRefused takes fits hc ((named clear some_ own).1 none_)⟩

end Sys2Proof.Machine

/-! SUPPORT. Sweep classes and the clear of the line records (O52). -/

namespace Sys2Proof.Machine

variable {s : State}

/-! ## What a table of line records looks up -/

theorem lookRecord_absent {t : List (Nat × LineRecord)} {n : Nat} (absent : ∀ e ∈ t, e.1 ≠ n) :
    lookRecord t n = LineRecord.powerOn := by
  induction t with
  | nil => rfl
  | cons e t ih =>
    obtain ⟨k, x⟩ := e
    rw [lookRecord, if_neg (absent _ List.mem_cons_self)]
    exact ih fun e he => absent e (List.mem_cons_of_mem _ he)

/-- A change of every record that leaves an unlisted one as it is changes what is looked up. -/
theorem lookRecord_mapRecords {f : Nat → LineRecord → LineRecord} (keeps : ∀ n, f n LineRecord.powerOn = LineRecord.powerOn)
    {t : List (Nat × LineRecord)} (h : recordsWf t = true) (n : Nat) :
    lookRecord (mapRecords f t) n = f n (lookRecord t n) := by
  induction t with
  | nil => exact (keeps n).symm
  | cons e t ih =>
    obtain ⟨k, x⟩ := e
    rw [recordsWf, Bool.and_eq_true, Bool.and_eq_true, List.all_eq_true] at h
    obtain ⟨⟨-, rising⟩, rest⟩ := h
    have after : lookRecord t k = LineRecord.powerOn :=
      lookRecord_absent fun e he => Nat.ne_of_gt (by simpa using rising e he)
    have mapped : mapRecords f ((k, x) :: t)
        = if f k x = LineRecord.powerOn then mapRecords f t else (k, f k x) :: mapRecords f t := by
      unfold mapRecords
      rw [List.map_cons, List.filter_cons]
      by_cases gone : f k x = LineRecord.powerOn <;> simp [gone]
    rw [mapped, lookRecord]
    by_cases same : k = n
    · subst same
      rw [if_pos rfl]
      split
      · rename_i gone
        rw [ih rest, after, keeps, gone]
      · rw [lookRecord, if_pos rfl]
    · rw [if_neg same, ← ih rest]
      split
      · rfl
      · rw [lookRecord, if_neg same]

/-! ## SET LINE CLASS (R147) -/

/-- The class of a run of lines is set and nothing else of any record changes. -/
theorem State.setClass_spec (h : recordsWf s.records.table = true) (first count repetition offset : Nat) :
    ∃ table, s.setClass first count repetition offset = s.setRecords { s.records with table := table }
      ∧ recordsWf table = true
      ∧ ∀ line, lookRecord table line
          = if first ≤ line ∧ line < first + count then
              { s.recordOf line with repetition := repetition, offset := offset }
            else s.recordOf line := by
  induction count with
  | zero =>
    refine ⟨s.records.table, rfl, h, fun line => ?_⟩
    rw [if_neg (by omega)]
    rfl
  | succ n ih =>
    obtain ⟨table, done, wf, looks⟩ := ih
    have here : lookRecord table (first + n) = s.recordOf (first + n) := (looks _).trans (if_neg (by omega))
    refine ⟨putRecord table (first + n) { s.recordOf (first + n) with repetition := repetition, offset := offset }, ?_,
      putRecord_wf _ _ _ wf, fun line => ?_⟩
    · rw [State.setClass] at done ⊢
      rw [List.range_succ, List.foldl_append, done, List.foldl_cons, List.foldl_nil, State.setRecord, State.recordOf]
      simp only [State.setRecords_records, here]
      rfl
    · rw [lookRecord_putRecord _ _ _ _ wf, looks]
      by_cases last : line = first + n
      · subst last
        rw [if_pos rfl, if_pos (by omega)]
      · rw [if_neg last]
        by_cases inside : first ≤ line ∧ line < first + n
        · rw [if_pos inside, if_pos (by omega)]
        · rw [if_neg inside, if_neg (by omega)]

theorem classOk_iff {repetition offset : Nat} :
    classOk repetition offset = true
      ↔ repetition = 0 ∧ offset = 0 ∨ repetition ∈ [1, 2, 4, 8, 16, 32, 64] ∧ offset < repetition := by
  unfold classOk
  by_cases zero : repetition = 0
  · simp [zero]
  · simp [zero]

theorem exec_setLineClass {first count repetition offset : Nat} (takes : s.TakesCommands) (hf : first < 65536)
    (hc : count < 65536) (hr : repetition < 256) (ho : offset < 256) :
    exec (.setLineClass first count repetition offset) s
      = .next ((s.setPort none).lineClass first count repetition offset) := by
  have formed : (Instr.setLineClass first count repetition offset).wellFormed = true := by
    simpa [Instr.wellFormed, fits1, fits2] using ⟨⟨⟨hf, hc⟩, hr⟩, ho⟩
  simp only [exec, execSetLineClass, Sys2Proof.Machine.formed, formed, if_true]
  rw [State.desk_takes takes]

theorem lineClass_clauses (s : State) (first count repetition offset : Nat) {good home : Prop}
    (hgood : good =
      ((1 ≤ count ∧ count ≤ 4096)
        ∧ (repetition = 0 ∧ offset = 0 ∨ repetition ∈ [1, 2, 4, 8, 16, 32, 64] ∧ offset < repetition)))
    (hhome : home =
      (s.straps.base ≤ first / 256 ∧ (first + count - 1) / 256 < s.straps.base + s.straps.units)) :
    (s.records.clear.isSome = true → s.lineClass first count repetition offset = s.reply .busy)
    ∧ (s.records.clear = none → ¬ good → s.lineClass first count repetition offset = s.reply .badArgument)
    ∧ (s.records.clear = none → good → ¬ home → s.lineClass first count repetition offset = s.reply .notHome)
    ∧ (s.records.clear = none → good → home →
      s.lineClass first count repetition offset = (s.setClass first count repetition offset).reply .accepted) := by
  have checks : (decide (1 ≤ count) && decide (count ≤ 4096) && classOk repetition offset) = true ↔ good := by
    rw [hgood, Bool.and_eq_true, Bool.and_eq_true, decide_eq_true_eq, decide_eq_true_eq, classOk_iff]
  have homes : good → ((s.isHome first && s.isHome (first + count - 1)) = true ↔ home) := by
    intro ok
    rw [hgood] at ok
    rw [hhome, Bool.and_eq_true, isHome_iff, isHome_iff]
    omega
  unfold State.lineClass
  refine ⟨fun clears => if_pos clears, fun clear bad => ?_, fun clear ok away => ?_, fun clear ok at_ => ?_⟩
  · rw [if_neg (by simp [clear]), if_pos (by rw [Bool.not_eq_true', Bool.eq_false_iff]; exact checks.not.mpr bad)]
  · rw [if_neg (by simp [clear]), checks.mpr ok, if_neg (by decide),
      if_pos (by rw [Bool.not_eq_true', Bool.eq_false_iff]; exact (homes ok).not.mpr away)]
  · rw [if_neg (by simp [clear]), checks.mpr ok, if_neg (by decide), (homes ok).mpr at_, if_neg (by decide)]

/-! ## CLEAR RECORDS (R149, R150) -/

theorem State.clearAll_busy
    (h : s.records.clear.isSome = true ∨ s.sweep.state ≠ .stopped ∨ s.seq.active ≠ .empty ∨ s.seq.staged ≠ .empty) :
    s.clearAll = s.reply .busy := by
  refine if_neg ?_
  rintro ⟨clear, stopped, active, staged⟩
  rcases h with h | h | h | h
  · rw [Option.isNone_iff_eq_none.mp clear] at h
    cases h
  · exact h stopped
  · exact h active
  · exact h staged

theorem State.clearAll_begins (clear : s.records.clear = none) (stopped : s.sweep.state = .stopped)
    (active : s.seq.active = .empty) (staged : s.seq.staged = .empty) :
    s.clearAll = s.beginClear.reply .accepted :=
  if_pos ⟨by rw [clear]; rfl, stopped, active, staged⟩

/-- Settles O52. -/
theorem classesAreSetAndRecordsCleared : Obligations.ClassesAreSetAndRecordsCleared := by
  intro s wf
  refine ⟨fun first count repetition offset takes hf hc hr ho c hinstr good hgood home hhome => ?_, fun takes => ?_,
    fun done clears => ?_⟩
  · subst hinstr
    rw [exec_setLineClass takes hf hc hr ho]
    obtain ⟨busy, bad, away, sets⟩ := lineClass_clauses (s.setPort none) first count repetition offset hgood hhome
    refine ⟨fun clears => ?_, fun clear notGood => ?_, fun clear ok notHome => ?_, fun clear ok at_ => ?_⟩
    · rw [busy clears]
      rfl
    · rw [bad clear notGood]
      rfl
    · rw [away clear ok notHome]
      rfl
    · obtain ⟨table, done, -, looks⟩ :=
        State.setClass_spec (s := s.setPort none) wf first count repetition offset
      refine ⟨table, ?_, looks⟩
      rw [sets clear ok at_, done]
      rfl
  · simp only [exec, execClearRecords]
    rw [State.desk_takes takes]
    refine ⟨fun h => ?_, fun clear stopped active staged => ?_⟩
    · rw [State.clearAll_busy (by exact h)]
      rfl
    · refine ⟨mapRecords (fun _ r => r.ticketless) s.records.table, ?_, fun line => ?_⟩
      · rw [State.clearAll_begins (by exact clear) (by exact stopped) (by exact active) (by exact staged)]
        rfl
      · rw [lookRecord_mapRecords (fun _ => rfl) wf]
        rfl
  · refine ⟨clearUnit (s.straps.base + done) s.records.table, ?_, fun line => ?_⟩
    · simp only [exec, execClearUnitStep]
      rw [clears]
      rfl
    · rw [clearUnit, lookRecord_mapRecords (fun n => ?_) wf]
      · rfl
      · split <;> rfl

end Sys2Proof.Machine

/-! SUPPORT. The sweep's times, its outcomes and its commands (O54, O55). -/

namespace Sys2Proof.Machine

variable {s t q : State}

/-! ## Falling due (R176, R184) -/

theorem foldl_earlierOverdue_isSome (l : List Ticket) {best : Option Ticket}
    (h : best.isSome = true ∨ ∃ x ∈ l, s.overdue x = true) : (l.foldl (earlierOverdue s) best).isSome = true := by
  induction l generalizing best with
  | nil => exact h.resolve_right (by simp)
  | cons y l ih =>
    refine ih ?_
    by_cases overdue : s.overdue y = true
    · refine .inl ?_
      unfold earlierOverdue
      rw [if_pos overdue]
      cases best with
      | none => rfl
      | some b => dsimp only; split <;> rfl
    · have stands : earlierOverdue s best y = best := by
        unfold earlierOverdue
        exact if_neg overdue
      rw [stands]
      rcases h with some_ | ⟨x, mem, is⟩
      · exact .inl some_
      · rcases List.mem_cons.mp mem with rfl | mem
        · exact absurd is overdue
        · exact .inr ⟨x, mem, is⟩

theorem State.overdueTicket_isSome (h : ∃ x ∈ s.tickets.table, ∃ m, x.retestDue = some m ∧ m ≤ s.time.clock / 1000) :
    s.overdueTicket.isSome = true := by
  obtain ⟨x, mem, due⟩ := h
  rw [s.overdueTicket_eq]
  exact foldl_earlierOverdue_isSome _ (.inr ⟨x, mem, (s.overdue_iff x).mpr due⟩)

theorem State.sweepFallsDue_interval {d : Nat} (interval : s.sweep.state = .interval) (due : s.sweep.due = some d) :
    s.sweepFallsDue = s.seek := by
  unfold State.sweepFallsDue
  rw [interval, due]

theorem State.sweepFallsDue_halted {d : Nat} (halted : s.sweep.state = .haltedComplete) (due : s.sweep.due = some d)
    (offer : s.sweep.offer = false) (notIn : s.sweepInSlot = false) :
    s.sweepFallsDue
      = if s.overdueTicket.isSome then s.setSweep { s.sweep with offer := true, guardPassed := false }
        else s.setSweep { s.sweep with due := some (d + s.sweep.interval * 1000) } := by
  unfold State.sweepFallsDue
  rw [halted, due]
  dsimp only
  rw [if_neg (by simp [offer, notIn])]

theorem exec_sweepDue {d : Nat} (awaited : s.dueAwaited = some d) (h : s.time.InRange) (reached : d ≤ 4294967295000) :
    exec .sweepDue s = .next (s.passClockTo d).sweepFallsDue := by
  simp only [exec, execSweepDue]
  rw [awaited]
  dsimp only
  rw [State.atClock_reaches h reached]

theorem exec_sweepGuard {d : Nat} (offer : s.sweep.offer = true) (guardPassed : s.sweep.guardPassed = false)
    (due : s.sweep.due = some d) (h : s.time.InRange) (reached : d + s.settings.guard * 1000 ≤ 4294967295000) :
    exec .sweepGuard s = .next (s.passClockTo (d + s.settings.guard * 1000)).passGuard := by
  have awaited : s.guardAwaited = some (d + s.settings.guard * 1000) := by
    rw [State.guardAwaited, offer, guardPassed, due]
    rfl
  simp only [exec, execSweepGuard]
  rw [awaited]
  dsimp only
  rw [State.atClock_reaches h reached]

/-- Settles O54. -/
theorem sweepFallsDueByTheClock : Obligations.SweepFallsDueByTheClock := by
  intro s d h due
  refine ⟨fun t reached ht => ?_, fun reached offer guardPassed => ?_⟩
  · obtain ⟨x, passed⟩ := State.passClockTo_eq h d
    have same : t = s.setTime x := ht.trans passed
    refine ⟨fun interval => ?_, fun halted offer notIn => ?_⟩
    · rw [exec_sweepDue (by rw [State.dueAwaited, interval, due]) h reached, ← ht,
        State.sweepFallsDue_interval (d := d) (by rw [same]; exact interval) (by rw [same]; exact due), State.seek, same]
      rfl
    · have awaited : s.dueAwaited = some d := by
        rw [State.dueAwaited, halted]
        exact (if_neg (by simp [offer, notIn])).trans due
      rw [exec_sweepDue awaited h reached, ← ht,
        State.sweepFallsDue_halted (d := d) (by rw [same]; exact halted) (by rw [same]; exact due)
          (by rw [same]; exact offer) (by rw [same]; exact notIn)]
      have tickets : t.tickets = s.tickets := by rw [same]; rfl
      refine ⟨fun some_ => ?_, fun none_ => ?_⟩
      · rw [if_pos (State.overdueTicket_isSome (by rw [tickets]; exact some_)), same]
        rfl
      · rw [State.overdueTicket_none (by rw [NoneOverdue, tickets]; exact fun x mem m due => none_ x mem m due),
          if_neg (by simp), same]
        rfl
  · obtain ⟨x, passed⟩ := State.passClockTo_eq h (d + s.settings.guard * 1000)
    rw [exec_sweepGuard offer guardPassed due h reached, passed]
    rfl

end Sys2Proof.Machine

/-! SUPPORT. The outcomes of sweep jobs and the sweep commands (O55). -/

namespace Sys2Proof.Machine

variable {s t q : State}

/-! ## The outcome of a sweep job -/

theorem State.stopSweep_eq (s : State) (cause : SweepCause) : s.stopSweep cause = sweepMoved s (stoppedSweep s.sweep) cause := rfl

theorem State.seekOrWait_due {d : Nat} (due : s.sweep.due = some d) :
    s.seekOrWait
      = { s with
          sweep :=
            { s.sweep with
              state := if d ≤ s.time.clock then .seeking else .interval
              offer := decide (d ≤ s.time.clock)
              guardPassed := false } } := by
  rw [State.seekOrWait, due]
  by_cases reached : d ≤ s.time.clock
  · rw [if_pos (by simpa using reached), if_pos reached, decide_eq_true reached]
    rfl
  · rw [if_neg (by simpa using reached), if_neg reached, decide_eq_false reached]
    rfl

/-- How a running sweep goes on (R177, R185, R187). -/
theorem sweepGoesOn_sweepGoOn (running : q.sweep.state ≠ .haltedComplete ∧ q.sweep.state ≠ .haltedError) :
    SweepGoesOn q q.sweepGoOn := by
  have notHalted : ¬ (q.sweep.state = .haltedComplete ∨ q.sweep.state = .haltedError) := not_or.mpr running
  refine ⟨fun stop => ?_, fun noStop once => ?_, fun d noStop notOnce due => ?_⟩
  · rw [State.sweepGoOn, if_pos stop, State.stopSweep_eq]
  · rw [State.sweepGoOn, if_neg (by simp [noStop]), if_neg notHalted, if_pos once, State.stopSweep_eq]
  · rw [State.sweepGoOn, if_neg (by simp [noStop]), if_neg notHalted, if_neg (by simp [notOnce]), State.seekOrWait_due due]

theorem sweepGoOn_halted (halted : q.sweep.state = .haltedComplete) :
    q.sweepGoOn = if q.sweep.stopPending = true then sweepMoved q (stoppedSweep q.sweep) .stop else q := by
  rw [State.sweepGoOn]
  split
  · rfl
  · rw [if_pos (.inl halted)]

theorem sweepWrapped_notHalted (h : q.sweep.onComplete = false ∨ q.sweep.once = true ∨ q.sweep.stopPending = true) :
    (sweepWrapped q).haltIfComplete = sweepWrapped q := by
  have same : (sweepWrapped q).sweep.onComplete = q.sweep.onComplete ∧ (sweepWrapped q).sweep.once = q.sweep.once
      ∧ (sweepWrapped q).sweep.stopPending = q.sweep.stopPending := ⟨rfl, rfl, rfl⟩
  obtain ⟨onComplete, once, stop⟩ := same
  rw [State.haltIfComplete, if_neg]
  rw [onComplete, once, stop]
  rcases h with h | h | h <;> simp [h]

/-- The pointer advances and the sweep goes on (R177, R180, R181, R184). -/
theorem sweepAdvances_stepPointer (testing : q.sweep.state = .testing) : SweepAdvances q q.stepPointer.sweepGoOn := by
  refine ⟨fun inside => ?_, fun last => ⟨fun onComplete once stop => ?_, fun h => ?_⟩⟩
  · rw [State.stepPointer_inside inside]
    exact sweepGoesOn_sweepGoOn
      (q := { q with sweep := { q.sweep with pointer := q.sweep.pointer + 1 } }) (by simp [testing])
  · rw [State.stepPointer, if_pos last, State.wrapPass_eq, sweepWrapped_halts onComplete once stop, sweepGoOn_halted,
      if_neg]
    · simp [sweepMoved, show (sweepWrapped q).sweep.stopPending = false from stop]
    · simp [sweepMoved]
  · rw [State.stepPointer, if_pos last, State.wrapPass_eq, sweepWrapped_notHalted h]
    refine sweepGoesOn_sweepGoOn ?_
    change q.sweep.state ≠ _ ∧ q.sweep.state ≠ _
    simp [testing]

/-- The state after the SWEEP_RESULT report of a verdict (R188). -/
theorem postSweepResult_sweep (s : State) (info : SweepInfo) (line : Nat) (v : Option Verdict) :
    (s.postSweepResult info line v).sweep = s.sweep := by
  unfold State.postSweepResult
  (repeat' split) <;> simp

section Outcome
variable {info : SweepInfo} {line : Nat} {v : Option Verdict} {status : EndStatus}

theorem sweepOutcome_retest (retest : info.retest = true) (hq : q = s.postSweepResult info line v) :
    s.sweepOutcome info line v status
      = (if v.isNone ∧ q.sweep.state ≠ .haltedComplete then q.setSweep { q.sweep with pointerOwed := true } else q).sweepGoOn := by
  rw [State.sweepOutcome, ← hq]
  exact if_pos retest

theorem sweepOutcome_test (test : info.retest = false) (hq : q = s.postSweepResult info line v) :
    s.sweepOutcome info line v status
      = if q.errorHalts v then
          (q.setSweep { q.sweep with state := .haltedError, due := none, offer := false, guardPassed := false }).postSweep
            .errorHalt
        else (q.pointerOutcome v status).sweepGoOn := by
  rw [State.sweepOutcome, ← hq]
  exact if_neg (by simp [test])

theorem errorHalts_iff {k : Verdict} :
    q.errorHalts (some k) = true
      ↔ q.sweep.onError = true ∧ q.sweep.once = false ∧ q.sweep.stopPending = false ∧ k ≠ .clear ∧ k ≠ .marginal := by
  simp [State.errorHalts, and_assoc]

theorem pointerOutcome_verdict {k : Verdict} : q.pointerOutcome (some k) status = q.stepPointer := rfl

theorem pointerOutcome_skips (h : status ∈ [EndStatus.lineBusy, .unitDown, .accessFault, .releaseFault]) :
    q.pointerOutcome none status = q.countSkip.stepPointer := by
  simp only [List.mem_cons, List.not_mem_nil, or_false] at h
  rcases h with rfl | rfl | rfl | rfl <;> rfl

theorem pointerOutcome_stands (h : status ∈ [EndStatus.yielded, .noBus, .accessLost, .stationIsolated]) :
    q.pointerOutcome none status = q := by
  simp only [List.mem_cons, List.not_mem_nil, or_false] at h
  rcases h with rfl | rfl | rfl | rfl <;> rfl

theorem sweepOutcome_clauses (hq : q = s.postSweepResult info line v) :
    (info.retest = true →
      (s.sweep.state = .testing →
        SweepGoesOn { q with sweep := { s.sweep with pointerOwed := s.sweep.pointerOwed || v.isNone } }
          (s.sweepOutcome info line v status))
      ∧ (s.sweep.state = .haltedComplete →
        s.sweepOutcome info line v status =
          if s.sweep.stopPending = true then sweepMoved q (stoppedSweep s.sweep) .stop else q))
    ∧ (s.sweep.state = .testing → info.retest = false →
      (∀ k, v = some k →
        (s.sweep.onError = true → s.sweep.once = false → s.sweep.stopPending = false → k ≠ .clear → k ≠ .marginal →
          s.sweepOutcome info line v status =
            sweepMoved q
              { s.sweep with state := .haltedError, due := none, offer := false, guardPassed := false } .errorHalt)
        ∧ ((s.sweep.onError = false ∨ s.sweep.once = true ∨ s.sweep.stopPending = true ∨ k = .clear ∨ k = .marginal) →
          SweepAdvances q (s.sweepOutcome info line v status)))
      ∧ (v = none →
        (status ∈ [.lineBusy, .unitDown, .accessFault, .releaseFault] →
          SweepAdvances { s with sweep := { s.sweep with skip := s.sweep.skip + 1 } }
            (s.sweepOutcome info line v status))
        ∧ (status ∈ [.yielded, .noBus, .accessLost, .stationIsolated] →
          SweepGoesOn s (s.sweepOutcome info line v status)))) := by
  have sweep : q.sweep = s.sweep := by rw [hq, postSweepResult_sweep]
  refine ⟨fun retest => ⟨fun testing => ?_, fun halted => ?_⟩, fun testing test => ⟨fun k hv => ⟨?_, ?_⟩, fun hv => ?_⟩⟩
  · have owed : (if v.isNone ∧ q.sweep.state ≠ .haltedComplete then q.setSweep { q.sweep with pointerOwed := true } else q)
        = { q with sweep := { s.sweep with pointerOwed := s.sweep.pointerOwed || v.isNone } } := by
      cases v with
      | none =>
        rw [if_pos ⟨rfl, by rw [sweep, testing]; decide⟩, sweep]
        simp [State.setSweep]
      | some k =>
        rw [if_neg (by simp), ← sweep]
        simp
    rw [sweepOutcome_retest retest hq, owed]
    exact sweepGoesOn_sweepGoOn (by simp [testing])
  · rw [sweepOutcome_retest retest hq, if_neg (by simp [sweep, halted]), sweepGoOn_halted (by rw [sweep, halted]), sweep]
  · intro onError once stop notClear notMarginal
    have halts : q.errorHalts v = true := by
      rw [hv, errorHalts_iff, sweep]
      exact ⟨onError, once, stop, notClear, notMarginal⟩
    rw [sweepOutcome_test test hq, if_pos halts, sweep]
    rfl
  · intro h
    have goes : ¬ q.errorHalts v = true := by
      rw [hv, errorHalts_iff, sweep]
      rintro ⟨onError, once, stop, notClear, notMarginal⟩
      rcases h with h | h | h | h | h <;> simp_all
    rw [sweepOutcome_test test hq, if_neg goes, hv, pointerOutcome_verdict]
    exact sweepAdvances_stepPointer (by rw [sweep, testing])
  · have same : q = s := by rw [hq, hv]; rfl
    have goes : ¬ q.errorHalts v = true := by simp [State.errorHalts, hv]
    rw [sweepOutcome_test test hq, if_neg goes, hv, same]
    refine ⟨fun skips => ?_, fun stands => ?_⟩
    · rw [pointerOutcome_skips skips]
      exact sweepAdvances_stepPointer (q := s.countSkip) testing
    · rw [pointerOutcome_stands stands]
      exact sweepGoesOn_sweepGoOn (by simp [testing])

end Outcome

/-! ## SWEEP START (R175) -/

variable {r : SweepStartRecord}

theorem exec_sweepStart (formed : r.wellFormed = true) (takes : s.TakesCommands) :
    exec (.sweepStart r) s = .next ((s.setPort none).sweepStart r) := by
  have formed' : (Instr.sweepStart r).wellFormed = true := formed
  simp only [exec, execSweepStart, Sys2Proof.Machine.formed, formed', if_true]
  rw [State.desk_takes takes]

theorem startLine_none (h : r.start = 65535) : startLine r = none := if_pos h

theorem startLine_some (h : r.start ≠ 65535) : startLine r = some r.start := if_neg h

theorem sweepStart_clauses (s : State) (r : SweepStartRecord) :
    (s.records.clear.isSome = true → s.sweepStart r = s.reply .busy)
    ∧ (s.records.clear = none → s.sweep.state ≠ .stopped → s.sweepStart r = s.reply .state)
    ∧ (s.records.clear = none → s.sweep.state = .stopped →
      (16383 < r.start → r.start ≠ 65535 → s.sweepStart r = s.reply .badArgument)
      ∧ (r.start ≤ 16383 → (r.start / 256 < s.straps.base ∨ s.straps.base + s.straps.units ≤ r.start / 256) →
        s.sweepStart r = s.reply .notHome)
      ∧ ((r.start = 65535
            ∨ r.start ≤ 16383 ∧ s.straps.base ≤ r.start / 256 ∧ r.start / 256 < s.straps.base + s.straps.units) →
        s.sweepStart r = (s.beginSweep r).reply .accepted)) := by
  unfold State.sweepStart
  refine ⟨fun clears => if_pos clears, fun clear running => ?_, fun clear stopped => ⟨fun past some_ => ?_,
    fun within away => ?_, fun h => ?_⟩⟩
  · rw [if_neg (by simp [clear]), if_pos running]
  · rw [if_neg (by simp [clear]), if_neg (not_not.mpr stopped), startLine_some some_,
      if_pos (by simpa using past)]
  · have notHome : ¬ s.isHome r.start = true := by
      rw [isHome_iff]
      omega
    rw [if_neg (by simp [clear]), if_neg (not_not.mpr stopped), startLine_some (by omega),
      if_neg (by simpa using within), if_pos (by simpa using notHome)]
  · rw [if_neg (by simp [clear]), if_neg (not_not.mpr stopped)]
    rcases h with absent | ⟨within, low, high⟩
    · rw [startLine_none absent]
      rfl
    · have home : s.isHome r.start = true := (isHome_iff s _).mpr ⟨low, high⟩
      rw [startLine_some (by omega), if_neg (by simpa using within), if_neg (by simp [home])]

theorem beginSweep_eq (s : State) (r : SweepStartRecord) :
    s.beginSweep r
      = sweepMoved s
          { s.sweep with
            state := .seeking
            pointer := if r.start = 65535 then s.sweep.pointer else r.start
            skip := 0
            onComplete := decide (r.onComplete ≠ 0)
            onError := decide (r.onError ≠ 0)
            once := decide (r.once ≠ 0)
            interval := if r.interval = 65535 then s.sweep.interval else max 1 (min 3600 r.interval)
            due := some s.time.clock
            offer := true
            guardPassed := false
            pointerOwed := false
            stopPending := false } .start := by
  have on (n : Nat) : onByte n = decide (n ≠ 0) := by
    by_cases zero : n = 0 <;> simp [onByte, zero]
  have line : (startLine r).getD s.sweep.pointer = if r.start = 65535 then s.sweep.pointer else r.start := by
    unfold startLine
    split <;> rfl
  have interval : (startInterval r).getD s.sweep.interval
      = if r.interval = 65535 then s.sweep.interval else max 1 (min 3600 r.interval) := by
    unfold startInterval
    split <;> rfl
  rw [State.beginSweep, line, interval, on, on, on]
  rfl

/-! ## SWEEP STOP (R185) and SWEEP CONTINUE (R186) -/

theorem sweepStop_clauses (s : State) :
    (s.sweep.state = .stopped → s.sweepStop = s)
    ∧ ((s.sweep.state = .interval ∨ s.sweep.state = .seeking ∨ s.sweep.state = .haltedError
          ∨ s.sweep.state = .haltedComplete ∧ (s.sweep.offer = true ∨ s.sweepInSlot = false)) →
      s.sweepStop = s.stopSweep .stop)
    ∧ ((s.sweep.state = .testing ∨ s.sweep.state = .haltedComplete ∧ s.sweep.offer = false ∧ s.sweepInSlot = true) →
      s.sweepStop = s.stopLater) := by
  unfold State.sweepStop
  refine ⟨fun stopped => by rw [stopped], fun stops => ?_, fun waits => ?_⟩
  · rcases stops with h | h | h | ⟨h, free⟩
    · rw [h]
    · rw [h]
    · rw [h]
    · rw [h]
      refine if_neg ?_
      rcases free with free | free <;> simp [free]
  · rcases waits with h | ⟨h, offer, inSlot⟩
    · rw [h]
    · rw [h]
      exact if_pos (by simp [offer, inSlot])

theorem sweepContinue_refused (h : s.sweep.stopPending = true ∨ s.sweep.state ≠ .haltedError ∧ s.sweep.state ≠ .haltedComplete) :
    s.sweepContinue = s.reply .state := by
  unfold State.sweepContinue
  rcases h with stop | ⟨notError, notComplete⟩
  · exact if_pos stop
  · split
    · rfl
    · cases state : s.sweep.state with
      | haltedError => exact absurd state notError
      | haltedComplete => exact absurd state notComplete
      | _ => rfl

theorem sweepContinue_past (noStop : s.sweep.stopPending = false) (halted : s.sweep.state = .haltedError) :
    s.sweepContinue = s.continuePast.reply .accepted := by
  rw [State.sweepContinue, if_neg (by simp [noStop]), halted]

theorem sweepContinue_walk (noStop : s.sweep.stopPending = false) (halted : s.sweep.state = .haltedComplete) :
    s.sweepContinue = s.continueWalk.reply .accepted := by
  rw [State.sweepContinue, if_neg (by simp [noStop]), halted]

theorem continuePast_inside (halted : s.sweep.state = .haltedError) (inside : s.sweep.pointer < s.straps.lastLine) :
    s.continuePast
      = sweepMoved s
          { s.sweep with
            state := .interval
            pointer := s.sweep.pointer + 1
            due := some (s.time.clock + s.sweep.interval * 1000) } .continued := by
  rw [State.continuePast, State.stepPointer_inside inside]
  exact if_neg (by simp [halted])

theorem continuePast_wraps (last : s.straps.lastLine ≤ s.sweep.pointer) (onComplete : s.sweep.onComplete = true)
    (once : s.sweep.once = false) (noStop : s.sweep.stopPending = false) :
    s.continuePast
      = sweepMoved (sweepWrapped s)
          { (sweepWrapped s).sweep with
            state := .haltedComplete
            due := some (s.time.clock + s.sweep.interval * 1000)
            offer := false
            guardPassed := false } .completeHalt := by
  rw [State.continuePast, State.stepPointer, if_pos last, State.wrapPass_eq, sweepWrapped_halts onComplete once noStop]
  exact if_pos (by simp [sweepMoved])

theorem continueWalk_clauses (s : State) :
    (s.sweepInSlot = true → s.continueWalk = sweepMoved s { s.sweep with state := .testing } .continued)
    ∧ (s.sweepInSlot = false → s.sweep.offer = true →
      s.continueWalk = sweepMoved s { s.sweep with state := .seeking } .continued)
    ∧ ∀ d, s.sweepInSlot = false → s.sweep.offer = false → s.sweep.due = some d → s.time.clock < d →
      s.continueWalk = sweepMoved s { s.sweep with state := .interval, offer := false, guardPassed := false } .continued := by
  unfold State.continueWalk
  refine ⟨fun inSlot => by rw [if_pos inSlot]; rfl, fun notIn offer => ?_, fun d notIn offer due later => ?_⟩
  · rw [if_neg (by simp [notIn]), if_pos offer]
    rfl
  · rw [if_neg (by simp [notIn]), if_neg (by simp [offer]), State.seekOrWait_due due, if_neg (Nat.not_le.mpr later),
      decide_eq_false (Nat.not_le.mpr later)]
    rfl

theorem sweepInSlot_active {j : Job} (active : s.seq.active = .job j) (sweep : j.sweep.isSome = true) :
    s.sweepInSlot = true := by
  simp [State.sweepInSlot, State.findSlot, Slot.job?, active, sweep]

theorem lastLine_iff (s : State) :
    (s.sweep.pointer + 1 < (s.straps.base + s.straps.units) * 256 → s.sweep.pointer < s.straps.lastLine)
      ∧ (s.sweep.pointer + 1 = (s.straps.base + s.straps.units) * 256 → s.straps.lastLine ≤ s.sweep.pointer) := by
  unfold Straps.lastLine
  simp only [Config.unitLines]
  omega

/-- Settles O55. -/
theorem sweepCommandsMoveTheSweep : Obligations.SweepCommandsMoveTheSweep := by
  refine ⟨fun s info line v status q hq => sweepOutcome_clauses ?_, fun s takes q hq => ?_⟩
  · rw [hq]
    cases v with
    | none => rfl
    | some k => cases k <;> rfl
  have hq' : q = s.setPort none := hq
  have stops : exec .sweepStop s = .next (q.sweepStop.reply .accepted) := by
    simp only [exec, execSweepStop]
    rw [State.desk_takes takes, hq']
  have continues : exec .sweepContinue s = .next q.sweepContinue := by
    simp only [exec, execSweepContinue]
    rw [State.desk_takes takes, hq']
  refine ⟨fun r x formed => ?_, ?_, fun h => ?_, fun noStop halted inside => ?_,
    fun x noStop halted last onComplete once hx => ?_, fun noStop halted => ?_⟩
  · rw [exec_sweepStart formed takes, ← hq']
    obtain ⟨busy, running, stopped⟩ := sweepStart_clauses q r
    subst hq'
    refine ⟨fun clears => ?_, fun clear runs => ?_, fun clear stops => ?_⟩
    · rw [busy clears]
      rfl
    · rw [running clear runs]
      rfl
    · obtain ⟨bad, away, begins⟩ := stopped clear stops
      refine ⟨fun past some_ => ?_, fun within notHome => ?_, fun h hx => ?_⟩
      · rw [bad past some_]
        rfl
      · rw [away within notHome]
        rfl
      · rw [begins h, beginSweep_eq, hx]
        rfl
  · rw [stops]
    obtain ⟨rests, ends, waits⟩ := sweepStop_clauses q
    subst hq'
    refine ⟨fun h => ?_, fun h => ?_, fun h => ?_⟩
    · rw [rests h]
      rfl
    · rw [ends h]
      rfl
    · rw [waits h]
      rfl
  · rw [continues, sweepContinue_refused (by rw [hq]; exact h), hq]
    rfl
  · rw [continues, sweepContinue_past (by rw [hq]; exact noStop) (by rw [hq]; exact halted),
      continuePast_inside (by rw [hq]; exact halted) (by rw [hq]; exact (lastLine_iff s).1 inside), hq]
    rfl
  · rw [continues, sweepContinue_past (by rw [hq]; exact noStop) (by rw [hq]; exact halted),
      continuePast_wraps (by rw [hq]; exact (lastLine_iff s).2 last) (by rw [hq]; exact onComplete)
        (by rw [hq]; exact once) (by rw [hq]; exact noStop), sweepWrapped, hx, hq, ← halted]
    rfl
  · rw [continues, sweepContinue_walk (by rw [hq]; exact noStop) (by rw [hq]; exact halted)]
    obtain ⟨tests, seeks, waits⟩ := continueWalk_clauses q
    subst hq
    refine ⟨fun ⟨j, active, sweep⟩ => ?_, fun notIn offer => ?_, fun d notIn offer due later => ?_⟩
    · rw [tests (sweepInSlot_active (by exact active) sweep)]
      rfl
    · rw [seeks notIn offer]
      rfl
    · rw [waits d notIn offer due later]
      rfl

end Sys2Proof.Machine

/-! SUPPORT. Reports, errors, the reporting commands and the desk port's checks (O56, O57, O58). -/

namespace Sys2Proof.Machine

variable {s : State}

/-! ## Reports and errors (R195, R198) -/

theorem State.post_room (room : s.reports.queue.length < 64) (c : ReportContent) :
    s.post c
      = { s with
          reports := { s.reports with queue := s.reports.queue ++ [{ time := s.time.clock, content := c }] } } :=
  if_pos room

theorem State.post_full (full : 64 ≤ s.reports.queue.length) (c : ReportContent) :
    s.post c
      = { s with
          reports :=
            { s.reports with
              queue := s.reports.queue.tail ++ [{ time := s.time.clock, content := c }]
              overrun := true }
          port := discardUnder s.port } := by
  rw [State.post]
  refine (if_neg (Nat.not_lt.mpr full)).trans ?_
  rw [List.drop_one]
  rfl

theorem discardUnder_unseen {port : Option Transaction}
    (h : port = none ∨ ∃ t, port = some t ∧ (t.reading = .nothing ∨ t.reading = .completion)) :
    discardUnder port = port := by
  rcases h with rfl | ⟨t, rfl, reading | reading⟩
  · rfl
  · rw [discardUnder, reading]
  · rw [discardUnder, reading]

theorem discardUnder_report {t : Transaction} {gone : Bool} (reading : t.reading = .report gone) :
    discardUnder (some t) = some { t with reading := .report true, discarded := true } := by
  rw [discardUnder, reading]

theorem discardUnder_empty {t : Transaction} (reading : t.reading = .reportEmpty) :
    discardUnder (some t) = some { t with discarded := true } := by
  rw [discardUnder, reading]

theorem joinKind_eq (ks : List ErrorKind) (k : ErrorKind) : joinKind ks k = if k ∈ ks then ks else ks ++ [k] := by
  simp only [joinKind, List.contains_iff_mem]

/-- Settles O56. -/
theorem reportsQueueAndErrorsAreCaptured : Obligations.ReportsQueueAndErrorsAreCaptured := by
  refine fun s => ⟨fun c => ⟨fun room => State.post_room room c, fun full r hr => ⟨fun unseen => ?_, fun t gone port reading => ?_,
    fun t port reading => ?_⟩⟩, fun d kinds hk => ⟨fun first => ?_, fun more => ?_⟩⟩
  · rw [State.post_full full, discardUnder_unseen unseen, hr]
  · rw [State.post_full full, port, discardUnder_report reading, hr]
  · rw [State.post_full full, port, discardUnder_empty reading, hr]
  · rw [State.capture, hk, ← joinKind_eq]
    dsimp only
    rw [first]
    rfl
  · obtain ⟨e, some_⟩ := Option.ne_none_iff_exists'.mp more
    rw [State.capture, hk, ← joinKind_eq]
    dsimp only
    rw [some_]
    rfl

/-! ## The reporting commands (R196, R197, R199, R200) -/

theorem passes_iff (f : HeardFilter) (n : Notice) :
    f.passes n = true
      ↔ f.accept.getD (n.kind.code - 1) false = true
        ∧ (n = .announce ∨ ∃ l, n.line = some l ∧ BitVec.ofNat 14 l &&& f.mask = f.value &&& f.mask) := by
  rw [HeardFilter.passes, Bool.and_eq_true]
  refine and_congr_right fun _ => ?_
  cases n <;> simp [Notice.line]

theorem criticalInForce_iff (r : ReportUnit) : criticalInForce r = true ↔ 1 ≤ r.critical ∧ r.critical ≤ 64 := by
  simp [criticalInForce, Config.reportCap]

theorem criticalFlag_iff (r : ReportUnit) :
    criticalFlag r = true ↔ 1 ≤ r.critical ∧ r.critical ≤ 64 ∧ r.critical ≤ r.queue.length := by
  rw [criticalFlag, Bool.and_eq_true, criticalInForce_iff, decide_eq_true_eq, and_assoc]

theorem deskInterrupt_iff (s : State) :
    deskInterrupt s = true
      ↔ s.seq.completions ≠ []
        ∨ criticalFlag s.reports = true
        ∨ (s.reports.critical = 0 ∨ 64 < s.reports.critical) ∧ s.reports.queue ≠ []
        ∨ s.reports.overrun = true ∨ s.reports.first ≠ none := by
  have level : (if criticalInForce s.reports then criticalFlag s.reports else !s.reports.queue.isEmpty) = true
      ↔ criticalFlag s.reports = true
        ∨ (s.reports.critical = 0 ∨ 64 < s.reports.critical) ∧ s.reports.queue ≠ [] := by
    by_cases force : criticalInForce s.reports = true
    · have inForce := (criticalInForce_iff s.reports).mp force
      rw [if_pos force]
      exact ⟨.inl, fun h => h.resolve_right fun off => by omega⟩
    · have off : s.reports.critical = 0 ∨ 64 < s.reports.critical := by
        have none_ := (criticalInForce_iff s.reports).not.mp force
        omega
      have noFlag : ¬ criticalFlag s.reports = true := by
        rw [criticalFlag_iff]
        omega
      rw [if_neg force]
      simp [off, noFlag]
  rw [deskInterrupt, Bool.or_eq_true, Bool.or_eq_true, Bool.or_eq_true, level]
  simp [or_assoc, Option.isSome_iff_ne_none]

theorem State.restartPolling_runs (polling : s.chain.polling = true) (idle : s.NothingToGrant) :
    s.restartPolling.pump = s := by
  rw [State.restartPolling, if_pos polling, State.pump_nothing idle]

theorem State.restartPolling_restarts (halted : s.chain.polling = false) (idle : s.ChainIdle) :
    s.restartPolling.pump
      = s.setChain
          { s.chain with
            polling := true
            nextPoll := s.time.now + ms 250
            exchange := some { request := .poll s.chain.pollPointer, begun := false, limit := s.time.now + ms 5 } } := by
  rw [State.restartPolling, if_neg (by simp [halted]), State.askPoll_pump_idle (by exact idle)]
  rfl

theorem exec_setFilter {marks : List Nat} {value mask : Nat} (takes : s.TakesCommands) (six : marks.length = 6)
    (bytes : ∀ m ∈ marks, m < 256) (hv : value < 65536) (hm : mask < 65536) :
    exec (.setFilter marks value mask) s = .next ((s.setPort none).newFilter marks value mask) := by
  have formed : (Instr.setFilter marks value mask).wellFormed = true := by
    simp only [Instr.wellFormed, fits1, fits2, Bool.and_eq_true, decide_eq_true_eq, List.all_eq_true]
    exact ⟨⟨⟨six, bytes⟩, hv⟩, hm⟩
  simp only [exec, execSetFilter, Sys2Proof.Machine.formed, formed, if_true]
  rw [State.desk_takes takes]

/-- Settles O57. -/
theorem reportingCommandsTakeEffect : Obligations.ReportingCommandsTakeEffect := by
  intro s takes
  refine ⟨fun marks value mask six bytes hv hm => ?_, passes_iff, fun level fits => ?_, criticalFlag_iff s.reports,
    deskInterrupt_iff s, fun r hr => ?_⟩
  · rw [exec_setFilter takes six bytes hv hm, State.newFilter]
    refine ⟨fun past => ?_, fun low within => ?_⟩
    · rw [if_pos past]
      rfl
    · have on : marks.map onByte = marks.map (fun m => decide (m ≠ 0)) :=
        List.map_congr_left fun m _ => by by_cases zero : m = 0 <;> simp [onByte, zero]
      rw [if_neg (by omega), on]
      rfl
  · have formed : (Instr.setCriticalLevel level).wellFormed = true := by simpa [Instr.wellFormed, fits1] using fits
    simp only [exec, execSetCriticalLevel, Sys2Proof.Machine.formed, formed, if_true]
    rw [State.desk_takes takes]
    rfl
  · have clears : exec .clearErrors s
        = .next (((s.setPort none).emptyCapture.restartPolling.pump).reply .accepted) := by
      simp only [exec, execClearErrors]
      rw [State.desk_takes takes]
    have restarts : exec .pollRestart s = .next (((s.setPort none).restartPolling.pump).reply .accepted) := by
      simp only [exec, execPollRestart]
      rw [State.desk_takes takes]
    rw [clears, restarts]
    refine ⟨fun polling idle => ?_, fun x halted idle hx => ?_⟩
    · rw [State.restartPolling_runs (s := (s.setPort none).emptyCapture) polling idle,
        State.restartPolling_runs (s := s.setPort none) polling idle, hr]
      exact ⟨rfl, rfl⟩
    · rw [State.restartPolling_restarts (s := (s.setPort none).emptyCapture) halted idle,
        State.restartPolling_restarts (s := s.setPort none) halted idle, hr, hx]
      exact ⟨rfl, rfl⟩

/-! ## The desk port's checks (R192) and READ STATUS (R193) -/

theorem State.desk_busy (busy : s.claims.station = .discovering ∨ s.claims.station = .resetting) (owner : State → State) :
    s.desk owner = s.setPort (plainResponse .busy) := by
  unfold State.desk
  exact if_pos busy

/-- Every good command but READ STATUS is handed to its owner through the desk port (R190, R192). -/
theorem exec_desk {c : Instr} {bytes : List Byte} (formed : c.wellFormed = true) (encoded : encodeCommand c = some bytes)
    (good : ∀ code length, c ≠ .badCommand code length) (other : c ≠ .readStatus) :
    ∃ owner : State → State, exec c s = .next (s.desk owner) := by
  cases c with
  | badCommand code length => exact absurd rfl (good code length)
  | readStatus => exact absurd rfl other
  | submitOrder | cancelOrder | resumeOrder | sweepStart | readLineRecord | setLineClass | readTicketByIdent
  | readTicketByPlace | assignTicket | closeTicket | setTime | loadSettings | setFilter | setCriticalLevel =>
    exact ⟨_, if_pos formed⟩
  | readCompletion | readReport | sweepStop | sweepContinue | clearRecords | readForeignTickets | join | stationReset
  | clearErrors | pollRestart => exact ⟨_, rfl⟩
  | _ => cases encoded

theorem exec_readStatus (s : State) :
    exec .readStatus s
      = .next
          (if s.claims.station = .resetting then (s.setPort none).reply .busy
           else (s.setPort none).answer .accepted (statusBytes (s.setPort none))) := by
  simp only [exec, execReadStatus]
  by_cases resetting : s.claims.station = .resetting
  · rw [if_pos resetting]
    exact if_pos resetting
  · rw [if_neg resetting]
    exact if_neg resetting

theorem slotBytes_job (j : Job) :
    slotBytes (.job j)
      = byte (if j.sweep.isSome then 3 else 2) :: bytesOf 2 (if j.sweep.isSome then 0 else j.order.tag)
        ++ [byte j.phase.code, byte j.step, byte (j.bus.getD 255)] := by
  rw [slotBytes, optBytes_one]
  simp

/-- Settles O58. -/
theorem deskPortChecksEveryCommand : Obligations.DeskPortChecksEveryCommand := by
  refine ⟨⟨rfl, fun w => ?_, fun j desk => ?_, fun j sweep => ?_, rfl⟩, fun s => ⟨fun code length hc hl bad => ?_,
    fun c bytes formed encoded good busy => ?_, fun runs => ?_⟩⟩
  · rw [slotBytes, optBytes_one]
    simp
    rfl
  · rw [slotBytes_job, desk]
    rfl
  · rw [slotBytes_job, if_pos sweep, if_pos sweep]
    rfl
  · have formed : (Instr.badCommand code length).wellFormed = true := by
      simp only [Instr.wellFormed, fits1, Bool.and_eq_true, decide_eq_true_eq, bne_iff_ne]
      exact ⟨⟨hc, hl⟩, bad⟩
    exact if_pos formed
  · by_cases status : c = .readStatus
    · have resetting : s.claims.station = .resetting := busy.resolve_left fun h => h.2 status
      rw [status, exec_readStatus, if_pos resetting]
      rfl
    · obtain ⟨owner, done⟩ := exec_desk (s := s) formed encoded good status
      rw [done, State.desk_busy (busy.imp_left And.left)]
      rfl
  · rw [exec_readStatus, if_neg runs]
    rfl

end Sys2Proof.Machine

/-! SUPPORT. Power-on, the clock that is set, the settings and the join (O59). -/

namespace Sys2Proof.Machine

variable {s t : State}

/-! ## Power-on (R201, R202) -/

theorem strapValue_of_isStrapped {w n : Nat} {mask : BitVec w} (h : IsStrapped mask n) : strapValue mask = n := by
  unfold strapValue
  rcases h with ⟨unfitted, rfl⟩ | ⟨inside, fitted, lowest⟩
  · rw [List.find?_eq_none.mpr (by simpa using unfitted)]
    rfl
  · rw [find_lowest.mpr ⟨inside, fitted, lowest⟩]
    rfl

/-- The unit of an OPERATE or a RELEASE that may have acted on it did so, or it did not (R1, log 8). -/
theorem State.unitMayAct_acts {r : ChainRequest} (h : (∃ q, r = .operate q) ∨ ∃ q, r = .release q) :
    s.unitMayAct r = (s.setFree (s.free + 1)).unitActs r ∨ s.unitMayAct r = s.setFree (s.free + 1) := by
  have choice : s.unitMayAct r
      = if Config.freeChoice s.free = true then (s.setFree (s.free + 1)).unitActs r else s.setFree (s.free + 1) := by
    obtain ⟨q, rfl⟩ | ⟨q, rfl⟩ := h <;> rfl
  rw [choice]
  exact ite_eq_or_eq ..

theorem State.unitActs_operate (s : State) (q : Pair) :
    s.unitActs (.operate q) = s ∨ s.unitActs (.operate q) = s.setChain { s.chain with driveSet := s.chain.driveSet ++ [q] } :=
  ite_eq_or_eq ..

theorem State.unitMayAct_pending (s : State) (r : ChainRequest) : (s.unitMayAct r).pending = s.pending := by
  cases r with
  | readLine l => rfl
  | poll u => rfl
  | chainClear => rfl
  | operate q =>
    rcases State.unitMayAct_acts (s := s) (.inl ⟨q, rfl⟩) with h | h
    · rcases State.unitActs_operate (s.setFree (s.free + 1)) q with g | g <;> rw [h, g] <;> rfl
    · rw [h]
      rfl
  | release q => rcases State.unitMayAct_acts (s := s) (.inr ⟨q, rfl⟩) with h | h <;> rw [h] <;> rfl

/-- A request that a unit may have acted on or not adds the pair it operates alone (R1, log 8). -/
theorem State.unitMayAct_only {r : ChainRequest} {p : Pair} (mem : p ∈ (s.unitMayAct r).chain.driveSet) :
    p ∈ s.chain.driveSet ∨ r = .operate p := by
  cases r with
  | readLine l => exact .inl mem
  | poll u => exact .inl mem
  | chainClear => exact .inl (List.mem_filter.mp mem).1
  | operate q =>
    rcases State.unitMayAct_acts (s := s) (.inl ⟨q, rfl⟩) with h | h
    · rcases State.unitActs_operate (s.setFree (s.free + 1)) q with g | g
      · rw [h, g] at mem
        exact .inl mem
      · rw [h, g] at mem
        rcases List.mem_append.mp mem with old | new
        · exact .inl old
        · exact .inr (by rw [List.mem_singleton.mp new])
    · rw [h] at mem
      exact .inl mem
  | release q =>
    rcases State.unitMayAct_acts (s := s) (.inr ⟨q, rfl⟩) with h | h
    · rw [h] at mem
      exact .inl (List.mem_filter.mp mem).1
    · rw [h] at mem
      exact .inl mem

/-- A request that a unit may have acted on or not takes away no pair but the one it releases, and every pair only by a CHAIN
CLEAR (R1, log 8). -/
theorem State.unitMayAct_keeps {r : ChainRequest} {p : Pair} (mem : p ∈ s.chain.driveSet) (release : r ≠ .release p)
    (clear : r ≠ .chainClear) : p ∈ (s.unitMayAct r).chain.driveSet := by
  cases r with
  | readLine l => exact mem
  | poll u => exact mem
  | chainClear => exact absurd rfl clear
  | operate q =>
    rcases State.unitMayAct_acts (s := s) (.inl ⟨q, rfl⟩) with h | h
    · rcases State.unitActs_operate (s.setFree (s.free + 1)) q with g | g
      · rw [h, g]
        exact mem
      · rw [h, g]
        exact List.mem_append_left _ mem
    · rw [h]
      exact mem
  | release q =>
    have apart : p ≠ q := by
      rintro rfl
      exact release rfl
    rcases State.unitMayAct_acts (s := s) (.inr ⟨q, rfl⟩) with h | h
    · rw [h]
      exact List.mem_filter.mpr ⟨mem, by simpa using apart⟩
    · rw [h]
      exact mem

theorem State.cutShort_none (h : s.chain.exchange = none) : s.cutShort = s := by
  rw [State.cutShort, h]

theorem State.cutShort_some {e : Exchange} (h : s.chain.exchange = some e) : s.cutShort = s.unitMayAct e.request := by
  rw [State.cutShort, h]

theorem State.cutShort_pending (s : State) : s.cutShort.pending = s.pending := by
  cases exchange : s.chain.exchange with
  | none => rw [State.cutShort_none exchange]
  | some e => rw [State.cutShort_some exchange, s.unitMayAct_pending]

theorem exec_powerOn {m : StrapMasks} {station buses base units : Nat} (hStation : IsStrapped m.station station)
    (hBuses : IsStrapped m.buses buses) (hBase : IsStrapped m.baseUnit base) (hUnits : IsStrapped m.units units) :
    exec (.powerOn m) s = .next
      { State.reset with
        straps :=
          { station := station
            buses := buses + 1
            base := base
            units := if 64 < base + (units + 1) then 64 - base else units + 1 }
        chain := { Chain.powerOn with driveSet := s.cutShort.chain.driveSet }
        claims := { State.reset.claims with entries := List.replicate (buses + 1) .free }
        sweep := Sweep.powerOn (base * 256)
        free := s.cutShort.free
        pending := s.cutShort.pending } := by
  have straps : Straps.ofMasks m
      = { station := station
          buses := buses + 1
          base := base
          units := if 64 < base + (units + 1) then 64 - base else units + 1 } := by
    rw [Straps.ofMasks, strapValue_of_isStrapped hStation, strapValue_of_isStrapped hBuses, strapValue_of_isStrapped hBase,
      strapValue_of_isStrapped hUnits]
    congr 1
    split <;> omega
  simp only [exec, execPowerOn, State.poweredOn]
  rw [straps]
  rfl

/-! ## The clock that is set (R194) -/

theorem State.waitRunsOut_queued {seq : Sequencer} {before after : List QueuedOrder} {q : QueuedOrder}
    (queue : seq.queue = before ++ q :: after) (nodup : (tagsOf (before ++ q :: after)).Nodup) (waits : q.waiting = none) :
    (s.setSeq seq).waitRunsOut q.order.tag
      = (s.setSeq seq).endQueued q.order.tag (s.waitStatus q.order.line) (some 1) := by
  have found : (s.setSeq seq).queuedOrder q.order.tag = some q.order := by
    rw [State.queuedOrder, State.setSeq_seq, queue, find_queued nodup waits]
    rfl
  rw [State.waitRunsOut, found]
  rfl

theorem State.lateOrders_end (nodup : (tagsOf s.seq.queue).Nodup) :
    s.lateOrders.foldl (fun s t => s.waitRunsOut t) s = waitsPassed s := by
  have ended := State.foldl_queueEnded (s := s) (f := fun s t => s.waitRunsOut t)
    (goes := fun q => q.waiting.isNone && decide (s.waitLimit q.order ≤ s.time.clock))
    (status := fun o => s.waitStatus o.line) (failing := some 1)
    (fun q h => Option.isNone_iff_eq_none.mp (Bool.and_eq_true_iff.mp h).1)
    (fun _ _ _ _ queue nodup waits => State.waitRunsOut_queued queue nodup waits) nodup
  refine ended.trans ?_
  simp only [State.waitStatus, State.notFreeStatus_eq]
  rfl

theorem Slot.job?_eq {x : Slot} {j : Job} (h : x.job? = some j) : x = .job j := by
  cases x with
  | job i => rw [Option.some.inj h]
  | empty => cases h
  | donePending w => cases h

theorem State.deskAccess_of {id : SlotId} {j : Job} (slot : s.accessSlot = some id) (job : s.slot id = .job j)
    (desk : j.sweep = none) : s.deskAccess = some (id, j.order) := by
  rw [State.deskAccess, slot]
  dsimp only
  rw [job]
  simp [Slot.job?, desk]

theorem State.deskAccess_spec {id : SlotId} {o : Order} (h : s.deskAccess = some (id, o)) :
    ∃ j, s.accessSlot = some id ∧ s.slot id = .job j ∧ j.sweep = none ∧ j.order = o := by
  unfold State.deskAccess at h
  split at h
  · rename_i i slot
    split at h
    · rename_i j job
      split at h
      · rename_i desk
        cases h
        exact ⟨j, slot, Slot.job?_eq job, Option.isNone_iff_eq_none.mp desk, rfl⟩
      · cases h
    · cases h
  · cases h

theorem State.applyWaitLimits_none (nodup : (tagsOf s.seq.queue).Nodup) (h : (waitsPassed s).deskAccess = none) :
    s.applyWaitLimits = waitsPassed s := by
  rw [State.applyWaitLimits, State.lateOrders_end nodup, h]

theorem State.applyWaitLimits_some {id : SlotId} {o : Order} (nodup : (tagsOf s.seq.queue).Nodup)
    (h : (waitsPassed s).deskAccess = some (id, o)) :
    s.applyWaitLimits
      = if (waitsPassed s).waitLimit o ≤ (waitsPassed s).time.clock then
          (waitsPassed s).endAccess id ((waitsPassed s).waitStatus o.line) (some 1)
        else waitsPassed s := by
  rw [State.applyWaitLimits, State.lateOrders_end nodup, h]

theorem State.applyWaitLimits_eq {y : State} (nodup : (tagsOf s.seq.queue).Nodup) (station : s.claims.station ≠ .resetting)
    (h : AccessWaitApplied (waitsPassed s) y) :
    s.applyWaitLimits = y ∧ y.chain = s.chain := by
  rcases h with ⟨rfl, early⟩ | ⟨id, j, w, slot, job, desk, late, stands, ends, rfl⟩
  · refine ⟨?_, rfl⟩
    cases found : (waitsPassed s).deskAccess with
    | none => exact State.applyWaitLimits_none nodup found
    | some x =>
      obtain ⟨id, o⟩ := x
      obtain ⟨j, slot, job, desk, rfl⟩ := State.deskAccess_spec found
      rw [State.applyWaitLimits_some nodup found, if_neg (by exact Nat.not_le.mpr (early id j slot job desk))]
  · obtain ⟨form, wStation, -⟩ := claimEnds_form ends
    have wSlot : w.slot id = .job j := by
      rw [form]
      cases id <;> exact job
    have found : (waitsPassed s).deskAccess = some (id, j.order) := State.deskAccess_of slot job desk
    refine ⟨?_, ?_⟩
    · rw [State.applyWaitLimits_some nodup found, if_pos (by exact late), State.endAccess_desk (State.endOpening_ends ends) (j := j)
        wSlot desk (by rw [wStation]; exact station)
        (by rw [SlotsStand, form]; exact stands), State.waitStatus, State.notFreeStatus_eq]
      rfl
    · rw [form]
      rfl

theorem State.applySuspendLimit_eq {z : State} (h : SuspensionApplied s z) :
    s.applySuspendLimit = z ∧ z.chain = s.chain := by
  unfold State.applySuspendLimit
  rcases h with ⟨rfl, early⟩ | ⟨j, b, c, active, phase, late, bus, head, on, entry, held, rfl⟩
  · refine ⟨?_, rfl⟩
    split
    · rename_i j active
      rw [if_neg fun h => absurd (early j active h.1) (Nat.not_lt.mpr h.2)]
    · rfl
  · refine ⟨?_, rfl⟩
    rw [active]
    dsimp only
    rw [if_pos ⟨phase, late⟩, State.suspendRunsOut, State.abandon_atHead active bus entry held head on]
    rfl

theorem State.shutTicket_auto (s : State) (k : Ticket) : s.shutTicket k .auto = closedByClock s k := by
  unfold State.shutTicket State.moveTicket State.announceTicket State.updateTicket closedByClock
  rfl

theorem State.applyClearHolds_eq (s : State) : s.applyClearHolds = clearHoldsPassed s := by
  have closes : (fun (s : State) (k : Ticket) => s.shutTicket k .auto) = closedByClock :=
    funext fun s => funext (State.shutTicket_auto s)
  rw [State.applyClearHolds, closes]
  rfl

theorem closedByClock_chain (s : State) (k : Ticket) : (closedByClock s k).chain = s.chain := by
  unfold closedByClock State.offerPlain
  rw [State.offer_line, State.post_chain]
  rfl

theorem clearHoldsPassed_chain (s : State) : (clearHoldsPassed s).chain = s.chain := by
  unfold clearHoldsPassed
  generalize s.tickets.table.filter _ = late
  induction late generalizing s with
  | nil => rfl
  | cons k late ih => exact (ih _).trans (closedByClock_chain s k)

theorem overdueTicket_none_iff (s : State) :
    s.overdueTicket = none ↔ ¬ ∃ k ∈ s.tickets.table, ∃ m ∈ k.retestDue, m ≤ s.time.clock / 1000 := by
  refine ⟨fun none_ some_ => ?_, fun h => State.overdueTicket_none fun x mem m due => ?_⟩
  · exact absurd none_ (Option.isSome_iff_ne_none.mp (State.overdueTicket_isSome some_))
  · exact Nat.not_le.mp fun late => h ⟨x, mem, m, due, late⟩

theorem State.dueAwaited_halted (halted : s.sweep.state = .haltedComplete) :
    s.dueAwaited = if s.sweep.offer = false ∧ s.sweepInSlot = false then s.sweep.due else none := by
  rw [State.dueAwaited, halted]
  dsimp only
  cases s.sweep.offer <;> cases s.sweepInSlot <;> rfl

theorem State.dueAwaited_elsewhere (interval : s.sweep.state ≠ .interval) (halted : s.sweep.state ≠ .haltedComplete) :
    s.dueAwaited = none := by
  unfold State.dueAwaited
  split
  · exact absurd ‹_› interval
  · exact absurd ‹_› halted
  · rfl

theorem State.applySweepDue_none (h : s.dueAwaited = none) : s.applySweepDue = s := by
  rw [State.applySweepDue, h]

theorem State.applySweepDue_some {d : Nat} (h : s.dueAwaited = some d) :
    s.applySweepDue
      = if s.time.clock < d then s
        else if s.sweep.state = .haltedComplete ∧ s.overdueTicket = none then
          s.setSweep
            { s.sweep with
              due := some (d + ((s.time.clock - d) / (s.sweep.interval * 1000) + 1) * (s.sweep.interval * 1000)) }
        else s.sweepFallsDue := by
  rw [State.applySweepDue, h]

theorem State.dueAwaited_due {d : Nat} (h : s.dueAwaited = some d) : s.sweep.due = some d := by
  unfold State.dueAwaited at h
  split at h
  · exact h
  · split at h
    · cases h
    · exact h
  · cases h

/-- A due time not yet reached, or none, does nothing. -/
theorem State.applySweepDue_early (h : ∀ d, s.sweep.due = some d → s.time.clock < d) : s.applySweepDue = s := by
  cases awaited : s.dueAwaited with
  | none => exact State.applySweepDue_none awaited
  | some d => rw [State.applySweepDue_some awaited, if_pos (h d (State.dueAwaited_due awaited))]

theorem State.applySweepDue_eq (s : State) : s.applySweepDue = duePassed s := by
  unfold duePassed
  cases due : s.sweep.due with
  | none => exact State.applySweepDue_early fun d h => by rw [due] at h; cases h
  | some d =>
    dsimp only
    by_cases early : s.time.clock < d
    · rw [if_pos early, State.applySweepDue_early fun e h => by rw [due] at h; exact Option.some.inj h ▸ early]
    rw [if_neg early]
    by_cases interval : s.sweep.state = .interval
    · rw [State.applySweepDue_some (d := d) (by rw [State.dueAwaited, interval, due]), if_neg early, if_pos interval,
        if_neg (by rw [interval]; simp), State.sweepFallsDue_interval interval due]
      rfl
    rw [if_neg interval]
    by_cases halted : s.sweep.state = .haltedComplete
    · by_cases free : s.sweep.offer = false ∧ s.sweepInSlot = false
      · rw [State.applySweepDue_some (d := d) (by rw [State.dueAwaited_halted halted, if_pos free, due]), if_neg early,
          if_pos (c := _ ∧ _) ⟨halted, free⟩]
        by_cases overdue : s.overdueTicket = none
        · rw [if_pos ⟨halted, overdue⟩, if_neg ((overdueTicket_none_iff s).mp overdue)]
          rfl
        · rw [if_neg fun h => overdue h.2, if_pos (not_not.mp (mt (overdueTicket_none_iff s).mpr overdue)),
            State.sweepFallsDue_halted halted due free.1 free.2, if_pos (Option.isSome_iff_ne_none.mpr overdue)]
          rfl
      · rw [State.applySweepDue_none (by rw [State.dueAwaited_halted halted, if_neg free]), if_neg fun h => free h.2]
    · rw [State.applySweepDue_none (State.dueAwaited_elsewhere interval halted), if_neg fun h => halted h.1]

theorem duePassed_chain (s : State) : (duePassed s).chain = s.chain := by
  unfold duePassed
  dsimp only
  repeat' split
  all_goals rfl

theorem State.applyGuard_eq (s : State) : s.applyGuard = guardPast s := by
  unfold State.applyGuard guardPast State.guardAwaited
  by_cases stands : s.sweep.offer = true ∧ s.sweep.guardPassed = false
  · obtain ⟨offer, waits⟩ := stands
    rw [if_pos (by simp [offer, waits])]
    cases due : s.sweep.due with
    | none => exact (if_neg (by simp)).symm
    | some d => exact if_congr (by simp [offer, waits]) rfl rfl
  · rw [if_neg (by simpa using stands), if_neg fun h => stands ⟨h.1, h.2.1⟩]

theorem guardPast_chain (s : State) : (guardPast s).chain = s.chain := by
  unfold guardPast
  split <;> rfl

theorem exec_setTime {n : Nat} (takes : s.TakesCommands) (fits : n < 4294967296) :
    exec (.setTime n) s = .next ((s.setPort none).newTime n) := by
  have formed : (Instr.setTime n).wellFormed = true := by simpa [Instr.wellFormed, fits4] using fits
  simp only [exec, execSetTime, Sys2Proof.Machine.formed, formed, if_true]
  rw [State.desk_takes takes]

theorem setTime_passes {n : Nat} {y z : State} (takes : s.TakesCommands) (fits : n < 4294967296)
    (nodup : (tagsOf s.seq.queue).Nodup) (idle : s.NothingToGrant)
    (access : AccessWaitApplied (waitsPassed { s with time := { s.time with clock := n * 1000 }, port := none }) y)
    (suspension : SuspensionApplied y z) :
    exec (.setTime n) s = .next
      { guardPast (duePassed (clearHoldsPassed z)) with port := plainResponse .accepted } := by
  obtain ⟨waits, yChain⟩ := State.applyWaitLimits_eq (s := (s.setPort none).setClock n) nodup takes.2 access
  obtain ⟨suspends, zChain⟩ := State.applySuspendLimit_eq suspension
  have chain : (guardPast (duePassed (clearHoldsPassed z))).chain = s.chain := by
    rw [guardPast_chain, duePassed_chain, clearHoldsPassed_chain, zChain, yChain]
    rfl
  rw [exec_setTime takes fits, State.newTime, waits, suspends, State.applyClearHolds_eq, State.applySweepDue_eq,
    State.applyGuard_eq, State.pump_alike idle chain, State.reply_eq]
  rfl

/-! ## The settings (R203) -/

theorem exec_loadSettings {r : SettingsRecord} (takes : s.TakesCommands) (formed : r.wellFormed = true) :
    exec (.loadSettings r) s = .next ((s.setPort none).takeSettings r) := by
  have wellFormed : (Instr.loadSettings r).wellFormed = true := formed
  simp only [exec, execLoadSettings, Sys2Proof.Machine.formed, wellFormed, if_true]
  rw [State.desk_takes takes]

theorem settings_ofRecord {r : SettingsRecord} {openLevel : Nat} (h : openLevel = max 1 (min 255 r.openLevel)) :
    Settings.ofRecord r
      = { foreign := max 1000 (min 50000 r.foreign)
          loop := max 100 (min 10000 r.loop)
          ground := max 1000 (min 500000 r.ground)
          insulation := max 100000 (min 50000000 r.insulation)
          imbalance := max 10 (min 95 r.imbalance)
          gauge := r.gauge.map (fun g => max 20000 (min 80000 g))
          accessWait := max 1 (min 300 r.accessWait)
          suspend := max 10 (min 600 r.suspend)
          decay := max 1 (min 1440 r.decay)
          openLevel := openLevel
          clearLevel := if openLevel ≤ min 254 r.clearLevel then openLevel - 1 else min 254 r.clearLevel
          clearHold := max 10 (min 10080 r.clearHold)
          retest := max 1 (min 1440 r.retest)
          guard := max 10 (min 600 r.guard) } := by
  have cleared : clearInForce r = if openLevel ≤ min 254 r.clearLevel then openLevel - 1 else min 254 r.clearLevel := by
    rw [clearInForce, openInForce, clamp, clamp, ← h]
    split <;> omega
  have opened : openInForce r = openLevel := h.symm
  rw [Settings.ofRecord, cleared, opened]
  rfl

/-! ## The join (R204) -/

theorem exec_join (takes : s.TakesCommands) : exec .join s = .next ((s.setPort none).joinLine) := by
  simp only [exec, execJoin]
  rw [State.desk_takes takes]

/-- A notice that has come into flight with its try begun, or that the line keeps waiting, is moved by nothing more (R21). -/
theorem State.tryNow_broughtIntoFlight (tx : Tx) :
    (s.setLine (broughtIntoFlight s tx)).tryNow = s.setLine (broughtIntoFlight s tx) := by
  rw [State.tryNow_eq, State.setLine_setLine]
  refine congrArg s.setLine ?_
  unfold firstTryBegun broughtIntoFlight
  by_cases sends : SendsNow s
  · rw [if_pos sends]
    exact if_neg (by simp)
  · rw [if_neg sends]
    exact if_neg fun h => sends h.2

theorem firstTryBegun_none (h : s.line.flight = none) : firstTryBegun s = s.line := by
  unfold firstTryBegun
  rw [h]

theorem firstTryBegun_some {f : Flight} (h : s.line.flight = some f) :
    firstTryBegun s
      = if f.phase = .waitQuiet ∧ SendsNow s then
          { s.line with
            flight := some { f with phase := .trying s.time.now }
            busy := true
            startedAt := s.time.now }
        else s.line := by
  unfold firstTryBegun
  rw [h]

/-- What stands behind the notice in flight does not change whether its first try begins (R21). -/
theorem State.tryNow_behind (s : State) (queue heldClaims : List Tx) :
    (s.setLine { s.line with queue := queue, heldClaims := heldClaims }).tryNow
      = s.setLine { firstTryBegun s with queue := queue, heldClaims := heldClaims } := by
  rw [State.tryNow_eq, State.setLine_setLine]
  refine congrArg s.setLine ?_
  cases flight : s.line.flight with
  | none =>
    rw [firstTryBegun_none (by exact flight), firstTryBegun_none flight]
    rfl
  | some f =>
    rw [firstTryBegun_some (by exact flight), firstTryBegun_some flight]
    by_cases begins : f.phase = .waitQuiet ∧ SendsNow s
    · rw [if_pos begins, if_pos (by exact begins)]
      rfl
    · rw [if_neg begins, if_neg (by exact begins)]
      rfl

theorem firstTryBegun_queue (s : State) :
    (firstTryBegun s).queue = s.line.queue ∧ (firstTryBegun s).heldClaims = s.line.heldClaims := by
  unfold firstTryBegun
  split
  · split <;> exact ⟨rfl, rfl⟩
  · exact ⟨rfl, rfl⟩

/-- The ANNOUNCE that begins a join: in flight on an idle transmitter, last in a queue with room, or held back (R21, R27, R30,
R204). -/
theorem State.beginJoin_clauses {announce : Tx} (ht : t = s.setClaims { s.claims with station := .joining })
    (hAnnounce : announce = { notice := .announce, tag := .joining }) :
    (s.line.flight = none → s.line.queue = [] → s.beginJoin = t.setLine (broughtIntoFlight t announce))
    ∧ (s.line.flight.isSome = true → s.line.queue.length < 16 →
      s.beginJoin = t.setLine { firstTryBegun t with queue := s.line.queue ++ [announce] })
    ∧ (s.line.flight.isSome = true → 16 ≤ s.line.queue.length →
      s.beginJoin = t.setLine { firstTryBegun t with heldClaims := s.line.heldClaims ++ [announce] }) := by
  have line : t.line = s.line := by rw [ht]; rfl
  have joins : s.beginJoin = (t.offer announce).tryNow := by rw [State.beginJoin, ht, hAnnounce]
  have apart : foldsInto announce t.line.queue = false := by rw [hAnnounce]; rfl
  obtain ⟨queue, held⟩ := firstTryBegun_queue t
  rw [joins, ← line]
  refine ⟨fun flight empty => ?_, fun flight room => ?_, fun flight full => ?_⟩
  · rw [State.offer_enters apart (by rw [empty]; decide), empty, List.nil_append, State.loadFlight_first flight empty,
      State.tryNow_broughtIntoFlight]
  · rw [State.offer_enters apart room, State.loadFlight_stands (.inl (by exact flight))]
    refine (State.tryNow_behind _ _ _).trans ?_
    rw [← held]
  · have back : t.holdBack announce = t.setLine { t.line with heldClaims := t.line.heldClaims ++ [announce] } := by
      rw [hAnnounce]
      rfl
    rw [State.offer_refused apart full, back]
    refine (State.tryNow_behind _ _ _).trans ?_
    rw [← queue]

/-- Settles O59. -/
theorem powerOnTimeSettingsAndJoin : Obligations.PowerOnTimeSettingsAndJoin := by
  refine ⟨fun s m station buses base units hStation hBuses hBase hUnits => ?_, fun s takes =>
    ⟨fun n y z fits nodup idle access suspension => setTime_passes takes fits nodup idle access suspension,
      fun r openLevel formed hOpen => ⟨fun starting => ?_, fun starting => ?_⟩, fun starting => ?_,
      fun starting t announce ht hAnnounce => ?_⟩⟩
  · refine ⟨s.cutShort.chain.driveSet, s.cutShort.free, ?_, fun p mem => ?_, fun p mem other => ?_, fun none_ => ?_⟩
    · rw [exec_powerOn hStation hBuses hBase hUnits, s.cutShort_pending]
    · cases exchange : s.chain.exchange with
      | none => exact .inl (by rwa [State.cutShort_none exchange] at mem)
      | some e =>
        rw [State.cutShort_some exchange] at mem
        exact (State.unitMayAct_only mem).imp_right fun request => ⟨e, rfl, request⟩
    · cases exchange : s.chain.exchange with
      | none => rwa [State.cutShort_none exchange]
      | some e =>
        obtain ⟨release, clear⟩ := other e exchange
        rw [State.cutShort_some exchange]
        exact State.unitMayAct_keeps mem release clear
    · rw [State.cutShort_none none_]
      exact ⟨rfl, rfl⟩
  · rw [exec_loadSettings takes formed, State.takeSettings, if_neg (by exact starting), State.reply_eq]
    rfl
  · rw [exec_loadSettings takes formed, State.takeSettings, if_pos (by exact starting), State.reply_eq,
      settings_ofRecord hOpen]
    rfl
  · rw [exec_join takes, State.joinLine, if_neg (by exact starting), State.reply_eq]
    rfl
  · obtain ⟨first, last, held⟩ := State.beginJoin_clauses (s := s.setPort none) rfl hAnnounce
    rw [exec_join takes, State.joinLine, if_pos (by exact starting), State.reply_eq]
    refine ⟨fun flight queue => ?_, fun flight room => ?_, fun flight full => ?_⟩
    · rw [first flight queue, ht]
      rfl
    · rw [last flight room, ht]
      rfl
    · rw [held flight full, ht]
      rfl

end Sys2Proof.Machine

/-! SUPPORT. The station reset: how it begins and how it ends (O60). -/

namespace Sys2Proof.Machine

variable {s t w : State}

/-! ## The slots of a reset (R80, R84, R134) -/

theorem claimEndsUnheld_beside (h : ClaimEndsUnheld s w) (q : Sequencer) (v : Sweep) :
    ClaimEndsUnheld ((s.setSeq q).setSweep v) ((w.setSeq q).setSweep v) := by
  obtain ⟨none_, rfl⟩ | ⟨o, opening, how⟩ := h
  · exact .inl ⟨none_, rfl⟩
  refine .inr ⟨o, opening, ?_⟩
  obtain ⟨waits, rfl⟩ | ⟨b, c, placed, entry, how⟩ := how
  · exact .inl ⟨waits, rfl⟩
  refine .inr ⟨b, c, placed, entry, ?_⟩
  obtain ⟨sending, y, stopped, rfl⟩ | ⟨sending, f, since, flight, claim, kept, phase, others, rfl⟩ | ⟨announced, rfl⟩ := how
  · exact .inl ⟨sending, y, stopped, rfl⟩
  · exact .inr (.inl ⟨sending, f, since, flight, claim, kept, phase, others, rfl⟩)
  · refine .inr (.inr ⟨announced, ?_⟩)
    have alike : State.LineAlike { s with claims := claimEnded s.claims b c }
        { (s.setSeq q).setSweep v with claims := claimEnded s.claims b c } := ⟨rfl, rfl, rfl⟩
    rw [State.offerRelease, State.offerRelease, State.offer_line]
    exact (alike.offer_eq _).symm

theorem Slot.dropped_discarded {x : Slot} (h : SlotDiscarded x) : x.dropped = .empty := by
  cases x with
  | job j => exact if_pos (h j rfl)
  | empty => rfl
  | donePending y => rfl

theorem Slot.dropped_kept {j : Job} (h : j.phase = .ready ∨ j.phase = .running ∨ j.phase = .suspended) :
    (Slot.job j).dropped = .job j := by
  refine if_neg fun access => ?_
  rw [access] at h
  simp at h

theorem State.resetSlot_empty {id : SlotId} (h : s.slot id = .empty) : s.resetSlot id = s := by
  rw [State.resetSlot, h]

theorem State.resetSlot_begins {id : SlotId} {j : Job} (h : s.slot id = .job j)
    (phase : j.phase = .ready ∨ j.phase = .running ∨ j.phase = .suspended) : s.resetSlot id = s.beginRelease id := by
  rw [State.resetSlot, h]
  refine if_neg fun releasing => ?_
  rw [releasing] at phase
  simp at phase

theorem Tx.plainly_eq (tx : Tx) : tx.plainly = { tx with tag := if tx.tag = .joining then .plain else tx.tag } := by
  unfold Tx.plainly
  split <;> rfl

/-! ## The beginning of a reset (R205) -/

theorem exec_stationReset (takes : s.TakesCommands) : exec .stationReset s = .next ((s.setPort none).resetStation) := by
  simp only [exec, execStationReset]
  rw [State.desk_takes takes]

/-- The orders and records are discarded, and the sweep stands as given. -/
def ordersDiscarded (w : State) (v : Sweep) (active staged : Slot) : State :=
  (w.setSeq { w.seq with active := active, staged := staged }).setSweep v

/-- The sweep is STOPPED with no report (R174). -/
def sweepSilenced (v : Sweep) : Sweep :=
  { v with
    state := .stopped
    due := none
    offer := false
    guardPassed := false
    pointerOwed := false
    stopPending := false }

/-- The station is RESETTING, with a claim in the making still to end and the jobs still in their slots (R205). -/
def resetEntered (s : State) : State :=
  { s with
    claims := { s.claims with station := .resetting, joinUntil := none, clashMark := none }
    line := joinAbandoned s.line
    seq := { s.seq with queue := [], completions := [] }
    sweep := sweepSilenced s.sweep
    port := plainResponse .accepted }

/-- The state a reset has come to before its jobs begin their release sequences: the station is RESETTING, its claim in the making
has ended and its orders are discarded (R63, R134, R205). -/
theorem State.discarded_eq (ends : ClaimEndsUnheld (resetEntered s) w) :
    ((s.setPort none).reply .accepted).enterResetting.discardOrders
      = ordersDiscarded w s.sweep s.seq.active.dropped s.seq.staged.dropped := by
  have plain : Tx.plainly = fun tx => { tx with tag := if tx.tag = .joining then .plain else tx.tag } :=
    funext Tx.plainly_eq
  have ended := State.endOpening_ends (claimEndsUnheld_beside ends s.seq s.sweep)
  have entered : ((s.setPort none).reply .accepted).enterResetting = (w.setSeq s.seq).setSweep s.sweep := by
    rw [← ended, State.enterResetting, State.reply_eq, plain]
    rfl
  have wSeq : w.seq = { s.seq with queue := [], completions := [] } := by
    rw [(claimEnds_form ends).1]
    rfl
  rw [State.discardOrders, entered, ordersDiscarded, wSeq]
  rfl

theorem exec_stationReset_begins (takes : s.TakesCommands) (joined : s.claims.station ≠ .starting)
    (ends : ClaimEndsUnheld (resetEntered s) w) :
    exec .stationReset s = .next
      (((((ordersDiscarded w s.sweep s.seq.active.dropped s.seq.staged.dropped).resetSlot .active).resetSlot
        .staged).silenceSweep).settleSlots).pump := by
  rw [exec_stationReset takes, State.resetStation, if_neg (by exact joined), State.beginReset, State.discarded_eq ends]

theorem reset_ends_empty (takes : s.TakesCommands) (joined : s.claims.station ≠ .starting) (idle : s.NothingToGrant)
    (ends : ClaimEndsUnheld (resetEntered s) w) (active : SlotDiscarded s.seq.active)
    (staged : SlotDiscarded s.seq.staged) :
    exec .stationReset s = .next { w with seq := { w.seq with active := .empty, staged := .empty } } := by
  have form := (claimEnds_form ends).1
  rw [exec_stationReset_begins takes joined ends, Slot.dropped_discarded active, Slot.dropped_discarded staged,
    State.resetSlot_empty (by rfl), State.resetSlot_empty (by rfl),
    State.settleSlots_stand (fun j on => by cases on) (fun j on => by cases on),
    State.pump_alike idle (by rw [form]; rfl), form]
  rfl

theorem reset_leaves_head {j : Job} {b : Nat} {own : OwnClaim} (takes : s.TakesCommands)
    (joined : s.claims.station ≠ .starting) (idle : s.NothingToGrant) (ends : ClaimEndsUnheld (resetEntered s) w)
    (active : s.seq.active = .job j) (staged : SlotDiscarded s.seq.staged)
    (phase : j.phase = .ready ∨ j.phase = .running ∨ j.phase = .suspended) (bus : j.bus = some b)
    (head : s.head.bus = some b) (on : s.head.state ≠ .offBus) (entry : w.entryAt b = .own own) (held : own.state = .held) :
    exec .stationReset s = .next
      { w with
        claims := claimReleased w.claims b own
        seq :=
          { w.seq with
            active := .job { suspensionEnded j s.time.clock with phase := .releasing, inserted := false }
            staged := .empty }
        head := headLeaves s.head s.time.now } := by
  obtain ⟨form, station, -⟩ := claimEnds_form ends
  have wHead : w.head = s.head := by rw [form]; rfl
  have wTime : w.time = s.time := by rw [form]; rfl
  have noClosing (i : Job) : closingResults (ordersDiscarded w s.sweep (.job j) .empty) i = i.results :=
    if_neg fun h => h.2.1 station
  rw [exec_stationReset_begins takes joined ends, active, Slot.dropped_kept phase, Slot.dropped_discarded staged,
    State.resetSlot_begins (id := .active) (j := j) (by rfl) phase,
    State.beginRelease_atHead (j := j) (b := b) (c := own) (by rfl) bus (by exact entry) held
      (by exact wHead ▸ head) (by exact wHead ▸ on),
    State.resetSlot_empty (id := .staged) (by rfl), releaseBegun, noClosing,
    State.settleSlots_releasing (by rfl) (by rfl) (fun k on => by cases on),
    State.pump_alike idle (by rw [form]; rfl), form]
  rfl

theorem reset_leaves_chain {j : Job} {b : Nat} {own : OwnClaim} (takes : s.TakesCommands)
    (joined : s.claims.station ≠ .starting) (ends : ClaimEndsUnheld (resetEntered s) w)
    (active : SlotDiscarded s.seq.active) (staged : s.seq.staged = .job j) (ready : j.phase = .ready)
    (bus : j.bus = some b) (operated : j.nothingOperated = false) (entry : w.entryAt b = .own own)
    (held : own.state = .held) (idle : s.ChainIdle) (ops : s.chain.ops = []) :
    exec .stationReset s = .next
      { w with
        claims := claimReleased w.claims b own
        seq := { w.seq with active := .job { j with phase := .releasing, inserted := false }, staged := .empty }
        chain := releaseSent s.chain { bus := b, line := j.order.line } s.time.now } := by
  obtain ⟨form, station, -⟩ := claimEnds_form ends
  have wChain : w.chain = s.chain := by rw [form]; rfl
  have wTime : w.time = s.time := by rw [form]; rfl
  have released : (ordersDiscarded w s.sweep .empty (.job j)).beginRelease .staged
      = (ordersDiscarded (w.setClaims (claimReleased w.claims b own)) s.sweep .empty
          (.job { j with phase := .releasing, inserted := false })).startRelease
            { bus := b, line := j.order.line } .release 1 := by
    rw [State.beginRelease_away (j := j) (b := b) (c := own) (by rfl) bus (by exact entry) (State.ownsHead_staged _)
        (by simp [ready]),
      State.releaseAtChain_starts (p := { bus := b, line := j.order.line }) (by exact State.slot_setSlot _ _ _)
        (by exact bus) (by rfl) (by exact operated)
        (State.connecting?_noOps (by exact wChain ▸ ops)), if_pos held]
    rfl
  rw [exec_stationReset_begins takes joined ends, staged, Slot.dropped_kept (.inl ready), Slot.dropped_discarded active,
    State.resetSlot_empty (id := .active) (by rfl), State.resetSlot_begins (id := .staged) (j := j) (by rfl) (.inl ready),
    released]
  have moved : ((ordersDiscarded (w.setClaims (claimReleased w.claims b own)) s.sweep .empty
        (.job { j with phase := .releasing, inserted := false })).startRelease
          { bus := b, line := j.order.line } .release 1).silenceSweep.slotMove
      = (ordersDiscarded (w.setClaims (claimReleased w.claims b own)) (sweepSilenced s.sweep)
          (.job { j with phase := .releasing, inserted := false }) .empty).startRelease
            { bus := b, line := j.order.line } .release 1 := rfl
  rw [State.settleSlots, moved, State.offerHead_stands (fun i on now => by cases on; cases now),
    State.startRelease_sent (by rw [State.ChainIdle]; exact wChain ▸ idle) (by exact wChain ▸ ops), form]
  rfl

/-! ## The end of a reset (R206) -/

theorem exec_resetEnd_stands (h : s.resetDone = false) : exec .resetEnd s = .next s := by
  simp only [exec, execResetEnd]
  rw [h]
  rfl

theorem State.resetDone_iff (s : State) :
    s.resetDone = true
      ↔ s.claims.station = .resetting ∧ s.seq.active = .empty ∧ s.seq.staged = .empty
        ∧ (∀ f, s.line.flight = some f → f.tx.tag ≠ .ofReset)
        ∧ ∀ tx ∈ s.line.queue ++ s.line.heldClaims, tx.tag ≠ .ofReset := by
  have flights : (!s.line.flight.any (fun f => f.tx.resets)) = true
      ↔ ∀ f, s.line.flight = some f → f.tx.tag ≠ .ofReset := by
    cases s.line.flight <;> simp [Tx.resets]
  have waiting (l : List Tx) : (!l.any Tx.resets) = true ↔ ∀ tx ∈ l, tx.tag ≠ .ofReset := by
    simp [Tx.resets]
  rw [State.resetDone]
  simp only [Bool.and_eq_true, flights, waiting, beq_iff_eq, List.forall_mem_append, and_assoc]

/-- What the end of a reset empties: the transmit queue and every held-back notice, and the reports with the capture (R32, R206). -/
def resetEmptied (s : State) : State :=
  { s with
    line := { s.line with queue := [], heldClaims := [], heldVerdicts := [], heldTickets := [] }
    reports := { s.reports with queue := [], overrun := false, first := none, more := false, kinds := [] } }

theorem exec_resetEnd_leaves (h : s.resetDone = true) : exec .resetEnd s = .next (resetEmptied s).leaveReset := by
  simp only [exec, execResetEnd]
  rw [if_pos h]
  rfl

theorem State.leaveReset_joins (mark : s.claims.clashMark = none) : s.leaveReset = s.beginJoin := by
  rw [State.leaveReset, mark]

/-- With no order and no claim in hand, the isolation of a station moves its notice in flight alone (R35, R36). -/
theorem State.isolate_idle (queue : s.seq.queue = []) (access : s.accessSlot = none) (opening : s.claims.opening = none) :
    s.isolate = (s.setClaims { s.claims with station := .isolated, joinUntil := none }).tryNow := by
  have noTags : s.seq.openTags = [] := by simp [Sequencer.openTags, queue]
  have none_ : (s.setClaims { s.claims with station := .isolated, joinUntil := none }).accessSlot = none := access
  unfold State.isolate
  dsimp only
  rw [State.setClaims_seq, noTags, List.foldl_nil, none_]
  dsimp only
  rw [State.endOpening, State.setClaims_claims]
  dsimp only
  rw [opening]

theorem firstTryBegun_congr (line : t.line = s.line) (now : t.time.now = s.time.now) (sends : SendsNow t ↔ SendsNow s) :
    firstTryBegun t = firstTryBegun s := by
  cases flight : s.line.flight with
  | none => rw [firstTryBegun_none (by rw [line, flight]), firstTryBegun_none flight, line]
  | some f =>
    rw [firstTryBegun_some (f := f) (by rw [line, flight]), firstTryBegun_some flight]
    exact if_congr (and_congr_right fun _ => sends) (by rw [line, now]) line

theorem State.capture_afresh (queue : s.reports.queue = []) (first : s.reports.first = none) (kinds : s.reports.kinds = [])
    (d : ErrorDetail) :
    s.capture d
      = s.setReports
          { s.reports with
            queue := [{ time := s.time.clock, content := .error d true }]
            first := some { detail := d, time := s.time.clock }
            kinds := [d.kind] } := by
  unfold State.capture
  dsimp only
  rw [first]
  dsimp only
  rw [State.post_room (by simp [queue]), kinds, State.setReports_reports, queue]
  rfl

theorem State.leaveReset_isolates {k : NoticeKind} (mark : s.claims.clashMark = some k) (queue : s.seq.queue = [])
    (active : s.seq.active = .empty) (staged : s.seq.staged = .empty) (opening : s.claims.opening = none)
    (resetting : s.claims.station = .resetting) :
    s.leaveReset
      = ((s.setClaims { s.claims with station := .isolated, joinUntil := none, clashMark := none }).setLine
          (firstTryBegun s)).capture (.stationClash k) := by
  have access : (s.setClaims { s.claims with clashMark := none }).accessSlot = none := by
    simp [State.accessSlot, State.findSlot, Slot.job?, active, staged]
  have tried : firstTryBegun (s.setClaims { s.claims with station := .isolated, joinUntil := none, clashMark := none })
      = firstTryBegun s := by
    refine firstTryBegun_congr rfl rfl ?_
    simp [SendsNow, resetting]
  rw [State.leaveReset, mark]
  dsimp only
  rw [State.isolate_idle (by exact queue) access (by exact opening), State.tryNow_eq, State.setClaims_setClaims]
  change ((State.setLine _ (firstTryBegun (s.setClaims { s.claims with
    station := .isolated, joinUntil := none, clashMark := none }))).capture _) = _
  rw [tried]
  rfl

/-- Settles O60. -/
theorem stationResetBeginsAndEnds : Obligations.StationResetBeginsAndEnds := by
  intro s
  refine ⟨fun starting => ?_, fun takes joined idle x w hx ends => ?_, fun other => ?_, fun left => ?_,
    fun resetting active staged queue opening flight waiting r x t u announce hAnnounce hr hx ht hu => ?_⟩
  · rw [exec_stationReset ⟨by simp [starting], by simp [starting]⟩, State.resetStation, if_pos (by exact starting),
      State.reply_eq]
    rfl
  · have ends : ClaimEndsUnheld (resetEntered s) w := by
      rw [hx] at ends
      exact ends
    exact ⟨fun active staged => reset_ends_empty takes joined idle ends active staged,
      fun j b own active staged phase bus head on entry held =>
        reset_leaves_head takes joined idle ends active staged phase bus head on entry held,
      fun j b own active staged ready bus operated entry held free ops =>
        reset_leaves_chain takes joined ends active staged ready bus operated entry held free ops⟩
  · exact exec_resetEnd_stands (Bool.eq_false_iff.mpr fun done => other (s.resetDone_iff.mp done).1)
  · refine exec_resetEnd_stands (Bool.eq_false_iff.mpr fun done => ?_)
    obtain ⟨-, active, staged, flight, waiting⟩ := s.resetDone_iff.mp done
    rcases left with h | h | ⟨f, h, tag⟩ | ⟨tx, mem, tag⟩
    · exact h active
    · exact h staged
    · exact flight f h tag
    · exact waiting tx mem tag
  · have done := s.resetDone_iff.mpr ⟨resetting, active, staged, flight, waiting⟩
    have emptied : t = (resetEmptied s).setClaims { s.claims with station := .joining } := by
      rw [ht, hx, hr]
      rfl
    rw [exec_resetEnd_leaves done]
    refine ⟨fun unmarked => ?_, fun k mark => ?_⟩
    · obtain ⟨first, last, -⟩ := State.beginJoin_clauses (s := resetEmptied s) emptied hAnnounce
      rw [State.leaveReset_joins (by exact unmarked)]
      refine ⟨fun free => ?_, fun inFlight => ?_⟩
      · rw [first (by exact free) rfl]
        rfl
      · rw [last (by exact inFlight) (Nat.zero_lt_succ 15)]
        rfl
    · rw [State.leaveReset_isolates (by exact mark) (by exact queue) (by exact active) (by exact staged)
        (by exact opening) (by exact resetting), State.capture_afresh rfl rfl rfl]
      have tried : firstTryBegun (resetEmptied s) = firstTryBegun u := by rw [hu, hx]; rfl
      rw [tried, hr]
      rfl

end Sys2Proof.Machine
